-- ==== Sys2Proof/Word.lean ====
section
/-! DEFINITION. The words of the Dreurn device: bytes, 32-bit lane elements, 64-bit scalars and command words, and the
sparse tables that hold numbered state. -/

namespace Sys2Proof

/-- One byte. -/
abbrev Byte := BitVec 8

/-- One 32-bit lane element (R47). -/
abbrev W32 := BitVec 32

/-- One 64-bit scalar, wave instruction or engine command word (R47, R304, R328). -/
abbrev W64 := BitVec 64

/-- A sparse table of numbered state: pairs of a number and a value, numbers strictly rising.
A number that is not listed holds the value the reader of the table names. -/
abbrev Tbl (α : Type) := List (Nat × α)

/-- Field `[hi:lo]` of a number (R3). -/
def bitsOf (w hi lo : Nat) : Nat := (w >>> lo) % 2 ^ (hi + 1 - lo)

/-- Bit `[n]` of a number (R3). -/
def bitOf (w n : Nat) : Bool := (w >>> n) % 2 == 1

/-- `⌈a ÷ b⌉`. -/
def cdiv (a b : Nat) : Nat := (a + b - 1) / b

end Sys2Proof
end

