-- ==== Sys2Proof/Machine/Tbl.lean ====
section
/-! DEFINITION. Sparse tables, byte strings and small list operations. -/

namespace Sys2Proof

/-- The value at a number, if it is listed. -/
def Tbl.get? {α : Type} : Tbl α → Nat → Option α
  | [], _ => none
  | (k, v) :: t, n => if k = n then some v else Tbl.get? t n

/-- The value at a number, `d` when it is not listed. -/
def Tbl.get {α : Type} (t : Tbl α) (n : Nat) (d : α) : α := (Tbl.get? t n).getD d

/-- The table with a value at a number. -/
def Tbl.set {α : Type} : Tbl α → Nat → α → Tbl α
  | [], n, v => [(n, v)]
  | (k, w) :: t, n, v =>
    if k < n then (k, w) :: Tbl.set t n v
    else if k = n then (n, v) :: t
    else (n, v) :: (k, w) :: t

/-- The table without a number. -/
def Tbl.erase {α : Type} (t : Tbl α) (n : Nat) : Tbl α := t.filter fun p => p.1 != n

/-- The table with the value at a number changed, `d` standing for an unlisted one. -/
def Tbl.upd {α : Type} (t : Tbl α) (n : Nat) (d : α) (f : α → α) : Tbl α := t.set n (f (t.get n d))

/-- Every value changed. -/
def Tbl.mapVal {α : Type} (t : Tbl α) (f : Nat → α → α) : Tbl α := t.map fun p => (p.1, f p.1 p.2)

/-- The lowest number below `lim` that is not listed. -/
def Tbl.lowestFree {α : Type} (t : Tbl α) (lim : Nat) : Option Nat :=
  (List.range lim).find? fun n => (t.get? n).isNone

namespace Machine

/-- Little-endian bytes as a number (R3). -/
def leNat : List Byte → Nat
  | [] => 0
  | b :: bs => b.toNat + 256 * leNat bs

/-- `n` little-endian bytes of a number (R3). -/
def leBytes : Nat → Nat → List Byte
  | 0, _ => []
  | n + 1, w => BitVec.ofNat 8 w :: leBytes n (w / 256)

/-- A 32-bit word from a number. -/
def w32 (n : Nat) : W32 := BitVec.ofNat 32 n

/-- A 64-bit word from a number. -/
def w64 (n : Nat) : W64 := BitVec.ofNat 64 n

/-- The lanes of a wave. -/
def lanes : List Nat := List.range 32

/-- The lanes of a mask, ascending. -/
def lanesOf (m : W32) : List Nat := lanes.filter fun l => m.getLsbD l

/-- A mask of the lanes that satisfy a test. -/
def maskOf (p : Nat → Bool) : W32 :=
  w32 (lanes.foldl (fun a l => if p l then a + 2 ^ l else a) 0)

/-- A sign-extended number of `n` bits (R3). -/
def sext (n w : Nat) : Int := if w % 2 ^ n < 2 ^ (n - 1) then (w % 2 ^ n : Nat) else (w % 2 ^ n : Nat) - (2 ^ n : Nat)

/-- The `n`-bit pattern of an integer. -/
def wrap (n : Nat) (i : Int) : Nat := (i % ((2 ^ n : Nat) : Int)).toNat

/-- Whether `a` is a multiple of `n`. -/
def isMul (a n : Nat) : Bool := a % n == 0

/-- Whether the byte runs [a, a + n) and [b, b + m) meet. -/
def overlaps (a n b m : Nat) : Bool := a < b + m && b < a + n

/-- A number with field `[hi:lo]` replaced. -/
def setBits (w hi lo v : Nat) : Nat :=
  w - bitsOf w hi lo * 2 ^ lo + (v % 2 ^ (hi + 1 - lo)) * 2 ^ lo

/-- The larger of a list of numbers, 0 for none. -/
def maxList (l : List Nat) : Nat := l.foldl max 0

/-- A saturating 32-bit count. -/
def sat32 (n : Nat) : Nat := min n 0xFFFFFFFF

/-- A list without its first element that satisfies a test. -/
def dropFirst {α : Type} (p : α → Bool) : List α → List α
  | [] => []
  | a :: t => if p a then t else a :: dropFirst p t

/-- The first element that satisfies a test, changed. -/
def modFirst {α : Type} (p : α → Bool) (f : α → α) : List α → List α
  | [] => []
  | a :: t => if p a then f a :: t else a :: modFirst p f t

/-- A fold that stops at the first error. -/
def foldE {α σ ε : Type} (f : σ → α → Except ε σ) : List α → σ → Except ε σ
  | [], s => .ok s
  | a :: t, s =>
    match f s a with
    | .ok s' => foldE f t s'
    | .error e => .error e

end Machine

end Sys2Proof
end

