-- ==== Sys2Proof/Machine/Num.lean ====
section
/-! DEFINITION. The number formats of R62 to R66 and the number helpers of R69, R70, R76, R77 and R79: exact values,
one rounding, conversions. -/

namespace Sys2Proof.Machine

open Sys2Proof

/-- What a format does at its top exponent (R64). -/
inductive Top where
  /-- Infinities and NaNs, as IEEE 754. -/
  | ieee
  /-- E4M3: no infinity, one NaN code a sign. -/
  | e4m3
  /-- E2M1: neither. -/
  | e2m1
  deriving DecidableEq, Repr

/-- A floating-point format (R64). -/
structure Fmt where
  ew : Nat
  mw : Nat
  bias : Nat
  top : Top
  deriving DecidableEq, Repr

namespace Fmt

/-- F64 (R64). -/
def f64 : Fmt := ⟨11, 52, 1023, .ieee⟩
/-- F32 (R64). -/
def f32 : Fmt := ⟨8, 23, 127, .ieee⟩
/-- F16 (R64). -/
def f16 : Fmt := ⟨5, 10, 15, .ieee⟩
/-- BF16 (R64). -/
def bf16 : Fmt := ⟨8, 7, 127, .ieee⟩
/-- E5M2 (R64). -/
def e5m2 : Fmt := ⟨5, 2, 15, .ieee⟩
/-- E4M3 (R64). -/
def e4m3 : Fmt := ⟨4, 3, 7, .e4m3⟩
/-- E2M1 (R64). -/
def e2m1 : Fmt := ⟨2, 1, 1, .e2m1⟩

/-- Bits of an element. -/
def width (f : Fmt) : Nat := 1 + f.ew + f.mw

/-- The exponent of the largest finite value. -/
def maxE (f : Fmt) : Int := (2 ^ f.ew : Nat) - (if f.top = .ieee then 2 else 1) - (f.bias : Int)

/-- The significand of the largest finite value, as an integer of `mw + 1` bits. -/
def maxN (f : Fmt) : Nat := 2 ^ (f.mw + 1) - (if f.top = .e4m3 then 2 else 1)

/-- The exponent of the smallest normal value. -/
def minE (f : Fmt) : Int := 1 - (f.bias : Int)

/-- The sign bit of an element. -/
def signBit (f : Fmt) (neg : Bool) : Nat := if neg then 2 ^ (f.ew + f.mw) else 0

/-- The default NaN (R64, R65): +0 in E2M1, which has none. -/
def defNaN (f : Fmt) : Nat :=
  match f.top with
  | .ieee => (2 ^ f.ew - 1) * 2 ^ f.mw + 2 ^ (f.mw - 1)
  | .e4m3 => 2 ^ (f.ew + f.mw) - 1
  | .e2m1 => 0

/-- An infinity of a format that has one. -/
def inf (f : Fmt) (neg : Bool) : Nat := f.signBit neg + (2 ^ f.ew - 1) * 2 ^ f.mw

/-- The largest finite value with a sign. -/
def maxFinite (f : Fmt) (neg : Bool) : Nat :=
  f.signBit neg + (f.maxE + f.bias).toNat * 2 ^ f.mw + (f.maxN - 2 ^ f.mw)

end Fmt

/-- An exact value, an infinity or a NaN. A finite value is `(-1)^neg × m × 2^e`. -/
inductive FVal where
  | nan (signalling : Bool)
  | inf (neg : Bool)
  | fin (neg : Bool) (m : Nat) (e : Int)
  deriving DecidableEq, Repr

/-- The five exception flags as bits of R67. -/
abbrev FFlags := Nat

/-- Invalid operation (R67). -/
def fNV : FFlags := 1
/-- Division by zero (R67). -/
def fDZ : FFlags := 2
/-- Overflow (R67). -/
def fOF : FFlags := 4
/-- Underflow (R67). -/
def fUF : FFlags := 8
/-- Inexact (R67). -/
def fNX : FFlags := 16

namespace FVal

/-- The value of an element's bits (R64). -/
def decode (f : Fmt) (w : Nat) : FVal :=
  let neg := bitOf w (f.ew + f.mw)
  let ex := (w >>> f.mw) % 2 ^ f.ew
  let fr := w % 2 ^ f.mw
  if f.top = .ieee && ex == 2 ^ f.ew - 1 then
    if fr == 0 then .inf neg else .nan (!bitOf fr (f.mw - 1))
  else if f.top = .e4m3 && ex == 2 ^ f.ew - 1 && fr == 2 ^ f.mw - 1 then .nan false
  else if ex == 0 then .fin neg fr (f.minE - f.mw)
  else .fin neg (fr + 2 ^ f.mw) ((ex : Int) - f.bias - f.mw)

/-- Negation (R65): the sign bit flips. -/
def neg : FVal → FVal
  | .nan q => .nan q
  | .inf n => .inf (!n)
  | .fin n m e => .fin (!n) m e

/-- The value is a NaN. -/
def isNaN : FVal → Bool
  | .nan _ => true
  | _ => false

/-- The value is a signalling NaN. -/
def isSNaN : FVal → Bool
  | .nan q => q
  | _ => false

/-- The value is finite. -/
def isFin : FVal → Bool
  | .fin _ _ _ => true
  | _ => false

/-- The value is a zero. -/
def isZero : FVal → Bool
  | .fin _ m _ => m == 0
  | _ => false

/-- The sign of a value. -/
def sgn : FVal → Bool
  | .nan _ => false
  | .inf n => n
  | .fin n _ _ => n

/-- An integer as a value; 0 is +0. -/
def ofInt (i : Int) : FVal := .fin (i < 0) i.natAbs 0

/-- A finite value times 2^k. -/
def scale (v : FVal) (k : Int) : FVal :=
  match v with
  | .fin n m e => .fin n m (e + k)
  | x => x

/-- The value of an E8M0 scale (R64). -/
def e8m0 (x : Nat) : FVal := if x == 255 then .nan false else .fin false 1 ((x : Int) - 127)

end FVal

/-- An exact rational multiplied by a power of two: `(-1)^neg × num ÷ den × 2^e`, `den > 0`. -/
structure Rat2 where
  neg : Bool
  num : Nat
  den : Nat
  e : Int
  deriving DecidableEq, Repr

/-- ⌊log₂(num ÷ den)⌋ for num, den > 0. -/
def ilog2 (num den : Nat) : Int :=
  let k : Int := (Nat.log2 num : Int) - (Nat.log2 den : Int)
  let ge : Bool := if 0 ≤ k then den * 2 ^ k.toNat ≤ num else den ≤ num * 2 ^ (-k).toNat
  if ge then k else k - 1

/-- ⌊num ÷ den × 2^k⌋ and how the rest compares with a half: 0 exact, 1 below, 2 half, 3 above. -/
def scaleFloor (num den : Nat) (k : Int) : Nat × Nat :=
  let a := if 0 ≤ k then num * 2 ^ k.toNat else num
  let b := if 0 ≤ k then den else den * 2 ^ (-k).toNat
  let q := a / b
  let r := a % b
  (q, if r = 0 then 0 else if 2 * r < b then 1 else if 2 * r = b then 2 else 3)

/-- Whether a rounding mode takes the neighbour farther from zero (R66): `odd` is the last bit of the nearer one. Mode 4 is
RMM of the cited RISC-V architecture, for control and host cores: ties go away from zero. -/
def roundUp (rm : Nat) (neg odd : Bool) (rest : Nat) : Bool :=
  match rm with
  | 0 => rest == 3 || (rest == 2 && odd)
  | 1 => false
  | 2 => neg && rest != 0
  | 3 => !neg && rest != 0
  | _ => 2 ≤ rest

/-- Whether overflow in a rounding mode gives an infinity (R66). -/
def overflowsToInf (rm : Nat) (neg : Bool) : Bool :=
  match rm with
  | 0 => true
  | 1 => false
  | 2 => neg
  | 3 => !neg
  | _ => true

/-- What an overflow or an infinity becomes in a format (R66, R70). -/
def overflowTo (f : Fmt) (rm : Nat) (sat neg : Bool) : Nat :=
  match f.top with
  | .ieee => if sat || !overflowsToInf rm neg then f.maxFinite neg else f.inf neg
  | .e4m3 => if sat || !overflowsToInf rm neg then f.maxFinite neg else f.defNaN
  | .e2m1 => f.maxFinite neg

/-- Round an exact rational to a format (R66, R70): the element's bits and the flags. -/
def roundRat (f : Fmt) (rm : Nat) (sat : Bool) (x : Rat2) : Nat × FFlags :=
  if x.num = 0 then (f.signBit x.neg, 0) else
  let ex := ilog2 x.num x.den + x.e
  let q := max ex f.minE - f.mw
  let (n, rest) := scaleFloor x.num x.den (x.e - q)
  let n := if roundUp rm x.neg (n % 2 == 1) rest then n + 1 else n
  let (n, q) := if n = 2 ^ (f.mw + 1) then (n / 2, q + 1) else (n, q)
  let nx := rest != 0
  -- tininess after rounding (R66): the rounding with no least exponent
  let (u, urest) := scaleFloor x.num x.den (x.e - (ex - f.mw))
  let u := if roundUp rm x.neg (u % 2 == 1) urest then u + 1 else u
  let tiny : Bool := ex < f.minE && !(ex + 1 = f.minE && u = 2 ^ (f.mw + 1))
  if 2 ^ f.mw ≤ n && (f.maxE < q + f.mw || (q + f.mw = f.maxE && f.maxN < n)) then
    (overflowTo f rm sat x.neg, fOF + fNX)
  else
    let bits := if n < 2 ^ f.mw then n else (q + f.mw + f.bias).toNat * 2 ^ f.mw + (n - 2 ^ f.mw)
    (f.signBit x.neg + bits, (if nx then fNX else 0) + (if tiny && nx then fUF else 0))

/-- Round a value to a format (R65, R66, R70): the conversion of a float, with its NaN and infinity rules. -/
def convFloat (f : Fmt) (rm : Nat) (sat : Bool) (v : FVal) : Nat × FFlags :=
  match v with
  | .nan s => (f.defNaN, if s || f.top = .e2m1 then fNV else 0)
  | .inf n =>
    match f.top with
    | .ieee => (if sat then f.maxFinite n else f.inf n, 0)
    | .e4m3 => (if sat then f.maxFinite n else f.defNaN, fOF + fNX)
    | .e2m1 => (f.maxFinite n, fOF + fNX)
  | .fin n m e =>
    let (b, fl) := roundRat f rm sat ⟨n, m, 1, e⟩
    (if f.top = .e2m1 && b == 8 then 0 else b, fl)

/-- Round a result to a format, as the arithmetic instructions do (R65, R66). -/
def roundVal (f : Fmt) (rm : Nat) (v : FVal) : Nat × FFlags :=
  match v with
  | .nan _ => (f.defNaN, 0)
  | .inf n => (f.inf n, 0)
  | .fin n m e => roundRat f rm false ⟨n, m, 1, e⟩

/-- Round a value to an integer (R66): the integer and whether it is inexact. -/
def roundInt (rm : Nat) (neg : Bool) (num den : Nat) (e : Int) : Int × Bool :=
  let (n, rest) := scaleFloor num den e
  let n := if roundUp rm neg (n % 2 == 1) rest then n + 1 else n
  (if neg then -(n : Int) else n, rest != 0)

/-- RoundInt (R79): to an integer with RNE. -/
def rneInt (v : FVal) : Int :=
  match v with
  | .fin n m e => (roundInt 0 n m 1 e).1
  | _ => 0

/-- Float to integer (R70): the value and the flags. -/
def convInt (lo hi : Int) (rm : Nat) (v : FVal) : Int × FFlags :=
  match v with
  | .nan _ => (0, fNV)
  | .inf n => (if n then lo else hi, fNV)
  | .fin n m e =>
    let (i, nx) := roundInt rm n m 1 e
    if i < lo then (lo, fNV) else if hi < i then (hi, fNV) else (i, if nx then fNX else 0)

/-- Two signed magnitudes at one exponent: the exact sum. -/
def addFin (n1 : Bool) (m1 : Nat) (e1 : Int) (n2 : Bool) (m2 : Nat) (e2 : Int) : Int × Int :=
  let e := min e1 e2
  let a : Int := (m1 * 2 ^ (e1 - e).toNat : Nat)
  let b : Int := (m2 * 2 ^ (e2 - e).toNat : Nat)
  ((if n1 then -a else a) + (if n2 then -b else b), e)

/-- The sign of an exact zero sum (R66). -/
def zeroSign (rm : Nat) (n1 n2 : Bool) : Bool := if n1 == n2 then n1 else rm == 2

/-- The exact sum of two values (R65, R66), and NV. -/
def addVal (rm : Nat) (x y : FVal) : FVal × FFlags :=
  let nv := if x.isSNaN || y.isSNaN then fNV else 0
  match x, y with
  | .nan _, _ => (.nan false, nv)
  | _, .nan _ => (.nan false, nv)
  | .inf a, .inf b => if a == b then (.inf a, 0) else (.nan false, fNV)
  | .inf a, _ => (.inf a, 0)
  | _, .inf b => (.inf b, 0)
  | .fin n1 m1 e1, .fin n2 m2 e2 =>
    if m1 = 0 && m2 = 0 then (.fin (zeroSign rm n1 n2) 0 0, 0) else
    let (i, e) := addFin n1 m1 e1 n2 m2 e2
    (.fin (if i = 0 then rm == 2 else i < 0) i.natAbs e, 0)

/-- The exact product of two values (R65), and NV. -/
def mulVal (x y : FVal) : FVal × FFlags :=
  let nv := if x.isSNaN || y.isSNaN then fNV else 0
  match x, y with
  | .nan _, _ => (.nan false, nv)
  | _, .nan _ => (.nan false, nv)
  | .inf a, .fin b m _ => if m = 0 then (.nan false, fNV) else (.inf (a != b), 0)
  | .fin a m _, .inf b => if m = 0 then (.nan false, fNV) else (.inf (a != b), 0)
  | .inf a, .inf b => (.inf (a != b), 0)
  | .fin n1 m1 e1, .fin n2 m2 e2 => (.fin (n1 != n2) (m1 * m2) (e1 + e2), 0)

/-- Whether the magnitude of x is below that of y, both finite. -/
def magLt (m1 : Nat) (e1 : Int) (m2 : Nat) (e2 : Int) : Bool :=
  let e := min e1 e2
  m1 * 2 ^ (e1 - e).toNat < m2 * 2 ^ (e2 - e).toNat

/-- x < y for values that are not NaN; +0 and −0 are equal. -/
def ltVal (x y : FVal) : Bool :=
  match x, y with
  | .nan _, _ => false
  | _, .nan _ => false
  | .inf a, .inf b => a && !b
  | .inf a, _ => a
  | _, .inf b => !b
  | .fin n1 m1 e1, .fin n2 m2 e2 => (addFin n1 m1 e1 (!n2) m2 e2).1 < 0

/-- x = y for values that are not NaN; +0 and −0 are equal. -/
def eqVal (x y : FVal) : Bool := !x.isNaN && !y.isNaN && !ltVal x y && !ltVal y x

/-- RoundF32 (R83): RNE to F32 of an exact rational. -/
def roundF32 (x : Rat2) : W32 := w32 (roundRat .f32 0 false x).1

/-- RoundF32 of a value. -/
def f32Of (v : FVal) : W32 := w32 (roundVal .f32 0 v).1

/-- The value of an F32 word. -/
def f32Val (w : W32) : FVal := .decode .f32 w.toNat

/-- RoundF32 of a sum of two F32 words. -/
def f32Add (a b : W32) : W32 := f32Of (addVal 0 (f32Val a) (f32Val b)).1

/-- RoundF32 of a product of two F32 words. -/
def f32Mul (a b : W32) : W32 := f32Of (mulVal (f32Val a) (f32Val b)).1

/-- The default NaN of F32. -/
def f32NaN : W32 := w32 Fmt.f32.defNaN

/-- ExpOf (R79): ⌊log₂ |v|⌋ of a finite nonzero value. -/
def expOf (v : FVal) : Int :=
  match v with
  | .fin _ m e => (Nat.log2 m : Int) + e
  | _ => 0

/-- Clamping of SAT = 1 (R69): the element clamped to +0 to 1.0. -/
def clamp01 (f : Fmt) (w : Nat) : Nat :=
  match FVal.decode f w with
  | .nan _ => 0
  | v => if v.sgn || v.isZero then 0 else if ltVal (.fin false 1 0) v then (roundRat f 0 false ⟨false, 1, 1, 0⟩).1 else w

/-- A step of the mixing of R76. -/
def mixStep (z sh mul : Nat) : Nat := ((z ^^^ (z >>> sh)) * mul) % 2 ^ 64

/-- SRBits (R76). -/
def srBits (seed ctr : Nat) : Nat :=
  let z := (seed % 2 ^ 64) ^^^ (ctr * 0x9E3779B97F4A7C15 % 2 ^ 64)
  let z := mixStep z 30 0xBF58476D1CE4E5B9
  let z := mixStep z 27 0x94D049BB133111EB
  (z ^^^ (z >>> 31)) >>> 32

/-- RoundSR (R77) of a value, with the flags. -/
def roundSR (f : Fmt) (v : FVal) (rnd : Nat) : Nat × FFlags :=
  match v with
  | .nan _ => (f.defNaN, 0)
  | .inf n => (f.maxFinite n, fOF + fNX)
  | .fin n m e =>
    if m = 0 then (f.signBit n, 0) else
    let (lo, fl) := roundRat f 1 true ⟨n, m, 1, e⟩
    if fl &&& fOF != 0 then (f.maxFinite n, fOF + fNX)
    else if fl &&& fNX = 0 then (lo, 0)
    else
      -- |x| lies between lo and the next magnitude; above the largest finite value it stays there
      if lo == f.maxFinite n then (f.maxFinite n, fOF + fNX) else
      match FVal.decode f lo, FVal.decode f (lo + 1) with
      | .fin _ ml el, .fin _ mh eh =>
        let b := min (min el eh) e
        let L := ml * 2 ^ (el - b).toNat
        let H := mh * 2 ^ (eh - b).toNat
        let X := m * 2 ^ (e - b).toNat
        (if rnd < (X - L) * 2 ^ 32 / (H - L) then lo + 1 else lo, fNX)
      | _, _ => (lo, fNX)

/-- The eight signed values of E2M1 with 0b1000 read as −0.0 (R64, R70). -/
def e2m1Val (c : Nat) : FVal := .decode .e2m1 (c % 16)

/-- The five trits of a T5 byte, and whether it is bad (R75). -/
def tritsOf (b : Nat) : List Int × Bool :=
  if 243 ≤ b then ([0, 0, 0, 0, 0], true)
  else ((List.range 5).map fun i =>
    let t : Nat := b / 3 ^ i % 3
    if t = 2 then (-1 : Int) else (t : Int), false)

/-- A 64-weight T5 group (R75): its trits and how many of its bytes are bad. -/
def t5Group (bs : List Byte) : List Int × Nat :=
  let ps := bs.map fun b => tritsOf b.toNat
  ((ps.flatMap (·.1)).take 64, (ps.filter (·.2)).length)

end Sys2Proof.Machine
end

