-- ==== Sys2Proof/Machine/Coding.lean ====
section
/-! DEFINITION. The bit streams of R173 to R176, the XH block coding of exponent-coded ranges (R121, R122), CRC-32C
(R180) and the store hash (R163). -/

namespace Sys2Proof.Machine

open Sys2Proof

/-- Bit `n` of a bit stream (R173): bit n mod 8 of byte ⌊n ÷ 8⌋; past the end it is 0. -/
def streamBit (bs : List Byte) (n : Nat) : Bool := (bs.getD (n / 8) 0).getLsbD (n % 8)

/-- `k` stream bits from bit `n`, least significant first (R173). -/
def streamBits (bs : List Byte) (n : Nat) : Nat → Nat
  | 0 => 0
  | k + 1 => (if streamBit bs n then 1 else 0) + 2 * streamBits bs (n + 1) k

/-- The result of decoding a chunk: its output bytes, the bit just past it, the T5BAD count and whether it is
malformed (R173). -/
structure Chunk where
  out : List Byte
  next : Nat
  bad : Nat := 0
  malformed : Bool := false
  deriving DecidableEq, Repr

/-- The variants of DECODE (R174 to R176, R356). -/
inductive Variant where
  | bf16 | e4m3 | e5m2 | rlz | trit
  deriving DecidableEq, Repr

/-- Elements, exponent width and mantissa width of an XH variant (R174). -/
def xhShape : Variant → Nat × Nat × Nat
  | .bf16 => (64, 8, 7)
  | .e4m3 => (128, 4, 3)
  | _ => (128, 5, 2)

/-- One element of an XH chunk at a stream bit (R174): its code, the next bit, and whether the exponent is out of range. -/
def xhElem (ew mw : Nat) (base : Int) (bs : List Byte) (n : Nat) : Nat × Nat × Bool :=
  let (e, n) : Int × Nat :=
    if !streamBit bs n then (base, n + 1)
    else if !streamBit bs (n + 1) then (base - 1, n + 2)
    else if !streamBit bs (n + 2) then (base - 2, n + 3)
    else if !streamBit bs (n + 3) then (base - 3, n + 4)
    else ((streamBits bs (n + 4) ew : Int), n + 4 + ew)
  let s := streamBits bs n 1
  let m := streamBits bs (n + 1) mw
  let n := n + 1 + mw
  if e < 0 || (2 ^ ew : Nat) ≤ e then (0, n, true)
  else (s * 2 ^ (ew + mw) + e.toNat * 2 ^ mw + m, n, false)

/-- Elements of an XH chunk (R174). -/
def xhElems (ew mw : Nat) (base : Int) (bs : List Byte) : Nat → Nat → List Nat × Nat × Bool
  | 0, n => ([], n, false)
  | k + 1, n =>
    let (c, n', bad) := xhElem ew mw base bs n
    let (cs, n'', bad') := xhElems ew mw base bs k n'
    (c :: cs, n'', bad || bad')

/-- An XH chunk (R174) at a stream bit. -/
def decodeXH (v : Variant) (bs : List Byte) (n : Nat) : Chunk :=
  let (ne, ew, mw) := xhShape v
  let (cs, n', bad) := xhElems ew mw (streamBits bs n 8) bs ne (n + 8)
  { out := cs.flatMap (leBytes ((1 + ew + mw) / 8)), next := n', malformed := bad }

/-- Tokens of an RLZ chunk (R175) until `left` output bytes are made; the fuel bounds the tokens, each of which makes a
byte. -/
def rlzTokens (bs : List Byte) : Nat → Nat → Nat → List Byte × Nat × Bool
  | 0, _, n => ([], n, false)
  | fuel + 1, left, n =>
    if left = 0 then ([], n, false)
    else if !streamBit bs n then
      let (o, n', b) := rlzTokens bs fuel (left - 1) (n + 9)
      (BitVec.ofNat 8 (streamBits bs (n + 1) 8) :: o, n', b)
    else
      let k := streamBits bs (n + 1) 7 + 1
      if left < k then (List.replicate left 0, n + 8, true)
      else
        let (o, n', b) := rlzTokens bs fuel (left - k) (n + 8)
        (List.replicate k 0 ++ o, n', b)

/-- An RLZ chunk (R175) at a stream bit. -/
def decodeRLZ (bs : List Byte) (n : Nat) : Chunk :=
  let (o, n', b) := rlzTokens bs 128 128 n
  { out := o, next := n', malformed := b }

/-- A TRIT chunk (R176) at a byte-aligned stream bit. -/
def decodeTRIT (bs : List Byte) (n : Nat) : Chunk :=
  let (g0, b0) := t5Group ((bs.drop (n / 8)).take 13)
  let (g1, b1) := t5Group ((bs.drop (n / 8 + 13)).take 13)
  { out := (g0 ++ g1).map fun t => BitVec.ofInt 8 t, next := n + 208, bad := b0 + b1 }

/-- A chunk of a DECODE variant. -/
def decodeChunk (v : Variant) (bs : List Byte) (n : Nat) : Chunk :=
  match v with
  | .rlz => decodeRLZ bs n
  | .trit => decodeTRIT bs n
  | x => decodeXH x bs n

/-- Chunks of an XH payload (R174): none when a chunk is malformed or the payload is too short. -/
def xhChunks (v : Variant) (bs : List Byte) : Nat → Nat → Option (List Byte)
  | 0, _ => some []
  | k + 1, n =>
    let c := decodeXH v bs n
    if c.malformed || 8 * bs.length < c.next then none
    else (xhChunks v bs k c.next).map (c.out ++ ·)

/-- The 4 KiB block that a coded payload of LEN × 256 bytes decodes to (R121, R174). -/
def decodeBlock (v : Variant) (bs : List Byte) : Option (List Byte) := xhChunks v bs 32 0

/-- Bits, least significant first. -/
def bitList : Nat → Nat → List Bool
  | 0, _ => []
  | k + 1, w => (w % 2 == 1) :: bitList k (w / 2)

/-- Bytes of a bit stream, padded with 0 bits (R174). -/
def packBits (bits : List Bool) : List Byte :=
  (List.range ((bits.length + 7) / 8)).map fun i =>
    BitVec.ofNat 8 (((bits.drop (8 * i)).take 8).foldr (fun b a => (if b then 1 else 0) + 2 * a) 0)

/-- The stream bits of one element under a base exponent (R174). -/
def xhEncElem (ew mw base c : Nat) : List Bool :=
  let e := (c >>> mw) % 2 ^ ew
  let prefixBits : List Bool :=
    if e = base then [false]
    else if e + 1 = base then [true, false]
    else if e + 2 = base then [true, true, false]
    else if e + 3 = base then [true, true, true, false]
    else [true, true, true, true] ++ bitList ew e
  prefixBits ++ [bitOf c (ew + mw)] ++ bitList mw c

/-- The stream bits of one chunk (R174). The base exponent is the largest of the chunk, which no rule fixes: the code
of a block is the controller's own choice (log entry 20). -/
def xhEncChunk (v : Variant) (cs : List Nat) : List Bool :=
  let (_, ew, mw) := xhShape v
  let base := maxList (cs.map fun c => (c >>> mw) % 2 ^ ew)
  bitList 8 base ++ cs.flatMap (xhEncElem ew mw base)

/-- The elements of a byte string. -/
def elemsOf (size : Nat) (bs : List Byte) : List Nat :=
  (List.range (bs.length / size)).map fun i => leNat ((bs.drop (size * i)).take size)

/-- The coded payload of a 4 KiB block (R122, R174). -/
def encodeBlock (v : Variant) (bs : List Byte) : List Byte :=
  let size := if v = .bf16 then 2 else 1
  let (ne, _, _) := xhShape v
  let cs := elemsOf size bs
  packBits ((List.range 32).flatMap fun i => xhEncChunk v ((cs.drop (ne * i)).take ne))

/-- One bit of CRC-32C (R180): reflected polynomial 0x82F6_3B78. -/
def crcBit (c : Nat) : Nat := if c % 2 = 1 then (c / 2) ^^^ 0x82F63B78 else c / 2

/-- `k` bits of CRC-32C. -/
def crcBits : Nat → Nat → Nat
  | 0, c => c
  | k + 1, c => crcBits k (crcBit c)

/-- The running CRC-32C after more bytes (R180). -/
def crcUpdate (c : W32) (bs : List Byte) : W32 :=
  w32 (bs.foldl (fun a b => crcBits 8 (a ^^^ b.toNat)) c.toNat)

/-- The CRC-32C of a byte string (R180). -/
def crc32c (bs : List Byte) : W32 := ~~~ crcUpdate 0xFFFFFFFF bs

/-- Mix64 (R163). -/
def mix64 (z : Nat) : Nat :=
  let z := mixStep (z % 2 ^ 64) 30 0xBF58476D1CE4E5B9
  let z := mixStep z 27 0x94D049BB133111EB
  z ^^^ (z >>> 31)

/-- StoreTerm (R163) of one write of z bytes. -/
def storeTerm (seed : W64) (a d z : Nat) : W64 :=
  w64 (mix64 (mix64 (seed.toNat ^^^ (a % 2 ^ 64)) ^^^ (d % 2 ^ 64) ^^^ (z * 2 ^ 56 % 2 ^ 64)))

/-- The terms of one write (R163): one, or one for each half of 16 bytes. -/
def storeTerms (seed : W64) (a : Nat) (bs : List Byte) : W64 :=
  if bs.length = 16 then storeTerm seed a (leNat (bs.take 8)) 8 + storeTerm seed (a + 8) (leNat (bs.drop 8)) 8
  else storeTerm seed a (leNat bs) bs.length

end Sys2Proof.Machine
end

