-- ==== Sys2Proof/Syntax.lean ====
section
/-! DEFINITION. The instructions, engine commands, gaffer instructions and device steps of the Dreurn table, one
constructor a row of the table. Wave instructions carry the fields of their format (R307 to R315), engine commands
the fields of the command word (R328), gaffer instructions their register fields (R248), and device steps the
numbers and values of what happens. -/

namespace Sys2Proof

/-- Format VR (R307), without OPC. -/
structure VR where
  fn : BitVec 4
  vd : BitVec 9
  va : BitVec 9
  vb : BitVec 9
  vc : BitVec 9
  ks : BitVec 3
  oc : BitVec 3
  tr : BitVec 1
  ty : BitVec 4
  rm : BitVec 2
  sat : BitVec 1
  na : BitVec 1
  nc : BitVec 1
  deriving DecidableEq, Repr

/-- Format VI (R309), without OPC. -/
structure VI where
  ty : BitVec 4
  vd : BitVec 9
  va : BitVec 9
  ka : BitVec 1
  tr : BitVec 1
  imm : BitVec 32
  deriving DecidableEq, Repr

/-- Format S (R310), without OPC. -/
structure FS where
  fn : BitVec 4
  sd : BitVec 6
  sa : BitVec 6
  sb : BitVec 6
  ib : BitVec 1
  w : BitVec 1
  imm : BitVec 32
  deriving DecidableEq, Repr

/-- Format C (R311), without OPC; `rsv` is bits [37:32]. -/
structure FC where
  fn : BitVec 4
  cnd : BitVec 4
  sa : BitVec 6
  mask : BitVec 4
  rsv : BitVec 6
  off : BitVec 32
  deriving DecidableEq, Repr

/-- Format C2 (R312), without OPC; `rsv` is bits [47:32]. -/
structure FC2 where
  fn : BitVec 4
  mask : BitVec 4
  rsv : BitVec 16
  tgt : BitVec 16
  rc : BitVec 16
  deriving DecidableEq, Repr

/-- Format M (R313), without OPC; `rsv` is bits [29:28]. -/
structure FM where
  am : BitVec 1
  fn : BitVec 3
  vd : BitVec 9
  va : BitVec 9
  tb : BitVec 4
  rsv : BitVec 2
  brx : BitVec 8
  sz : BitVec 3
  st : BitVec 2
  sc : BitVec 3
  ch : BitVec 2
  off : BitVec 10
  deriving DecidableEq, Repr

/-- Format A (R314), without OPC; `rsv` is bits [3:0]. -/
structure FA where
  fn : BitVec 4
  vd : BitVec 9
  va : BitVec 9
  vb : BitVec 9
  vc : BitVec 9
  tb : BitVec 4
  sz : BitVec 2
  st : BitVec 2
  sc : BitVec 3
  am : BitVec 1
  rsv : BitVec 4
  deriving DecidableEq, Repr

/-- Format E (R315), without OPC. -/
structure FE where
  ws : BitVec 8
  sg : BitVec 8
  f : BitVec 40
  deriving DecidableEq, Repr

/-- An engine command word (R328), without EOP. -/
structure Cmd where
  wait : BitVec 8
  sig : BitVec 8
  f : BitVec 40
  deriving DecidableEq, Repr

/-- The register fields of a gaffer instruction (R248). -/
structure XR where
  rd : BitVec 5
  rs1 : BitVec 5
  rs2 : BitVec 5
  deriving DecidableEq, Repr

/-- A register that a write names: a device register by its local address (R106), or a CSR of a bench's gaffer (R250). -/
inductive RegRef where
  | dev (pa : Nat)
  | csr (b num : Nat)
  deriving DecidableEq, Repr

/-- A unit that can wait: a fragment, a ring, a gaffer or a host core. -/
inductive UnitRef where
  | frag (b slot e : Nat)
  | ring (b slot : Nat)
  | gaffer (b : Nat)
  | host (h : Nat)
  deriving DecidableEq, Repr

/-- A fabric flit (R266): the header fields and the payload bytes. -/
structure Flit where
  type : Nat
  vc : Nat
  dst : Nat
  src : Nat
  tag : Nat
  len : Nat
  sts : Nat
  aop : Nat
  asz : Nat
  addr : Nat
  payload : List Byte
  deriving DecidableEq, Repr

/-- The steps of the device: every row of the table. Three rows without operands stand last, because a constructor past
the 245th can carry no field in compiled code. -/
inductive Instr where
  /-- NOP (R385). Advances PC by 8 and does nothing else. -/
  | nop (f : FC)
  /-- JMP (R364). Uniform jump to a relative, scalar or uniform vector-pair target when its condition holds; FN selects the target kind. -/
  | jmp (f : FC)
  /-- CALL (R344). Writes PC + 8 to the link register and jumps to the target when the condition holds. -/
  | call (f : FC)
  /-- RET (R390). Jumps to the address held in a scalar register when the condition holds. -/
  | ret (f : FC)
  /-- BR (R341). Uniform relative branch on a wave-uniform condition. -/
  | br (f : FC)
  /-- BRS (R343). Divergent branch that partitions the fragment by a mask and may create two child fragments. -/
  | brs (f : FC2)
  /-- JOIN (R365). Ends a child fragment at its reconvergence address and counts its arrival at the parent. -/
  | join (f : FC)
  /-- EXIT (R357). Ends the EXEC lanes of the fragment for good, freeing the entry when no lane remains. -/
  | exit (f : FC)
  /-- TRAP (R410). Raises TRAP with its immediate in AUX when the condition holds. -/
  | trap (f : FC)
  /-- BRKPT (R342). Raises BRKPT and parks the fragment when the condition holds. -/
  | brkpt (f : FC)
  /-- BAR (R339). Performs Release(GROUP) and parks the fragment at the group barrier. -/
  | bar (f : FC)
  /-- CBAR (R340). Performs Release(CELL) and parks the fragment at the cluster barrier. -/
  | cbar (f : FC)
  /-- SLEEP (R401). Parks the fragment for a cycle count, or until a ULI is pending when the count is 0. -/
  | sleep (f : FC)
  /-- ULIRET (R412). Restores the ULI frame registers and flags, frees the handler entry and resumes the suspended entries. -/
  | uliret (f : FC)
  /-- SADD (R394). Scalar add setting SCC. -/
  | sadd (f : FS)
  /-- SSUB (R394). Scalar subtract setting SCC. -/
  | ssub (f : FS)
  /-- SMUL (R394). Scalar multiply, low or signed or unsigned high part. -/
  | smul (f : FS)
  /-- SAND (R394). Scalar bitwise AND setting Z and N. -/
  | sand (f : FS)
  /-- SOR (R394). Scalar bitwise OR setting Z and N. -/
  | sor (f : FS)
  /-- SXOR (R394). Scalar bitwise XOR setting Z and N. -/
  | sxor (f : FS)
  /-- SSHL (R394). Scalar shift left. -/
  | sshl (f : FS)
  /-- SSHR (R394). Scalar logical or arithmetic shift right. -/
  | sshr (f : FS)
  /-- SCMP (R394). Scalar compare that sets SCC from A − B. -/
  | scmp (f : FS)
  /-- SMOV (R394). Scalar move of B, or of an immediate into the high half with SMOV.HI. -/
  | smov (f : FS)
  /-- SSEL (R394). Scalar select of A or B by an SCC condition. -/
  | ssel (f : FS)
  /-- SLD (R396). Scalar load once for the wave through the bench TLB. -/
  | sld (f : FS)
  /-- SST (R396). Scalar store once for the wave through the bench TLB. -/
  | sst (f : FS)
  /-- SXLAT (R397). Walks a VA and fills a group translation register without faulting. -/
  | sxlat (f : FS)
  /-- VADD (R416). Vector integer add with optional saturation. -/
  | vadd (f : VR)
  /-- VSUB (R416). Vector integer subtract with optional saturation. -/
  | vsub (f : VR)
  /-- VMUL (R416). Vector integer multiply, low or high part. -/
  | vmul (f : VR)
  /-- VMAD (R416). Vector integer multiply-add, low part. -/
  | vmad (f : VR)
  /-- VDOT4 (R416). Four-way 8-bit dot product accumulated into 32 bits. -/
  | vdot4 (f : VR)
  /-- VAND (R416). Vector bitwise AND. -/
  | vand (f : VR)
  /-- VOR (R416). Vector bitwise OR. -/
  | vor (f : VR)
  /-- VXOR (R416). Vector bitwise XOR. -/
  | vxor (f : VR)
  /-- VSHL (R416). Vector shift left by B mod element width. -/
  | vshl (f : VR)
  /-- VSHR (R416). Vector logical or arithmetic shift right. -/
  | vshr (f : VR)
  /-- VMIN (R416). Vector integer minimum. -/
  | vmin (f : VR)
  /-- VMAX (R416). Vector integer maximum. -/
  | vmax (f : VR)
  /-- VCMP (R418). Vector integer compare writing a mask for the lanes of EXEC. -/
  | vcmp (f : VR)
  /-- VSEL (R419). Per-lane select of A or B by a mask. -/
  | vsel (f : VR)
  /-- VBFE (R417). Extracts a bit field of A given by offset and width in B. -/
  | vbfe (f : VR)
  /-- VBFI (R417). Inserts A into C at the offset and width in B. -/
  | vbfi (f : VR)
  /-- VPOPC (R416). Counts set bits per lane. -/
  | vpopc (f : VR)
  /-- VCLZ (R416). Counts leading zero bits per lane. -/
  | vclz (f : VR)
  /-- VMOV (R416). Copies A bit for bit per lane. -/
  | vmov (f : VR)
  /-- VADD_IMM (R420). Vector integer add of a 32-bit immediate. -/
  | vaddImm (f : VI)
  /-- VMUL_IMM (R420). Vector integer multiply by an immediate, low part. -/
  | vmulImm (f : VI)
  /-- VAND_IMM (R420). Vector AND with an immediate. -/
  | vandImm (f : VI)
  /-- VOR_IMM (R420). Vector OR with an immediate. -/
  | vorImm (f : VI)
  /-- VCMP_IMM (R420). Vector integer compare against an immediate writing a mask. -/
  | vcmpImm (f : VI)
  /-- VMOV_IMM (R420). Moves an immediate, extended or widened by TY, into each lane. -/
  | vmovImm (f : VI)
  /-- VFADD_IMM (R420). Float add of an immediate under RNE. -/
  | vfaddImm (f : VI)
  /-- VFMUL_IMM (R420). Float multiply by an immediate under RNE. -/
  | vfmulImm (f : VI)
  /-- VFADD (R421). Float add, rounded once by RM. -/
  | vfadd (f : VR)
  /-- VFMUL (R421). Float multiply, rounded once by RM. -/
  | vfmul (f : VR)
  /-- VFMA (R421). Fused float multiply-add with one rounding. -/
  | vfma (f : VR)
  /-- VFMIN (R422). Float minimumNumber or minimum. -/
  | vfmin (f : VR)
  /-- VFMAX (R422). Float maximumNumber or maximum. -/
  | vfmax (f : VR)
  /-- VFCMP (R418). Float compare writing a mask, raising NV as R318 gives. -/
  | vfcmp (f : VR)
  /-- VFDIV (R423). Correctly rounded float division. -/
  | vfdiv (f : VR)
  /-- VFSQRT (R423). Correctly rounded square root. -/
  | vfsqrt (f : VR)
  /-- VRCP (R423). Correctly rounded reciprocal. -/
  | vrcp (f : VR)
  /-- VRSQ (R423). Correctly rounded reciprocal square root. -/
  | vrsq (f : VR)
  /-- VEXP2 (R423). Correctly rounded base-2 exponential. -/
  | vexp2 (f : VR)
  /-- VLOG2 (R423). Correctly rounded base-2 logarithm. -/
  | vlog2 (f : VR)
  /-- VSINCOS (R423). Correctly rounded SinPi, CosPi or both to a pair. -/
  | vsincos (f : VR)
  /-- VFRND (R422). Rounds each float to an integral value by RM. -/
  | vfrnd (f : VR)
  /-- VFRACT (R422). Returns a − ⌊a⌋ rounded towards zero. -/
  | vfract (f : VR)
  /-- VFDOT2 (R421). Two-element 16-bit float dot product plus F32 C with one rounding. -/
  | vfdot2 (f : VR)
  /-- VCVT (R424). Converts between the number types by the rules of R70. -/
  | vcvt (f : VR)
  /-- VQMX (R427). Quantises a 32-lane block to MX codes, a scale and optional residuals. -/
  | vqmx (f : VR)
  /-- VDQMX (R428). Dequantises an MX block image to F32 per lane. -/
  | vdqmx (f : VR)
  /-- DECODE (R356). Decodes one XH, RLZ or TRIT chunk from group scratch into a register and rewrites sA. -/
  | decode (f : VR)
  /-- VQSWZ (R429). Swizzles lanes within each quad by an immediate. -/
  | vqswz (f : VI)
  /-- VSHFL (R430). Shuffles lanes by index, up, down or XOR. -/
  | vshfl (f : VR)
  /-- VRDL (R431). Reads one lane of a vector into a scalar. -/
  | vrdl (f : VR)
  /-- VWRL (R431). Writes a scalar into one lane of a vector. -/
  | vwrl (f : VR)
  /-- BALLOT (R337). Writes a mask with a bit for each contributing lane whose A is nonzero. -/
  | ballot (f : VR)
  /-- VRED (R432). Reduces the contributing lanes in ascending order into a scalar. -/
  | vred (f : VR)
  /-- VSCAN (R432). Inclusive scan over the contributing lanes in ascending order. -/
  | vscan (f : VR)
  /-- MOP (R379). Mask logic, or a mask from a scalar. -/
  | mop (f : VR)
  /-- MSAVE (R379). Copies the fragment's NARROW into a mask register. -/
  | msave (f : VR)
  /-- MREST (R380). Sets or ANDs the fragment's NARROW from a mask. -/
  | mrest (f : VR)
  /-- MPOP (R379). Popcount or lowest set bit of a mask ANDed with EXEC into a scalar. -/
  | mpop (f : VR)
  /-- LD (R369). Lane load through a translation register, a flat address or a buffer record. -/
  | ld (f : FM)
  /-- ST (R403). Lane store through a translation register, a flat address or a buffer record. -/
  | st (f : FM)
  /-- LDS (R371). Lane load from group scratch, bench scratch or the wave's registers. -/
  | lds (f : FM)
  /-- STS (R404). Lane store to group scratch, bench scratch or the wave's registers. -/
  | sts (f : FM)
  /-- LDT (R373). Transposing 16×4 block load from group scratch. -/
  | ldt (f : FM)
  /-- PREF (R389). Requests sectors into the L1 or system cache without faults. -/
  | pref (f : FM)
  /-- CPYA (R352). Adds per-lane asynchronous copies to the wave's open batch after Release(BENCH). -/
  | cpya (f : FM)
  /-- CBATCH (R345). Closes the open copy batch and returns its number. -/
  | cbatch (f : FS)
  /-- CWAIT (R354). Parks until every batch up to n has completed, then acquires at BENCH. -/
  | cwait (f : FS)
  /-- SAMPLE (R398). Filtered texel read through a buffer record per lane. -/
  | sample (f : FM)
  /-- ATOM (R335). Atomic read-modify-write on memory at the home atomic unit. -/
  | atom (f : FA)
  /-- ATOMS (R335). Atomic read-modify-write on group or bench scratch. -/
  | atoms (f : FA)
  /-- SEMP (R400). Waits for and decrements a semaphore, then acquires at BENCH. -/
  | semp (f : FS)
  /-- SEMV (R400). Releases at BENCH and adds 1 or a scalar to a semaphore. -/
  | semv (f : FS)
  /-- SEMRD (R400). Strong relaxed read of a semaphore counter. -/
  | semrd (f : FS)
  /-- FENCE (R362). Orders accesses as the fence kind and scope of R149 give. -/
  | fence (f : FC)
  /-- TLWAIT (R409). Parks until a timeline reaches a value, then acquires. -/
  | tlwait (f : FS)
  /-- TLRD (R409). Strong relaxed read of a timeline. -/
  | tlrd (f : FS)
  /-- TRIG (R411). Releases at DEVICE and marks the wave triggered for early launch. -/
  | trig (f : FC)
  /-- MLOOP (R378). Pushes an MXLOOP command to the context's dynamic matrix ring. -/
  | mloop (f : FE)
  /-- MENQ (R377). Pushes a command word from a scalar to a ring slot of the bench. -/
  | menq (f : FS)
  /-- VXM (R436). Vector times per-lane weight matrix, completed group by group of equal pointers. -/
  | vxm (f : VR)
  /-- TEMIT (R407). Offers mesh groups of a task group to an open pass. -/
  | temit (f : FS)
  /-- MEMIT (R375). Emits one triangle per lane to the cell's tiling engine and writes a code per lane. -/
  | memit (f : VR)
  /-- RTRACE (R393). Traces one ray per lane through a BVH in the traversal unit. -/
  | rtrace (f : VR)
  /-- SRD (R402). Reads a special value into a scalar. -/
  | srd (f : FS)
  /-- SWR (R402). Writes a scalar to an RW special value. -/
  | swr (f : FS)
  /-- LAUNCH (R367). Launches a grid from a wave through a launch queue. -/
  | launch (f : FS)
  /-- NQ (R388). Pushes up to seven command words to a ring of any bench as one act. -/
  | nq (f : FS)
  /-- RQXFER (R391). Moves register granules from the donor wave to another wave of its group. -/
  | rqxfer (f : FS)
  /-- MXZERO (R94). Zeroes an accumulator tile and sets its kind. -/
  | mxzero (c : Cmd)
  /-- MXLOOP (R96). Multiplies A by B over K-steps and accumulates into a tile. -/
  | mxloop (c : Cmd)
  /-- MXEDGE (R97). Evaluates triangle edge functions and writes coverage bits. -/
  | mxedge (c : Cmd)
  /-- MXST (R95). Writes a tile to memory raw or rounded to BF16 or F16. -/
  | mxst (c : Cmd)
  /-- MXLD (R94). Loads a tile from memory unchanged. -/
  | mxld (c : Cmd)
  /-- CPY (R348). Copies rows of 16-byte units. -/
  | cpy (c : Cmd)
  /-- CPYT (R348). Transposes a block of elements. -/
  | cpyt (c : Cmd)
  /-- CPYQ (R348). Quantises a row of blocks to MX format with a cullet. -/
  | cpyq (c : Cmd)
  /-- CPYX (R348). Expands MX, T5 or other blocks to BF16, F32 or I8, optionally transposed. -/
  | cpyx (c : Cmd)
  /-- CPYF (R348). Fills rows with a byte pattern. -/
  | cpyf (c : Cmd)
  /-- CPYC (R348). Computes the CRC-32C of source rows. -/
  | cpyc (c : Cmd)
  /-- CPYM (R179). Migrates one page and swaps its PTE by CAS. -/
  | cpym (c : Cmd)
  /-- FPUT (R271). Writes local rows to remote memory over BULK flits. -/
  | fput (c : Cmd)
  /-- FPUT_Q (R273). Quantises a row of blocks and sends codes and scales to a remote destination. -/
  | fputQ (c : Cmd)
  /-- FGET (R271). Reads remote rows into local memory. -/
  | fget (c : Cmd)
  /-- FCOMP (R360). Sends murrine packets of tiles to the composite root. -/
  | fcomp (c : Cmd)
  /-- FSIG (R272). Releases at SYSTEM and increments a counter on a package by a SIG flit. -/
  | fsig (c : Cmd)
  /-- TBEGIN (R226). Opens a tiling pass and writes its headers and status block. -/
  | tbegin (c : Cmd)
  /-- TEND (R227). Closes a pass to TEMIT and completes when the pass is fully binned. -/
  | tend (c : Cmd)
  /-- IDLE (R330). Engine no-operation that completes at issue. -/
  | idle (c : Cmd)
  /-- COMMAND_COMPLETE (R37). An engine command retires, its SIG is released and the timeline advances over completed commands. -/
  | commandComplete (b : Nat) (slot : Nat) (num : Nat)
  /-- XPUSH (R438). Releases at BENCH and pushes one command word to a ring slot. -/
  | xpush (f : XR)
  /-- XPUSHM (R256). Expands a control-store macro and pushes its commands as one act. -/
  | xpushm (f : XR)
  /-- XFENCE (R444). Performs a fence of R149 for the gaffer's accesses. -/
  | xfence (f : XR)
  /-- XTLRD (R442). Strong relaxed read of a timeline. -/
  | xtlrd (f : XR)
  /-- XTLWAIT (R442). Blocks until a timeline reaches a value, then acquires. -/
  | xtlwait (f : XR)
  /-- XSEMP (R444). Blocks until a physical counter is positive, decrements it and acquires. -/
  | xsemp (f : XR)
  /-- XSEMV (R248). Releases at BENCH and adds n to a physical counter. -/
  | xsemv (f : XR)
  /-- XSEMRD (R248). Strong relaxed read of a physical counter. -/
  | xsemrd (f : XR)
  /-- XSEMWR (R444). Sets a physical counter, granting waits in arrival order. -/
  | xsemwr (f : XR)
  /-- XTICK (R444). Returns package time. -/
  | xtick (f : XR)
  /-- XTKBAR (R439). Blocks until a package-time tick and starts the named armed timed rings. -/
  | xtkbar (f : XR)
  /-- XMSEND (R441). Releases at DEVICE and enqueues a 64-byte message to a mailbox. -/
  | xmsend (f : XR)
  /-- XMRECV (R441). Blocks for a message, writes it and acquires at DEVICE. -/
  | xmrecv (f : XR)
  /-- XHLAUNCH (R443). Launches a grid from a gaffer or host core through a queue. -/
  | xhlaunch (f : XR)
  /-- XDRAIN (R440). Blocks until every unit of a context on the bench has stopped. -/
  | xdrain (f : XR)
  /-- XWMARK (R444). Sets the watermark of a ring slot. -/
  | xwmark (f : XR)
  /-- RBIND (R252). A write to RBIND binds the selected ring slot or is refused with ERR. -/
  | rbind (b : Nat) (v : W64)
  /-- RCTL_RESUME (R252). Moves a HALTED or DRAINED ring to RUNNING. -/
  | rctlResume (b : Nat)
  /-- RCTL_UNBIND (R252). Unbinds a ring slot in an allowed state. -/
  | rctlUnbind (b : Nat)
  /-- RCTL_CLRERR (R252). Clears the slot's ERR bit. -/
  | rctlClrerr (b : Nat)
  /-- RCTL_FINISH (R42). Records the end count of a running timed ring and sets FIN. -/
  | rctlFinish (b : Nat)
  /-- GENT (R53). Writes region-map entries of the selected granules under the gaffer's restrictions. -/
  | gent (b : Nat) (v : W64)
  /-- CSDATA (R254). Reads or writes the control-store word at CSIDX and increments CSIDX. -/
  | csdata (b : Nat) (rd : BitVec 5) (v : Option W64)
  /-- CXCMD_SAVE (R201). Saves a drained context's bench state to its slice and frees its slots and granules. -/
  | cxcmdSave (b : Nat)
  /-- CXCMD_RESTORE (R201). Restores or resumes a context in place once its slots and granules are free. -/
  | cxcmdRestore (b : Nat)
  /-- CXCMD_HWM (R187). Raises a context's HWM on every bench in one step. -/
  | cxcmdHwm (b : Nat)
  /-- SMAP (R203). Writes one entry of a context's semaphore map when R203 allows. -/
  | smap (b : Nat) (v : W64)
  /-- REPLAY (R214). A write of RPLCMD wakes the parkers of matching wait-table entries and entry 63. -/
  | replay (b : Nat) (v : W64)
  /-- ULIPOST (R219). ORs a ULI code into a group's pending code. -/
  | ulipost (b : Nat) (v : W64)
  /-- SHOOTDOWN_GO (R132). Starts a shootdown: invalidates translations and clears DONE. -/
  | shootdownGo (k : Nat)
  /-- SHOOTDOWN_DONE (R132). Sets DONE once in-flight accesses and transfers on the old translations have completed. -/
  | shootdownDone (k : Nat)
  /-- LATCH_REL (R217). Empties the fault latch and reports pending records. -/
  | latchRel (b : Nat)
  /-- FAULT_RING_RIDX (R211). The pager advances RIDX of a context's fault ring. -/
  | faultRingRidx (ctx : Nat) (v : W64)
  /-- FAULT_RECORD_DEFERRED (R211). A record waiting for fault-ring space is written when room appears. -/
  | faultRecordDeferred (ctx : Nat)
  /-- LATCHED_MESSAGE (R216). The latch sends its LATCHED record to NTGT's mailbox once the mailbox accepts it. -/
  | latchedMessage (b : Nat)
  /-- CONTEXT_RESET (R222). A write of RST starts the reset of a context on every bench. -/
  | contextReset (ctx : Nat)
  /-- CONTEXT_RESET_DONE (R222). The reset completes and RSTBUSY clears. -/
  | contextResetDone (ctx : Nat)
  /-- FORMAT_RANGE_VALIDATE (R118). A write setting V validates a format range or is refused with ERR. -/
  | formatRangeValidate (n : Nat) (v : W64)
  /-- FORMAT_RANGE_RETIRE (R118). Clearing V of an exponent-coded range sets BUSY and starts write-back of its view lines. -/
  | formatRangeRetire (n : Nat) (v : W64)
  /-- RANGE_RETIRE_COMPLETE (R118). The range's view lines are written back and invalidated and BUSY clears. -/
  | rangeRetireComplete (n : Nat)
  /-- POOLSZ_RAISE (R123). Raising POOLSZ of a valid range adds free segments. -/
  | poolszRaise (n : Nat) (v : W64)
  /-- VIEW_WRITEBACK (R122). A dirty view line written back re-encodes its whole block into the pool. -/
  | viewWriteback (n : Nat) (blk : Nat)
  /-- POOL_RETRY (R123). A write-back waiting for pool space retries when segments are freed. -/
  | poolRetry (n : Nat) (blk : Nat)
  /-- L1_EVICT (R111). The L1 writes back exactly the masked bytes of a line it replaces. -/
  | l1Evict (b : Nat) (line : Nat)
  /-- UNCORRECTABLE_ERROR (R113). An uncorrectable error poisons a sector. -/
  | uncorrectableError (pa : Nat) (src : Nat)
  /-- ARBITRATION_MODE_WRITE (R162). A write of MODE starts recording or replay, or ends a replay and releases held atomics. -/
  | arbitrationModeWrite (die : Nat) (v : W64)
  /-- GATE_RELEASE (R162). A held atomic matching the head log entry is performed and RUN counts down. -/
  | gateRelease (die : Nat)
  /-- ORDERGATE (R162). An atomic held past GATETO, or a faulting log read, fails every held atomic and ends replay. -/
  | ordergate (die : Nat)
  /-- QGO (R288). Starts an attestation quote over MEAS, NONCE and PKGID. -/
  | qgo
  /-- QUOTE_DONE (R288). The quote signature is written and QDONE set. -/
  | quoteDone
  /-- FEATURE_ACCEPT (R290). A write of ACCEPT keeps the offered bits. -/
  | featureAccept (word : Nat) (v : W64)
  /-- FEATURE_COMMIT (R290). COMMIT sets DONE and fixes the accepted feature set. -/
  | featureCommit
  /-- OWNERSHIP_SEMAPHORE (R289). A port's write claims or releases a control-port ownership semaphore. -/
  | ownershipSemaphore (k : Nat) (a : Option W64) (p : Option W64)
  /-- CELL_POWER_REQ (R291). A write of REQ requests a cell OFF or ON. -/
  | cellPowerReq (c : Nat) (v : W64)
  /-- CELL_OFF_REACHED (R291). A quiescing cell completes QUIESCE and SAVE and gates to OFF. -/
  | cellOffReached (c : Nat)
  /-- CELL_WAKE_DONE (R291). A waking cell returns to ON. -/
  | cellWakeDone (c : Nat)
  /-- PLIM (R292). A write of the module power limit. -/
  | plim (v : W64)
  /-- CLOCK_STEP_SELECT (R292). Every 100 µs the device chooses each die's clock step under PLIM. -/
  | clockStepSelect (k0 : Nat) (k1 : Nat)
  /-- THERMAL_TRIP (R292). At 105 °C the die halts its timed rings and steps its clock down, setting THROT. -/
  | thermalTrip (die : Nat)
  /-- PTC_WRITE (R275). A grandmaster write of package time. -/
  | ptcWrite (v : W64)
  /-- COMPOSITE_GROUP_WRITE (R277). A write to a composite-group descriptor, validated when it sets V. -/
  | compositeGroupWrite (g : Nat) (word : Nat) (v : W64)
  /-- COMPOSITE_FRAME_END (R277). When PTC reaches DL the group ends its frame and advances FRAME and DL. -/
  | compositeFrameEnd (g : Nat)
  /-- HEAD_FLIP (R284). When PTC reaches FLIP the head toggles READY tiles and counts MISST. -/
  | headFlip (h : Nat)
  /-- HEAD_WRITE (R284). A write to a scan-out head block, ignored for an invalid EN setting. -/
  | headWrite (h : Nat) (word : Nat) (v : W64)
  /-- LAUNCH_QUEUE_WRITE (R188). A write to a launch-queue block, ignored when it would set V before DONE. -/
  | launchQueueWrite (q : Nat) (v : W64)
  /-- CONTEXT_TABLE_WRITE (R185). A write of the context table register, ignored while any queue is valid. -/
  | contextTableWrite (v : W64)
  /-- PARTITION_WRITE (R197). A write of a partition block, ignored as a whole when quotas break the limits. -/
  | partitionWrite (b : Nat) (p : Nat) (word : Nat) (v : W64)
  /-- PORT_B_MESSAGE (R257). The last 8-byte write of a Port B message block sends it to the gaffer's mailbox. -/
  | portBMessage (b : Nat) (v : W64)
  /-- REGISTER_WRITE (R5). A write to a device register or CSR with no row of its own, under its access code. -/
  | registerWrite (r : RegRef) (v : W64)
  /-- DEVICE_RESET (R286). Power-on or device reset starts the boot ROM sequence. -/
  | deviceReset
  /-- RECOVERY_IMAGE (R286). An image written to the recovery window is verified, written to flash, and boot restarts. -/
  | recoveryImage (image : List Byte)
  /-- TIMED_RING_RENDEZVOUS (R40). At the XTKBAR tick every named ring of the domain takes the same T(0). -/
  | timedRingRendezvous (die : Nat) (tick : Nat)
  /-- WATCHDOG (R204). A unit parked without progress for the watchdog interval raises WATCHDOG. -/
  | watchdog (u : UnitRef)
  /-- FABTIMEOUT (R269). A remote request with no response within 1 ms raises FABTIMEOUT. -/
  | fabtimeout (tag : Nat)
  /-- LAUNCH_PREDICATE (R194). A head whose dependences are met reads its predicate word once. -/
  | launchPredicate (q : Nat)
  /-- PLACE_GROUP (R195). Each distributor cycle per die places one group or cluster of the winning head. -/
  | placeGroup (die : Nat)
  /-- MESH_GROUP_PLACE (R230). An accepted mesh group is placed from the pass's mesh queue. -/
  | meshGroupPlace (ctx : Nat) (pn : Nat)
  /-- SEMAPHORE_GRANT (R151). A waiting semaphore operation is granted a unit in arrival order. -/
  | semaphoreGrant (b : Nat) (ctr : Nat)
  /-- BARRIER_COMPLETE (R339). When every wave has arrived the group barrier completes and its fragments acquire. -/
  | barrierComplete (b : Nat) (g : Nat)
  /-- CLUSTER_BARRIER_COMPLETE (R340). When every group has arrived the cluster barrier completes. -/
  | clusterBarrierComplete (b : Nat) (g : Nat)
  /-- TIMELINE_WAIT_MET (R409). A parked timeline wait is satisfied and acquires. -/
  | timelineWaitMet (u : UnitRef)
  /-- SLEEP_EXPIRY (R401). A sleeping fragment's cycle count expires or a ULI becomes pending. -/
  | sleepExpiry (b : Nat) (slot : Nat) (e : Nat)
  /-- ULI_DELIVERY (R221). A pending ULI suspends the wave's entries, writes a frame and starts the handler. -/
  | uliDelivery (b : Nat) (slot : Nat)
  /-- LANE_COPY (R352). The copy engine performs one CPYA lane copy. -/
  | laneCopy (b : Nat) (id : Nat)
  /-- SPLIT_TABLE_FILL (R28). A spilled split-table entry is filled back on chip. -/
  | splitTableFill (b : Nat) (slot : Nat) (e : Nat)
  /-- TILING_SPLIT (R233). Overflow under SPLIT stops allocation, signals SPLS once the segment is written. -/
  | tilingSplit (ctx : Nat) (pn : Nat)
  /-- SPLIT_RESUME (R233). On acquiring RESS the pass resets its headers and bins the pending lanes. -/
  | splitResume (ctx : Nat) (pn : Nat)
  /-- RD_FLIT (R269). A received read request is admitted and performed at the point of coherence. -/
  | rdFlit (f : Flit)
  /-- WR_FLIT (R269). A received write request is admitted and performed. -/
  | wrFlit (f : Flit)
  /-- AT_FLIT (R269). A received atomic request is admitted and performed by the atomic unit. -/
  | atFlit (f : Flit)
  /-- SIG_FLIT (R272). A received signal increments a physical counter. -/
  | sigFlit (f : Flit)
  /-- COMP_FLIT (R278). A received composite piece is assembled and checked at a merge point. -/
  | compFlit (f : Flit)
  /-- SYNC_FLIT (R275). A received IEEE 1588 message disciplines package time. -/
  | syncFlit (f : Flit)
  /-- RDR_FLIT (R269). A read response completes a remote read. -/
  | rdrFlit (f : Flit)
  /-- WRA_FLIT (R269). A write acknowledgement completes a remote write. -/
  | wraFlit (f : Flit)
  /-- ATR_FLIT (R269). An atomic response completes a remote atomic. -/
  | atrFlit (f : Flit)
  /-- SIGA_FLIT (R272). A signal acknowledgement completes FSIG or halts on SEMOVF. -/
  | sigaFlit (f : Flit)
  /-- RESERVED_TYPE_FLIT (R266). A flit with a reserved TYPE is discarded and BADFL counted. -/
  | reservedTypeFlit (f : Flit)
  /-- NODE_DEADLINE (R282). At a node's deadline missing inputs are substituted and the node emits. -/
  | nodeDeadline (g : Nat)
  /-- MISSING_COMMAND (R438). A timed ring reaches issue cycle T(k) while command k is not in the ring, and halts with TIMING at k. -/
  | missingCommand (b : Nat) (slot : Nat)
  /-- DRAIN_COMPLETE (R440). The last unit of a draining context on the bench reaches its pre-emption point, so the blocked XDRAIN completes and CXSTAT.DRAINED is set. -/
  | drainComplete (b : Nat) (ctx : Nat)
  /-- SLICE_SAVE_RESTORE_DONE (R201). A context save or restore of a bench slice finishes, returning or retaking slots and granules and clearing CXSTAT.BUSY. -/
  | sliceSaveRestoreDone (b : Nat) (ctx : Nat)
  /-- PORTUP_CHANGE (R265). An Aixus port comes up or goes down, changing PORTUP and which ports may carry flits. -/
  | portupChange (port : Nat) (up : Bool)
  /-- VERTICAL_BLANKING (R284). The start of vertical blanking of a head's DisplayPort stream, from which a pending flip takes effect on screen. -/
  | verticalBlanking (h : Nat)
  /-- UNASSIGNED_OPC (R327). A wave executes a word whose OPC is unassigned, or the word 0, and raises ILLEGAL. -/
  | unassignedOpc (w : W64)
  /-- UNLISTED_EOP (R329). An engine issues a command whose EOP is unlisted, or listed for another engine, and halts its ring with CMDILLEGAL. -/
  | unlistedEop (w : W64)
  /-- UNASSIGNED_CUSTOM0 (R332). A gaffer executes a custom-0 word that matches no X instruction and takes an illegal-instruction exception. -/
  | unassignedCustom0 (w : W32)
  /-- THERMAL_CUT (R292). At 115 °C the package cuts power to both dies. -/
  | thermalCut
  /-- QOS_WINDOW (R116). A new 1 µs budget window begins for the requester classes. -/
  | qosWindow
  /-- LINK_DOWN (R264). Die-to-die retry failing for 1 ms takes the link down. -/
  | linkDown
  deriving DecidableEq, Repr

end Sys2Proof
end

