-- ==== Sys2Proof/Machine/State.lean ====
section
/-! DEFINITION. The state of the Dreurn device: every register, table, queue and memory that the spec names, as plain
data; the reasons a step can stop; and the device after reset. Sparse tables (`Tbl`) list only the numbers whose value
differs from the value after reset, which the reader of the table names. -/

namespace Sys2Proof.Machine

open Sys2Proof

/-- Why the machine stops with a fault. The device itself never stops so: its faults are next states (R206). -/
inductive Fault where
  /-- Raised by a meaning that is called while the unit that would issue it does not exist or is not the unit whose
  turn it is. `step` calls a meaning only for the unit that issues it, so no step raises it: safe. -/
  | noIssuer
  deriving DecidableEq, Repr

/-- Why the machine gives no meaning. -/
inductive Refusal where
  /-- Raised by the dispatch for a row with no meaning yet: safe. -/
  | notModelled (mnemonic : String)
  deriving DecidableEq, Repr

/-! ## Waves -/

/-- A transient result of the bypass network (R60): the lanes it names and how many more issues see it. -/
structure Transient where
  reg : Nat
  mask : W32
  vals : List W32
  left : Nat
  deriving DecidableEq, Repr

/-- The bypass window of a fragment (R61): its first producer, the issues that remain in it, the registers its
instructions have read, the transient results, and the store-hash terms that wait for its close (R163). `left = 0`
is no window. -/
structure Window where
  producer : W64 := 0
  left : Nat := 0
  reads : List Nat := []
  results : List Transient := []
  terms : W64 := 0
  deriving DecidableEq, Repr

/-- Why a fragment is parked (R32). -/
inductive Wait where
  /-- In the wait table for a cause of R206. -/
  | fault (cause : Nat)
  /-- On a physical semaphore counter (R151). -/
  | sem (ctr : Nat)
  /-- On a timeline at a value, to be written to a scalar (R409). -/
  | timeline (sel v sd : Nat)
  /-- At the group barrier. -/
  | bar
  /-- At the cluster barrier. -/
  | cbar
  /-- On copy batches up to a number (R181). -/
  | batch (n : Nat)
  /-- Asleep until a cycle, or until a ULI when there is none (R401). -/
  | sleep (till : Option Nat)
  /-- On lanes of a MEMIT or offers of a TEMIT that wait for a split (R233). -/
  | pass (pn : Nat)
  /-- On responses of another package (R269): waiting on an operand, which is not parking. -/
  | remote
  /-- On the order gate (R162). -/
  | gate
  /-- On an access of its wave, issued before its next instruction, that is still outstanding (R57, R136, R147): waiting on
  an operand or resource, which is not parking. -/
  | order
  /-- On room for `n` more lane copies of the bench (R32, R181): waiting on an issue resource, which is not parking. -/
  | room (n : Nat)
  /-- On nothing more: what its instruction waited for is there, and it is ready (R32). -/
  | back
  deriving DecidableEq, Repr

/-- One split-table entry (R23 to R29). `reads` and `writes` are the registers of an instruction that waits for another
package or the order gate (R57), and `word` is the instruction as it was fetched (R306). -/
structure Frag where
  mask : W32
  pc : W64
  rc : W64 := 0
  narrow : W32 := 0xFFFFFFFF
  link : Option Nat := none
  waiting : Bool := false
  pend : Nat := 0
  arrive : W32 := 0
  created : Nat := 0
  onChip : Bool := true
  since : Nat := 0
  wait : Option Wait := none
  susp : Bool := false
  handler : Bool := false
  win : Window := {}
  vxm : W32 := 0
  codes : Tbl Nat := []
  reads : List Nat := []
  writes : List Nat := []
  word : W64 := 0
  deriving DecidableEq, Repr

/-- A wave in its slot (R19, R20, R47, R49, R54, R67, R153, R181, R220). `held` says that a PRIVGROW of one of its fragments
parks it whole (R29), and `loose` are the entries that have been woken alone since. -/
structure Wave where
  group : Nat
  index : Nat
  s : Tbl W64 := []
  m : Tbl W32 := []
  scc : BitVec 4 := 0
  fpflags : BitVec 5 := 0
  fptrap : BitVec 5 := 0
  helper : W32 := 0
  frags : Tbl Frag := []
  made : Nat := 0
  b0 : Nat := 0
  g0 : Nat := 0
  b1 : Nat := 0
  g1 : Nat := 0
  oc : List Nat := []
  bn : Nat := 0
  trig : Bool := false
  frame : W64 := 0
  held : Bool := false
  loose : List Nat := []
  deriving DecidableEq, Repr

/-- Where a group comes from (R190, R230): a grid of a launch queue, or an accepted mesh group of a pass with its
TASK × 256 + MIDX. -/
inductive Origin where
  | grid (q num : Nat)
  | mesh (pn key : Nat)
  deriving DecidableEq, Repr

/-- A group in its slot (R19, R50, R163, R166, R219, R190, R230). `transNc` are the translation registers filled from an NC
page, which allocates at no cache level (R126), and `transPages` the page of each that is valid: its number and its size in
4 KiB pages. `text` is the package's memory as it stood when the group started, whose instruction words its waves may
have fetched since (R306). -/
structure Group where
  ctx : Nat
  part : Nat
  origin : Origin
  launch : Nat
  groupId : Nat
  clusterId : Nat := 0
  cluster : List (Nat × Nat) := []
  waves : List Nat := []
  nwaves : Nat := 1
  granules : List Nat := []
  scratch : Nat := 0
  early : Bool := false
  param : W64 := 0
  brt : W64 := 0
  brn : Nat := 0
  brecs : Tbl (BitVec 320) := []
  trans : Tbl (BitVec 192) := []
  transNc : List Nat := []
  transPages : Tbl (Nat × Nat) := []
  seed : W64 := 0
  sum : W64 := 0
  uli : W32 := 0
  offered : Nat := 0
  text : Option (List Host.Cell) := none
  deriving DecidableEq, Repr

/-! ## Rings and engines -/

/-- The states of a ring slot (R38). -/
inductive RingState where
  | unbound | running | halted | drained | aborted
  deriving DecidableEq, Repr

/-- The engines a ring can bind (R251). -/
inductive Engine where
  | matrix | copy | fabric | tiling
  deriving DecidableEq, Repr

/-- A command that has issued and is not yet complete (R37, R39, R87, R100, R154, R184): its number and word, the copies of
its records, its place in the bench's issue order (R39, R383), whether it has begun and whether it has since left the array
at a halt or a drain, whether it stands inside a chunk that a drain lets end (R184), its resume indices, the operand bytes fetched of its K-step and how far the check of that has come (R99, R100), whether requests of
its to another package are out (R269, R274), its checksums so far with the bytes they cover by address (R180), values of its own, whether its work is done, its completing increment is owed, or it stands at a fault; and for a timed ring the cycle of its next unit, its
retirement, and its writes until then by local physical address. -/
structure Active where
  num : Nat
  word : W64
  recs : Tbl (BitVec 512) := []
  seq : Nat := 0
  begun : Bool := false
  off : Bool := false
  mid : Bool := false
  idx : Nat := 0
  sub : Nat := 0
  fetched : List Byte := []
  rerun : Nat := 0
  sent : Bool := false
  crcS : W32 := 0xFFFFFFFF
  crcD : W32 := 0xFFFFFFFF
  srcImg : Tbl Byte := []
  dstImg : Tbl Byte := []
  aux : List Nat := []
  worked : Bool := false
  owesSig : Bool := false
  halted : Bool := false
  start : Nat := 0
  retire : Option Nat := none
  wbuf : List (Nat × List Byte) := []
  deriving DecidableEq, Repr

/-- A ring slot (R34, R36, R38, R40 to R42, R250 to R253). `pushed` are the words and shadow entries of the commands that
are not complete as they were pushed, which the bytes in the ring may have lost since (R35, R331), and `head` the word of the
head as the engine has read it, once (R331). -/
structure Ring where
  state : RingState := .unbound
  eng : Engine := .matrix
  timed : Bool := false
  l2n : Nat := 0
  part : Nat := 0
  ctx : Nat := 0
  base : Nat := 0
  wp : Nat := 0
  rp : Nat := 0
  tl : Nat := 0
  err : Bool := false
  armed : Bool := false
  fin : Option Nat := none
  wm : Nat := 0
  tookWait : Bool := false
  lastT : Nat := 0
  slip : Nat := 0
  begun : Bool := false
  first : Bool := false
  done : List Nat := []
  active : List Active := []
  pushed : Tbl (W64 × Nat) := []
  head : Option W64 := none
  deriving DecidableEq, Repr

/-- An engine context (R87, R88, R90, R104, R130, R252): its E-CSRs and its counts. -/
structure EngCtx where
  tmask : BitVec 8 := 0
  vgrant : BitVec 32 := 0
  trbase : BitVec 22 := 0
  pgdist : BitVec 9 := 16
  windowZero : Nat := 0
  escOvf : Nat := 0
  t5Bad : Nat := 0
  satI32 : Nat := 0
  deriving DecidableEq, Repr

/-- An accumulator tile (R86): element (i, j) is entry 64i + j. -/
structure Tile where
  elems : Tbl W32 := []
  int : Bool := false
  poison : Bool := false
  deriving DecidableEq, Repr

/-! ## Faults -/

/-- A fault record (R207). -/
structure FaultRec where
  cause : Nat := 0
  unit : Nat := 0
  ring : Nat := 0
  bench : Nat := 0
  ctx : Nat := 0
  pc : W64 := 0
  va : W64 := 0
  timeline : W64 := 0
  lanes : W32 := 0
  token : W32 := 0
  micro : Nat := 0
  trec : Nat := 0xFF
  access : Nat := 0
  orig : Nat := 0
  macroPc : W64 := 0
  aux : W64 := 0
  deriving DecidableEq, Repr

/-- What is parked under a wait-table entry (R213): a fragment of a context, by its wave slot and split-table entry; a whole
wave (R29); or a lane copy. -/
inductive Parker where
  | frag (ctx slot e : Nat)
  | wave (ctx slot : Nat)
  | copy (id : Nat)
  deriving DecidableEq, Repr

/-- The key of a wait-table entry (R213): a page of a context, or its token alone. -/
inductive WaitKey where
  | page (ctx vpn : Nat)
  | token (ctx : Nat)
  deriving DecidableEq, Repr

/-- A wait-table entry (R213): its generation, its key while it is taken, and its parkers. -/
structure WaitEntry where
  gen : Nat := 0
  key : Option WaitKey := none
  parkers : List Parker := []
  deriving DecidableEq, Repr

/-- The fault latch of a bench (R216, R217), with the records of the bench that wait for it, oldest first. -/
structure Latch where
  record : Option FaultRec := none
  pending : List FaultRec := []
  message : Bool := false
  deriving DecidableEq, Repr

/-! ## Memory -/

/-- A line of a bench's L1 (R110, R111, R114): its physical line number, the granule it lies in, the bytes it holds
(offset and value), the offsets of its masked bytes, the filled sectors, the read-only mark, and which of the granule's four
places it takes. -/
structure Line where
  line : Nat
  granule : Nat
  bytes : Tbl Byte := []
  masked : List Nat := []
  filled : List Nat := []
  ro : Bool := false
  way : Nat := 0
  deriving DecidableEq, Repr

/-- A cached translation (R129): the leaf of a page, its level and size, and whether a shootdown under way keeps it for a
transfer in flight (R16, R132). -/
structure TlbEntry where
  asid : Nat
  vpn : Nat
  pages : Nat
  pte : W64
  level : Nat
  kept : Bool := false
  deriving DecidableEq, Repr

/-- An agent that can make a remote request or hold one back (R269, R162). -/
inductive Agent where
  | frag (b slot e : Nat)
  | ring (b slot num : Nat)
  | copy (b id : Nat)
  | gaffer (b : Nat)
  | host (h : Nat)
  deriving DecidableEq, Repr

/-- A request to another package whose result is not taken yet (R269): who asked, which of its accesses (the model's own
number), the request flit, and its response status and bytes. -/
structure Remote where
  who : Agent
  key : Nat
  req : Flit
  resp : Option (Nat × List Byte) := none
  deriving DecidableEq, Repr

/-- A holder of cached translations (R129, R130): a bench's TLB, the page registers of a ring slot's access queues, the
fabric engine of a die, the tiling engine and the traversal unit of a cell; and the RISC-V TLB of a gaffer or host core,
which no shootdown touches. -/
inductive TlbUnit where
  | bench (b : Nat)
  | queue (b slot : Nat)
  | fabric (die : Nat)
  | tiling (cell : Nat)
  | traversal (cell : Nat)
  | gaffer (b : Nat)
  | host (h : Nat)
  deriving DecidableEq, Repr

/-- A format range (R117), with its rotating pool pointer (R122), the blocks whose write-back waits for pool space (R123),
and the fields under which it retires while BUSY (R118). -/
structure Range where
  word : BitVec 512 := 0
  err : Bool := false
  busy : Bool := false
  waiting : List Nat := []
  free : Nat := 0
  rotor : Nat := 0
  old : BitVec 512 := 0
  deriving DecidableEq, Repr

/-- The poison map control block (R113). -/
structure PoisonMap where
  base : BitVec 56 := 0
  log2n : Nat := 4
  widx : Nat := 0
  ridx : Nat := 0
  ovf : Bool := false
  deriving DecidableEq, Repr

/-- An atomic that the order gate holds (R162): the die that holds it, who issued it, and its line. -/
structure HeldAtomic where
  who : Agent
  grid : Nat
  group : Nat
  wave : Nat
  pc : W64
  lane : Nat
  pa : Nat
  va : W64
  op : Nat
  size : Nat
  b : Nat
  c : Nat
  aq : Nat
  since : Nat
  deriving DecidableEq, Repr

/-- The pages that a shootdown names (R131). -/
structure ShootRange where
  va : W64 := 0
  asid : Nat := 0
  allAsid : Bool := false
  allVa : Bool := false
  npg : Nat := 0
  deriving DecidableEq, Repr

/-- A shootdown block (R131); while it is under way, the pages that its GO named, and what it waits for (R132): commands,
request tags, held atomics, and the runs of physical addresses that the cached translations of those pages gave then. -/
structure Shoot where
  va : W64 := 0
  asid : Nat := 0
  allAsid : Bool := false
  allVa : Bool := false
  npg : Nat := 0
  done : Bool := true
  err : Bool := false
  cmds : List (Nat × Nat × Nat) := []
  tags : List Nat := []
  gates : List HeldAtomic := []
  taken : ShootRange := {}
  frames : List (Nat × Nat) := []
  deriving DecidableEq, Repr

/-- The arbitration control block of a die (R159), the head entry of the log as the order gate has read it with its RUN
counting down, the last recorded atomic with its RUN, and the atomics that the gate holds in arrival order (R161, R162). -/
structure Arb where
  mode : Nat := 0
  ctx : Nat := 0
  base : BitVec 56 := 0
  log2n : Nat := 10
  widx : Nat := 0
  ridx : Nat := 0
  ovf : Bool := false
  gatef : Bool := false
  gateto : Nat := 100
  head : Option Nat := none
  last : Option ((Nat × Nat × Nat × Nat) × Nat) := none
  held : List HeldAtomic := []
  deriving DecidableEq, Repr

/-! ## Copies -/

/-- A lane copy of CPYA (R181, R351 to R353): its own number, that of its CPYA, the issuing wave's slot and lane, the
context, partition and batch, the CPYA's PC, its direction, the memory address, the bench-store byte, its size, whether
its wave has exited, and whether it is parked. -/
structure LaneCopy where
  id : Nat
  op : Nat
  slot : Nat
  lane : Nat
  ctx : Nat
  part : Nat
  batch : Nat
  pc : W64
  out : Bool
  va : W64
  scr : Nat
  size : Nat
  gone : Bool := false
  parked : Bool := false
  deriving DecidableEq, Repr

/-! ## Scheduling -/

/-- An accepted launch that has not completed (R190, R193 to R196). -/
structure Launch where
  num : Nat
  record : BitVec 512
  launch : Nat
  sys : Bool := false
  stage : Nat := 1
  since : Nat := 0
  placed : Nat := 0
  live : Nat := 0
  early : Bool := false
  started : Bool := false
  deriving DecidableEq, Repr

/-- A launch queue (R188, R189). -/
structure Queue where
  ctx : Nat := 0
  pri : Nat := 0
  v : Bool := false
  acc : Nat := 0
  sta : Nat := 0
  tl : Nat := 0
  launches : List Launch := []
  done : List Nat := []
  deriving DecidableEq, Repr

/-- A partition block of a bench (R197). -/
structure Part where
  wq : Nat := 0
  gq : Nat := 0
  gres : Nat := 0
  rq : Nat := 0
  sq : Nat := 0
  wuse : Nat := 0
  guse : Nat := 0
  gearly : Nat := 0
  ruse : Nat := 0
  suse : Nat := 0
  deriving DecidableEq, Repr

/-- What a bench knows of a context (R200, R201, R250): its drain and save state, its semaphore map, and, while it is saved,
its waves and groups, the parkers that a REPLAY has woken (with SKIP or not), and of its slice the number of the open bytes
that the save wrote, the semaphore map and the ring slots (R202). -/
structure CtxBench where
  draining : Bool := false
  drained : Bool := false
  saved : Bool := false
  busy : Nat := 0
  smap : Tbl Nat := []
  waves : Tbl Wave := []
  groups : Tbl Group := []
  woken : List (Parker × Bool) := []
  image : Nat := 0
  imageMap : List Nat := []
  imageRings : List Nat := []
  deriving DecidableEq, Repr

/-- A context's device block (R209), with the HWM of its benches (R133), its launch count (R160) and the records that
wait for room (R211). -/
structure CtxBlock where
  widx : Nat := 0
  ridx : Nat := 0
  ie : Bool := false
  rstbusy : Bool := false
  ntgt : Nat := 0
  ulivec : W64 := 0
  ulistk : W64 := 0
  launches : Nat := 0
  waiting : List (Nat × FaultRec) := []
  deriving DecidableEq, Repr

/-! ## Rendering -/

/-- An accepted mesh group that is not yet placed (R229, R230). -/
structure MeshGroup where
  payload : W64
  task : Nat
  midx : Nat
  deriving DecidableEq, Repr

/-- An open pass (R225 to R235): `recFill` is the next record of a cell's record chunk, `heads` are HEAD, COUNT and TAIL of
the tiles whose list is not empty; `split` is 0 with none under way, 1 while the segment ends, 2 while it waits for RESS, 3
once it has it, 4 while its increment of SPLS is owed; `owed` are the writes from a faulting one on, each with its cell and
address (R245); `homeless` says that its home slot has been unbound since. -/
structure Pass where
  ctx : Nat
  record : BitVec 512
  mrec : BitVec 512
  bench : Nat
  slot : Nat
  num : Nat
  closed : Bool := false
  nextch : Nat := 0
  prims : Nat := 0
  culled : Nat := 0
  discard : Nat := 0
  dropl : Nat := 0
  dropm : Nat := 0
  meshg : Nat := 0
  segs : Nat := 0
  segMesh : Nat := 0
  meshId : Nat := 0
  meshLive : Nat := 0
  queue : List MeshGroup := []
  recFill : Tbl Nat := []
  heads : Tbl (Nat × Nat × Nat) := []
  split : Nat := 0
  halted : Bool := false
  owed : List (Nat × Nat × List Byte) := []
  homeless : Bool := false
  deriving DecidableEq, Repr

/-! ## Control cores -/

/-- The privilege modes (R247). -/
inductive Mode where
  | u | s | m
  deriving DecidableEq, Repr

/-- The control and status registers of a control core or host core that hold a value of their own (R247, R253; the cited
RISC-V architecture, R2). sstatus, sie and sip are views of mstatus, mie and mip; `mip` are the bits that software sets;
`fcsr` holds frm and fflags, `mcycle` the count of cycles as it stood when it was last read or written, and `minstret` the
count of retired instructions. -/
structure Csrs where
  mstatus : W64 := 0
  mie : W64 := 0
  mip : W64 := 0
  medeleg : W64 := 0xB1FF
  mideleg : W64 := 0x1000222
  mtvec : W64 := 0
  mscratch : W64 := 0
  mepc : W64 := 0
  mcause : W64 := 0
  mtval : W64 := 0
  mcounteren : W32 := 0
  stvec : W64 := 0
  sscratch : W64 := 0
  sepc : W64 := 0
  scause : W64 := 0
  stval : W64 := 0
  scounteren : W32 := 0
  satp : W64 := 0
  fcsr : BitVec 8 := 0
  mcycle : W64 := 0
  minstret : W64 := 0
  deriving DecidableEq, Repr

/-- What blocks a control core (R249): a timeline and the value it must reach (R442), a physical semaphore counter
(R444), or the tick of a rendezvous (R439), each with the rd of its instruction. -/
inductive HartWait where
  | timeline (sel v rd : Nat)
  | sem (ctr rd : Nat)
  | tick (t rd : Nat)
  deriving DecidableEq, Repr

/-- A gaffer or host core (R247): RV64 registers, those of the F and D extensions, pc, mode and privileged registers; what blocks it, whether a wait of its on
a timeline has been aborted (R222), and the control store as an XPUSHM in progress has read it (R254). -/
structure Hart where
  x : Tbl W64 := []
  f : Tbl W64 := []
  pc : W64 := 0
  mode : Mode := .m
  csr : Csrs := {}
  blocked : Option HartWait := none
  aborted : Bool := false
  words : Option (Tbl W64) := none
  deriving DecidableEq, Repr

/-- The Siresha CSRs of a gaffer that hold a value of their own (R250, R253, R214). -/
structure XCsrs where
  rsel : Nat := 0
  gsel : W64 := 0
  psel : Nat := 0
  csidx : Nat := 0
  cxsel : Nat := 0
  cxhwm : Nat := 0
  smsel : Nat := 0
  rplarg : W64 := 0
  wmk : BitVec 16 := 0
  flt : Bool := false
  hlt : Bool := false
  mgt : Bool := false
  xie : W64 := 0
  deriving DecidableEq, Repr

/-- A waiting semaphore operation (R151). -/
inductive SemWaiter where
  | frag (slot e : Nat)
  | ring (slot : Nat)
  | gaffer
  | pass (ctx pn : Nat)
  deriving DecidableEq, Repr

/-- One bench (R7): its control core, region map, L1 lines, waves, groups, partitions, rings, tiles, semaphores with
the units of each that FSIG gave (R272), wait table, latch and lane copies; for each engine when its array is free (R105) and the slot it issued last (R39); its store is
part of `State.mem` (R106). -/
structure Bench where
  gaffer : Hart := {}
  csr : XCsrs := {}
  cstore : Tbl W64 := []
  mailbox : List (Nat × List Byte) := []
  regionMap : Tbl (BitVec 16) := []
  lines : List Line := []
  waves : Tbl Wave := []
  groups : Tbl Group := []
  parts : Tbl Part := []
  rings : Tbl Ring := []
  engs : Tbl EngCtx := []
  tiles : Tbl Tile := []
  sems : Tbl Nat := []
  farUnits : Tbl Nat := []
  semWaits : List (Nat × SemWaiter) := []
  waitTable : Tbl WaitEntry := []
  latch : Latch := {}
  copies : List LaneCopy := []
  nextCopy : Nat := 0
  ctxs : Tbl CtxBench := []
  arrayFree : Tbl Nat := []
  lastHead : Tbl Nat := []
  nextSeq : Nat := 0
  deriving DecidableEq, Repr

/-! ## The device -/

/-- The fabric block, routing table and ingress windows (R265, R268), the flits sent, the requests to other packages
in flight, and the murrine packets being assembled (R266, R269, R278). -/
structure Fabric where
  pkgid : Nat := 0
  portup : BitVec 24 := 0
  tocnt : Nat := 0
  badfl : Nat := 0
  cdrop : Nat := 0
  routes : Tbl (BitVec 24) := []
  windows : Tbl (BitVec 256) := []
  outbox : List Flit := []
  remotes : List Remote := []
  nextTag : Nat := 0
  pieces : Tbl (List (Nat × List Byte)) := []
  linkDown : Bool := false
  deriving DecidableEq, Repr

/-- The package-time block (R275), with the nanoseconds for which a follower still holds PTC and those since it last slewed
(R276). -/
structure PtcBlock where
  role : Nat := 0
  ports : BitVec 24 := 0
  ptc : Nat := 0
  bound : Nat := 0xFFFFFFFF
  offset : BitVec 32 := 0
  hold : Nat := 0
  since : Nat := 0
  deriving DecidableEq, Repr

/-- A composite tile: F32 colour and depth of 256 pixels, with the substituted ranks (R278, R279, R282). -/
structure Packet where
  frame : Nat
  tile : Nat
  rlo : Nat
  rhi : Nat
  miss : W64
  colour : List W32
  depth : List W32
  deriving DecidableEq, Repr

/-- A composite group (R277) with the inputs its root node holds and the tiles of the frame it has emitted; `spoiled` says
that another agent has written its staging area. -/
structure Composite where
  word : BitVec 512 := 0
  held : List Packet := []
  emitted : List (Nat × Nat) := []
  spoiled : Bool := false
  deriving DecidableEq, Repr

/-- A scan-out head (R284): its block, the tiles whose slot B is shown, the READY tiles, the flips that wait for the
next vertical blanking with what that flip shows, and whether the written FLIP has been taken. -/
structure Head where
  word : BitVec 512 := 0
  sel : List Nat := []
  ready : List Nat := []
  shown : List Nat := []
  flipped : Bool := true
  deriving DecidableEq, Repr

/-- The boot block, recovery window and attestation registers (R286 to R288), and the contents of boot flash. -/
structure Boot where
  stage : Nat := 0
  booterr : Bool := false
  recov : Bool := false
  meas : BitVec 512 := 0
  idpub : BitVec 256 := 0
  nonce : BitVec 256 := 0
  qdone : Bool := true
  sig : BitVec 512 := 0
  flashConfig : List Byte := []
  flashImage : List Byte := []
  lockstep : Bool := false
  fitted : Nat × Nat := (0, 0)
  window : List Byte := []
  deriving DecidableEq, Repr

/-- A control-port ownership semaphore (R289): its owner, and whether Port B won its last tie. -/
structure Owner where
  own : Nat := 0
  lastB : Bool := true
  deriving DecidableEq, Repr

/-- A cell's power register (R291). -/
structure CellPower where
  req : Bool := false
  state : Nat := 0
  busy : Bool := false
  deriving DecidableEq, Repr

/-- The power block (R292). -/
structure Power where
  plim : Nat := 900
  step0 : Nat := 0
  step1 : Nat := 0
  throt : Bool := false
  off : Bool := false
  deriving DecidableEq, Repr

/-- The feature block (R290). -/
structure Features where
  accept : BitVec 512 := 0
  done : Bool := false
  deriving DecidableEq, Repr

/-- What each die holds of its own (R115, R116, R159, R195, R292): its bench-clock count, its arbitration block, its
regulators, the distributor's round-robin positions, and whether its clock is held. -/
structure Die where
  cycle : Nat := 0
  arb : Arb := {}
  qos : Tbl (BitVec 64) := []
  served : Tbl Nat := []
  tkbars : List (Nat × Nat × Nat) := []
  deriving DecidableEq, Repr

/-- Who moves next: the model's own field, not the spec's. -/
inductive Turn where
  /-- Quarter `q` of bench `b` issues (R31). -/
  | quarter (b q : Nat)
  /-- The engine of ring slot `slot` of bench `b` works or issues the head (R39, R41). -/
  | ring (b slot : Nat)
  /-- The gaffer of bench `b` executes. -/
  | gaffer (b : Nat)
  /-- Host core `h` executes. -/
  | host (h : Nat)
  /-- A device step of the table happens. -/
  | event (i : Instr)
  /-- One bench-clock cycle of a die passes. -/
  | cycle (die : Nat)
  /-- One nanosecond of package time passes. -/
  | nanosecond
  deriving DecidableEq, Repr, Inhabited

/-- The unit whose instruction is being executed: set by `step` before it calls a meaning. -/
inductive Issuer where
  | none
  | wave (b slot e : Nat)
  | ring (b slot num : Nat)
  | gaffer (b : Nat)
  | host (h : Nat)
  deriving DecidableEq, Repr

/-- The device registers that belong to no bench or die, and the package time at which the present budget window began
(R116). -/
structure Device where
  ctxBase : BitVec 50 := 0
  ctxL2n : Nat := 0
  ctxs : Tbl CtxBlock := []
  queues : Tbl Queue := []
  ranges : Tbl Range := []
  poison : PoisonMap := {}
  shoots : Tbl Shoot := []
  composites : Tbl Composite := []
  heads : Tbl Head := []
  owners : Tbl Owner := []
  cells : Tbl CellPower := []
  power : Power := {}
  features : Features := {}
  boot : Boot := {}
  ptc : PtcBlock := {}
  qosWindow : Nat := 0
  fabric : Fabric := {}
  messages : Tbl (List (Nat × W64)) := []
  deriving DecidableEq, Repr

/-- The state of the package. `mem` holds every byte of local memory that differs from 0: LPDDR-6, vaults and bench
stores, by local physical address (R106). `view` are the decoded bytes of view windows that the system cache holds
(R121), `viewHeld` the sectors it holds and `viewDirty` those of them not yet written back (R112). `altered` are the format
ranges whose table, pool or bitmap another than the controller has written (R124). `poisoned` are the poisoned sectors
(R113), `resv` the sectors that LR of a control or host core has reserved (R247). -/
structure State where
  agenda : List Turn
  cur : Issuer
  free : Nat
  mem : List Host.Cell
  view : List Host.Cell
  viewHeld : List Nat
  viewDirty : List Nat
  altered : List Nat
  poisoned : List (Nat × Nat)
  resv : List (Agent × Nat)
  tlbs : List (TlbUnit × TlbEntry)
  benches : Tbl Bench
  dies : Tbl Die
  hosts : Tbl Hart
  passes : Tbl Pass
  dev : Device
  deriving DecidableEq, Repr

/-- The machine right after device reset: every register at the value the spec gives, or the value a log entry names;
nothing bound, resident, queued or written; nobody's turn set. -/
def State.reset : State where
  agenda := []
  cur := .none
  free := 0
  mem := []
  view := []
  viewHeld := []
  viewDirty := []
  altered := []
  poisoned := []
  resv := []
  tlbs := []
  benches := []
  dies := []
  hosts := []
  passes := []
  dev := {}

end Sys2Proof.Machine
end

