-- ==== Sys2Proof/Config.lean ====
section
/-! DEFINITION. What an implementation or an installation fixes and the spec leaves open: constants with no body, so that
nothing can be proved of their values. -/

namespace Sys2Proof.Config

open Sys2Proof Sys2Proof.Machine

/-- The turn taken when the agenda is empty: which unit or device step moves at the n-th such moment. The spec leaves
the interleaving of the units free but for the rules that their meanings enforce. DESIGN CHOICE (log entry 3). -/
opaque schedule : Nat → Turn

/-- The n-th value or choice that the spec leaves open (log entry 2). -/
opaque free : Nat → Nat

/-- The lane results, registers and sums that a saturated or undefined case leaves open, by its operands (log entry 2). -/
opaque freeOf : Nat → Nat → Nat → Nat

/-- The bits of OFFER (R290). -/
opaque offer : BitVec 512

/-- PKGID in a configuration record (R286): the record's layout is not in the spec. -/
opaque recPkgid : List Byte → Nat

/-- Package lockstep in a configuration record (R11, R286). -/
opaque recLockstep : List Byte → Bool

/-- Bytes of LPDDR-6 fitted on a die, in a configuration record (R106, R286). -/
opaque recFitted : List Byte → Nat → Nat

/-- The power-limit default in a configuration record (R286). -/
opaque recPlim : List Byte → Nat

/-- The Siresha root key held in ROM (R286). -/
opaque rootKey : BitVec 256

/-- The signature in a configuration record or an image (R286): where it stands is not in the spec. -/
opaque objSig : List Byte → List Byte

/-- The bytes of a configuration record or an image that its signature covers (R286). -/
opaque objText : List Byte → List Byte

/-- The identity seed, as corrected with the helper data (R288). -/
opaque seed : List Byte

/-- Whether step 4 of the boot succeeds (R286). -/
opaque trained : List Byte → Bool

/-- The physical address at which the boot ROM places the firmware image of boot flash (R286, step 5). -/
opaque firmwareAt : List Byte → Nat

/-- The address where the firmware image of boot flash starts (R286, step 5). -/
opaque firmwareEntry : List Byte → BitVec 64

end Sys2Proof.Config
end

