-- ==== Sys2Proof/Machine/Mem.lean ====
section
/-! DEFINITION. Byte memory in one canonical form: addresses strictly rising and no listed byte 0; an unlisted byte
reads 0 (log entry 1). -/

namespace Sys2Proof.Machine.Mem

open Sys2Proof

/-- The byte at an address; a byte that is not listed is 0 (DESIGN CHOICE, log entry 1). -/
def get : List Host.Cell → Nat → Byte
  | [], _ => 0
  | (k, v) :: t, a => if k = a then v else get t a

/-- The memory with a byte written. Writing 0 unlists the address. -/
def set : List Host.Cell → Nat → Byte → List Host.Cell
  | [], a, v => if v = 0 then [] else [(a, v)]
  | (k, w) :: t, a, v =>
    if k < a then (k, w) :: set t a v
    else if k = a then (if v = 0 then t else (a, v) :: t)
    else if v = 0 then (k, w) :: t else (a, v) :: (k, w) :: t

/-- `n` bytes from an address up. -/
def read (m : List Host.Cell) (a n : Nat) : List Byte := (List.range n).map fun i => get m (a + i)

/-- Bytes written from an address up. -/
def write (m : List Host.Cell) (a : Nat) : List Byte → List Host.Cell
  | [] => m
  | b :: bs => write (set m a b) (a + 1) bs

/-- The canonical form: addresses strictly rising above `lo`, no byte 0. -/
def wfFrom (lo : Nat) : List Host.Cell → Bool
  | [] => true
  | (k, v) :: t => lo ≤ k && v != 0 && wfFrom (k + 1) t

/-- The canonical form. -/
def wf (m : List Host.Cell) : Bool := wfFrom 0 m

end Sys2Proof.Machine.Mem

/-- The canonical form of a memory. -/
abbrev Sys2Proof.Machine.Memory.wf (m : List Host.Cell) : Bool := Sys2Proof.Machine.Mem.wf m
end

