-- ==== Sys2Proof/Machine/Access.lean ====
section
/-! DEFINITION. Reading and changing the numbered parts of the state, with the value each part holds after reset. -/

namespace Sys2Proof.Machine

open Sys2Proof

/-- The n-th open value, and the state that has taken it (log entry 2). -/
def State.fresh (s : State) : Nat × State := (Config.free s.free, { s with free := s.free + 1 })

/-- Bench `b` (R8). -/
def State.bench (s : State) (b : Nat) : Bench := s.benches.get b {}

/-- Bench `b` changed. -/
def State.modBench (s : State) (b : Nat) (f : Bench → Bench) : State := { s with benches := s.benches.upd b {} f }

/-- Die `d` (R8). -/
def State.die (s : State) (d : Nat) : Die := s.dies.get d {}

/-- Die `d` changed. -/
def State.modDie (s : State) (d : Nat) (f : Die → Die) : State := { s with dies := s.dies.upd d {} f }

/-- Host core `h` (R8). -/
def State.host (s : State) (h : Nat) : Hart := s.hosts.get h {}

/-- Host core `h` changed. -/
def State.modHost (s : State) (h : Nat) (f : Hart → Hart) : State := { s with hosts := s.hosts.upd h {} f }

/-- The device registers changed. -/
def State.modDev (s : State) (f : Device → Device) : State := { s with dev := f s.dev }

/-- Launch queue `q` (R188). -/
def State.queue (s : State) (q : Nat) : Queue := s.dev.queues.get q {}

/-- Launch queue `q` changed. -/
def State.modQueue (s : State) (q : Nat) (f : Queue → Queue) : State :=
  s.modDev fun d => { d with queues := d.queues.upd q {} f }

/-- The device block of context `n` (R209). -/
def State.ctxBlock (s : State) (n : Nat) : CtxBlock := s.dev.ctxs.get n {}

/-- The device block of context `n` changed. -/
def State.modCtxBlock (s : State) (n : Nat) (f : CtxBlock → CtxBlock) : State :=
  s.modDev fun d => { d with ctxs := d.ctxs.upd n {} f }

/-- The fabric changed. -/
def State.modFabric (s : State) (f : Fabric → Fabric) : State := s.modDev fun d => { d with fabric := f d.fabric }

/-- Pass `pn` of context `ctx`, when it is open (R226). -/
def State.pass? (s : State) (ctx pn : Nat) : Option Pass := s.passes.get? (ctx * 16 + pn)

/-- An open pass changed. -/
def State.modPass (s : State) (ctx pn : Nat) (f : Pass → Pass) : State :=
  match s.pass? ctx pn with
  | some p => { s with passes := s.passes.set (ctx * 16 + pn) (f p) }
  | none => s

/-- Ring slot `k` of a bench (R38). -/
def Bench.ring (b : Bench) (k : Nat) : Ring := b.rings.get k {}

/-- A ring slot changed. -/
def State.modRing (s : State) (b k : Nat) (f : Ring → Ring) : State :=
  s.modBench b fun x => { x with rings := x.rings.upd k {} f }

/-- Ring slot `k` of bench `b`. -/
def State.ring (s : State) (b k : Nat) : Ring := (s.bench b).ring k

/-- The wave in a slot. -/
def State.wave? (s : State) (b slot : Nat) : Option Wave := (s.bench b).waves.get? slot

/-- A resident wave changed. -/
def State.modWave (s : State) (b slot : Nat) (f : Wave → Wave) : State :=
  match s.wave? b slot with
  | some w => s.modBench b fun x => { x with waves := x.waves.set slot (f w) }
  | none => s

/-- The group in a slot. -/
def State.group? (s : State) (b g : Nat) : Option Group := (s.bench b).groups.get? g

/-- A resident group changed. -/
def State.modGroup (s : State) (b g : Nat) (f : Group → Group) : State :=
  match s.group? b g with
  | some x => s.modBench b fun y => { y with groups := y.groups.set g (f x) }
  | none => s

/-- A split-table entry of a wave (R28). -/
def State.frag? (s : State) (b slot e : Nat) : Option Frag :=
  match s.wave? b slot with
  | some w => w.frags.get? e
  | none => none

/-- A live split-table entry changed. -/
def State.modFrag (s : State) (b slot e : Nat) (f : Frag → Frag) : State :=
  s.modWave b slot fun w =>
    match w.frags.get? e with
    | some x => { w with frags := w.frags.set e (f x) }
    | none => w

/-- The die of a bench (R8). -/
def dieOf (b : Nat) : Nat := b / 128

/-- The cell of a bench (R8). -/
def cellOf (b : Nat) : Nat := b / 8

/-- The die that counts the cycles of a die's lockstep domain: in package lockstep die 1 runs on die 0's clock (R11). -/
def State.domain (s : State) (d : Nat) : Nat := if s.dev.boot.lockstep then 0 else d

/-- The domain bench-clock cycle of a bench (R51). -/
def State.cycle (s : State) (b : Nat) : Nat := (s.die (s.domain (dieOf b))).cycle

/-- The region-map entry of a granule: KIND 4, PART 0 after reset (R52). -/
def Bench.granule (b : Bench) (g : Nat) : BitVec 16 := b.regionMap.get g 4

/-- KIND of a granule (R52). -/
def Bench.kind (b : Bench) (g : Nat) : Nat := (b.granule g).toNat % 8

/-- OWNER of a granule (R52). -/
def Bench.owner (b : Bench) (g : Nat) : Nat := bitsOf (b.granule g).toNat 7 3

/-- PART of a granule (R52). -/
def Bench.gpart (b : Bench) (g : Nat) : Nat := bitsOf (b.granule g).toNat 10 8

/-- A region-map entry (R52). -/
def granuleWord (kind owner part gslot : Nat) : BitVec 16 :=
  BitVec.ofNat 16 (kind + 8 * owner + 256 * part + 2048 * gslot)

/-- Granules whose entry is set. -/
def Bench.setGranules (b : Bench) (gs : List Nat) (v : BitVec 16) : Bench :=
  { b with regionMap := gs.foldl (fun t g => t.set g v) b.regionMap }

/-- The state of cell `c` is ON (R291). -/
def State.cellOn (s : State) (c : Nat) : Bool := (s.dev.cells.get c {}).state == 0

/-- What a bench holds of a context. -/
def Bench.ctx (b : Bench) (n : Nat) : CtxBench := b.ctxs.get n {}

/-- What a bench holds of a context, changed. -/
def State.modCtxBench (s : State) (b n : Nat) (f : CtxBench → CtxBench) : State :=
  s.modBench b fun x => { x with ctxs := x.ctxs.upd n {} f }

/-- The number of an engine (R251). -/
def Engine.code : Engine → Nat
  | .matrix => 0
  | .copy => 1
  | .fabric => 2
  | .tiling => 3

/-- The engine of a number. -/
def Engine.ofCode : Nat → Engine
  | 0 => .matrix
  | 1 => .copy
  | 2 => .fabric
  | _ => .tiling

/-- The number under which a bench keeps an engine context (R252). -/
def engKey (e : Engine) (ctx : Nat) : Nat := e.code * 65536 + ctx

/-- An engine context (R252). -/
def Bench.eng (b : Bench) (e : Engine) (ctx : Nat) : EngCtx := b.engs.get (engKey e ctx) {}

/-- An engine context changed. -/
def State.modEng (s : State) (b : Nat) (e : Engine) (ctx : Nat) (f : EngCtx → EngCtx) : State :=
  s.modBench b fun x => { x with engs := x.engs.upd (engKey e ctx) {} f }

/-- A physical semaphore counter (R151). -/
def Bench.sem (b : Bench) (k : Nat) : Nat := b.sems.get k 0

/-- A physical semaphore counter set. -/
def State.setSem (s : State) (b k v : Nat) : State := s.modBench b fun x => { x with sems := x.sems.set k v }

/-- The physical counter of a virtual semaphore in a context's map: the identity where it is not written (R151, R250). -/
def Bench.physical (b : Bench) (ctx v : Nat) : Nat := (b.ctx ctx).smap.get v v

/-- A register of a hart; x0 reads 0. -/
def Hart.get (h : Hart) (r : Nat) : W64 := if r = 0 then 0 else h.x.get r 0

/-- A register of a hart written; x0 discards. -/
def Hart.set (h : Hart) (r : Nat) (v : W64) : Hart := if r = 0 then h else { h with x := h.x.set r v }

/-- Scalar register `n` of a wave (R47). -/
def Wave.sreg (w : Wave) (n : Nat) : W64 := w.s.get n 0

/-- Mask register `n` of a wave (R47). -/
def Wave.mreg (w : Wave) (n : Nat) : W32 := w.m.get n 0

/-- EXEC of a fragment (R30). -/
def Frag.exec (f : Frag) : W32 := f.mask &&& f.narrow

/-- Registers in a wave's window (R54). -/
def Wave.regs (w : Wave) : Nat := 8 * w.g0 + 8 * w.g1

/-- The bench-store address of a vector register in the window (R54). -/
def Wave.rowAddr (w : Wave) (n : Nat) : Nat := if n < 8 * w.g0 then w.b0 + 128 * n else w.b1 + 128 * (n - 8 * w.g0)

/-- The fragment whose turn `step` set, with its wave and group. -/
structure Wcx where
  b : Nat
  slot : Nat
  e : Nat
  f : Frag
  w : Wave
  g : Group
  deriving DecidableEq, Repr

/-- The issuing fragment, when the issuer is a live fragment of a wave of a resident group. -/
def State.wcx (s : State) : Option Wcx :=
  match s.cur with
  | .wave b slot e =>
    match s.wave? b slot with
    | none => none
    | some w =>
      match w.frags.get? e, s.group? b w.group with
      | some f, some g => some ⟨b, slot, e, f, w, g⟩
      | _, _ => none
  | _ => none

end Sys2Proof.Machine
end

