-- ==== Sys2Proof/Machine/Map.lean ====
section
/-! DEFINITION. The cause codes (R206), the physical map (R106, R107) with the format ranges that place view windows (R117,
R120), and the package that an address names. -/

namespace Sys2Proof.Machine

open Sys2Proof

-- The cause codes of R206.
namespace Cause
/-- ILLEGAL. -/
def illegal : Nat := 0x01
/-- PRIV. -/
def priv : Nat := 0x02
/-- ALIGN. -/
def align : Nat := 0x03
/-- NOTPRESENT. -/
def notPresent : Nat := 0x04
/-- PERM. -/
def perm : Nat := 0x05
/-- POISON. -/
def poison : Nat := 0x06
/-- TIMING. -/
def timing : Nat := 0x07
/-- SEMOVF. -/
def semOvf : Nat := 0x08
/-- CMDILLEGAL. -/
def cmdIllegal : Nat := 0x09
/-- RINGFULL. -/
def ringFull : Nat := 0x0A
/-- CHECKSUM. -/
def checksum : Nat := 0x0B
/-- NONUNIFORM. -/
def nonUniform : Nat := 0x0C
/-- FPTRAP. -/
def fpTrap : Nat := 0x0D
/-- BRKPT. -/
def brkpt : Nat := 0x0F
/-- TRAP. -/
def trap : Nat := 0x10
/-- PRIVGROW. -/
def privGrow : Nat := 0x11
/-- QUOTA. -/
def quota : Nat := 0x12
/-- ABORTED. -/
def aborted : Nat := 0x13
/-- FABTIMEOUT. -/
def fabTimeout : Nat := 0x14
/-- WATCHDOG. -/
def watchdog : Nat := 0x15
/-- ORDERGATE. -/
def orderGate : Nat := 0x16
/-- LATCHED. -/
def latched : Nat := 0x17
/-- FABTIMEOUT of an access that must cross a die-to-die link that is down (R264): a number of the model's own, which a
record holds as FABTIMEOUT, so that its event is counted when it is raised (R265). -/
def linkTimeout : Nat := 0x10014
/-- POISON of a read of `n` view sectors from sector `k` on, of which some became poisoned by this very read because their
payload does not decode (R113, R121): a number of the model's own, which a record holds as POISON, so that the poisoning
stays when the read itself has no effect. -/
def viewPoison (k n : Nat) : Nat := 0x10006 + (k * 256 + n) * 2 ^ 32
/-- A cause as records and parked units name it. -/
def shown (c : Nat) : Nat := if c = linkTimeout then fabTimeout else if c % 2 ^ 32 = 0x10006 then poison else c
end Cause

/-- A cause that a unit raises, with what its record holds of it (R207, R208). -/
structure Raise where
  cause : Nat
  va : Nat := 0
  aux : Nat := 0
  lanes : W32 := 0
  trec : Nat := 0xFF
  access : Nat := 7 * 32
  deriving DecidableEq, Repr

/-- A cause with nothing else. -/
def raiseOf (c : Nat) : Raise := { cause := c }

/-- The start of the vaults (R106). -/
def vaultBase : Nat := 0x80000000000

/-- The start of the bench-store windows (R106). -/
def storeBase : Nat := 0x80100000000

/-- The start of the device registers (R106). -/
def deviceBase : Nat := 0xFFF00000000

/-- The local physical address of a bench-store byte (R106). -/
def storePa (b a : Nat) : Nat := storeBase + b * 0x400000 + a

/-- What an address of the physical map names (R106). -/
inductive Place where
  | lpddr (die : Nat)
  | view (n : Nat)
  | vault (v : Nat)
  | store (b off : Nat)
  | device
  | remote (pkg : Nat)
  | nowhere
  deriving DecidableEq, Repr

/-- BASE of a format range (R117). -/
def Range.base (r : Range) : Nat := bitsOf r.word.toNat 55 12 * 4096
/-- SIZE of a format range in 4 KiB blocks (R117). -/
def Range.size (r : Range) : Nat := bitsOf r.word.toNat 127 96
/-- V of a format range (R117). -/
def Range.v (r : Range) : Bool := bitOf r.word.toNat 0
/-- KIND of a format range: exponent-coded (R117). -/
def Range.coded (r : Range) : Bool := bitOf r.word.toNat 1
/-- FMT of a format range (R117). -/
def Range.fmt (r : Range) : Nat := bitsOf r.word.toNat 5 2
/-- SCB of a format range (R117). -/
def Range.scb (r : Range) : Nat := bitsOf r.word.toNat 247 192
/-- POOL of a format range (R117). -/
def Range.pool (r : Range) : Nat := bitsOf r.word.toNat 311 256
/-- POOLSZ of a format range (R117). -/
def Range.poolsz (r : Range) : Nat := bitsOf r.word.toNat 351 320
/-- FBM of a format range (R117). -/
def Range.fbm (r : Range) : Nat := bitsOf r.word.toNat 439 384

/-- Where a range starts in the local map (R106). -/
def Range.start (r : Range) : Nat := r.base % 2 ^ 44

/-- Whether a range covers a physical address (R117, R118): BASE names its package too. -/
def Range.covers (r : Range) (pa : Nat) : Bool := r.base ≤ pa && pa < r.base + 4096 * r.size

/-- The fields that a range's controller works by: those it was valid with while it retires (R118). -/
def Range.live (r : Range) : Range := if r.busy then { r with word := r.old } else r

/-- Format range `n` (R117). -/
def State.range (s : State) (n : Nat) : Range := s.dev.ranges.get n {}

/-- A format range changed. -/
def State.modRange (s : State) (n : Nat) (f : Range → Range) : State :=
  s.modDev fun d => { d with ranges := d.ranges.upd n {} f }

/-- The valid exponent-coded range whose view window holds a physical address (R120). -/
def State.viewOf (s : State) (pa : Nat) : Option Nat :=
  (s.dev.ranges.find? fun p => p.2.v && p.2.coded && p.2.covers pa).map (·.1)

/-- The valid tag range that governs an address: the lowest-numbered one (R118). -/
def State.tagOf (s : State) (pa : Nat) : Option Nat :=
  (s.dev.ranges.find? fun p => p.2.v && !p.2.coded && p.2.covers pa).map (·.1)

/-- What a 56-bit physical address names (R106). -/
def State.place (s : State) (pa : Nat) : Place :=
  let pkg := pa / 2 ^ 44
  let a := pa % 2 ^ 44
  if pkg != s.dev.fabric.pkgid then .remote pkg
  else if a < s.dev.boot.fitted.1 && a < 0xC000000000 then .lpddr 0
  else if 0x10000000000 ≤ a && a < 0x10000000000 + s.dev.boot.fitted.2 && a < 0x1C000000000 then .lpddr 1
  else if vaultBase ≤ a && a < vaultBase + 0x100000000 then .vault ((a - vaultBase) / 0x8000000)
  else if storeBase ≤ a && a < storeBase + 0x40000000 then
    .store ((a - storeBase) / 0x400000) ((a - storeBase) % 0x400000)
  else if deviceBase ≤ a then .device
  else if 0x40000000000 ≤ a && a < 0x60000000000 then
    match s.viewOf pa with
    | some n => .view n
    | none => .nowhere
  else .nowhere

/-- The die of an Aixus port (R8). -/
def portDie (p : Nat) : Nat := p / 12

/-- Whether requests of a die may leave for another package (R264, R265): PERM when no port that is up carries flits to it;
a time-out when each such port is on the other die and the link between the dies is down. -/
def State.linkTo (s : State) (die pkg : Nat) : Option Nat :=
  let ports := (s.dev.fabric.routes.get pkg 0 &&& s.dev.fabric.portup).toNat
  if ports = 0 then some Cause.perm
  else if s.dev.fabric.linkDown && !((List.range 24).any fun p => bitOf ports p && portDie p == die) then
    some Cause.linkTimeout
  else none

/-- The die that holds a range's POOL (R9). -/
def poolDie (r : Range) : Nat := if r.pool % 2 ^ 44 < 0x10000000000 then 0 else 1

/-- The home die of an address, for a place that has one (R9). -/
def State.homeDie (s : State) (pa : Nat) : Option Nat :=
  match s.place pa with
  | .lpddr d => some d
  | .view n => some (poolDie (s.range n))
  | .vault v => some (v / 16)
  | .store b _ => some (dieOf b)
  | _ => none

end Sys2Proof.Machine
end

