-- ==== Sys2Proof/Machine/Latch.lean ====
section
/-! DEFINITION. The layout of a fault record (R207) and the fault latch of a bench (R216, R217). -/

namespace Sys2Proof.Machine

open Sys2Proof

/-- The 512 bits of a fault record (R207). -/
def FaultRec.bits (r : FaultRec) : Nat :=
  r.cause % 2 ^ 16 + r.unit % 256 * 2 ^ 16 + r.ring % 256 * 2 ^ 24 + r.bench % 2 ^ 16 * 2 ^ 32
    + r.ctx % 2 ^ 16 * 2 ^ 48 + r.pc.toNat * 2 ^ 64 + r.va.toNat * 2 ^ 128 + r.timeline.toNat * 2 ^ 192
    + r.lanes.toNat * 2 ^ 256 + r.token.toNat * 2 ^ 288 + r.micro % 2 ^ 16 * 2 ^ 320 + r.trec % 256 * 2 ^ 336
    + r.access % 256 * 2 ^ 344 + r.orig % 2 ^ 16 * 2 ^ 352 + r.macroPc.toNat * 2 ^ 384 + r.aux.toNat * 2 ^ 448

/-- The 64 bytes of a fault record. -/
def FaultRec.bytes (r : FaultRec) : List Byte := leBytes 64 r.bits

/-- The latch of a bench sends its LATCHED message to NTGT's mailbox when that has a free place (R216, R257). -/
def State.sendLatched (s : State) (b : Nat) : State :=
  let l := (s.bench b).latch
  match l.record with
  | none => s
  | some r =>
    let t := (s.ctxBlock r.ctx).ntgt
    if l.message && (s.bench t).mailbox.length < 16 then
      let m := { r with cause := Cause.latched, orig := r.cause }
      let s := s.modBench t fun x => { x with mailbox := x.mailbox ++ [(0x3FF, m.bytes)] }
      s.modBench b fun x => { x with latch := { x.latch with message := false } }
    else s

/-- A record goes to a bench's latch (R216), which is empty. -/
def State.latchRecord (s : State) (b : Nat) (r : FaultRec) : State :=
  (s.modBench b fun x => { x with latch := { x.latch with record := some r, message := true } }).sendLatched b

/-- The event of an access that a broken die-to-die link ended is counted (R265). -/
def State.noteTimeout (s : State) (cause : Nat) : State :=
  if cause = Cause.linkTimeout then s.modFabric fun f => { f with tocnt := sat32 (f.tocnt + 1) } else s

/-- What a record's ACCESS holds for an access of `n` bytes (R207): 1 read, 2 write, 4 fetch, 8 atomic, 16 strong. The size code
of 128 bytes is 7, which R207 gives to no access too (DESIGN CHOICE, log entry 107). -/
def accessByte (kind n : Nat) (strong : Bool) : Nat := kind + (if strong then 16 else 0) + Nat.log2 n * 32

/-- What a record's ACCESS holds where the cause is that of no access (R207). -/
def noAccess : Nat := 7 * 32

/-- A bench's own access that faults goes to its latch (R216): a record with UNIT = BENCH, or pending while the latch is
full. -/
def State.latchFault (s : State) (b ctx cause va access : Nat) : State :=
  let s := s.noteTimeout cause
  let r : FaultRec := { cause := Cause.shown cause, unit := 7, bench := b, ctx := ctx, va := w64 va, access := access }
  if (s.bench b).latch.record.isSome then
    s.modBench b fun x => { x with latch := { x.latch with pending := x.latch.pending ++ [r] } }
  else s.latchRecord b r

end Sys2Proof.Machine
end

