-- ==== Sys2Proof/Machine/DevRead.lean ====
section
/-! DEFINITION. The device registers by address (R106, R107): every block that the spec defines, and its words as they
read. -/

namespace Sys2Proof.Machine

open Sys2Proof

/-- A field of a composite group's or head's word. -/
def bitsIn {n : Nat} (w : BitVec n) (hi lo : Nat) : Nat := bitsOf w.toNat hi lo

/-- A regulator's value after reset (R115). -/
def qosReset (cls : Nat) : BitVec 64 := w64 (0xFFFFFFFF + (if cls = 0 then 0 else 2 ^ 56))

/-- The first word of a partition block. -/
def Part.word0 (p : Part) : Nat := p.wq + p.gq * 2 ^ 6 + p.gres * 2 ^ 12 + p.rq * 2 ^ 24 + p.sq * 2 ^ 37
/-- The second word of a partition block. -/
def Part.word1 (p : Part) : Nat := p.wuse + p.guse * 2 ^ 6 + p.gearly * 2 ^ 12 + p.ruse * 2 ^ 24 + p.suse * 2 ^ 37

/-- The words of an arbitration block as they read (R159). -/
def Arb.word (a : Arb) (w : Nat) : Nat :=
  match w with
  | 0 => a.mode + a.ctx * 2 ^ 16
  | 1 => a.base.toNat
  | 2 => a.log2n
  | 3 => a.widx % 2 ^ 64
  | 4 => a.ridx % 2 ^ 64
  | 5 => (if a.ovf then 1 else 0) + (if a.gatef then 2 else 0) + a.gateto * 2 ^ 32
  | _ => 0

/-- The words of a context's device block as they read (R209). -/
def State.ctxBlockWord (s : State) (n w : Nat) : Nat :=
  let c := s.ctxBlock n
  match w with
  | 0 => c.widx
  | 1 => c.ridx
  | 2 => (if c.waiting = [] then 0 else 1) + (if c.ie then 2 else 0) + (if c.rstbusy then 8 else 0) + c.ntgt * 2 ^ 16
  | 3 => c.ulivec.toNat
  | 4 => c.ulistk.toNat
  | _ => 0

/-- A register word that the address map defines: its block, its number in the block, and its word. -/
inductive DevReg where
  | range (n w : Nat)
  | qos (die cls : Nat)
  | poisonMap (w : Nat)
  | shoot (k w : Nat)
  | arb (die w : Nat)
  | part (b p w : Nat)
  | queue (q w : Nat)
  | ctxTable
  | fabric (w : Nat)
  | route (p : Nat)
  | window (k w : Nat)
  | ptc (w : Nat)
  | latch (b w : Nat)
  | portB (g w : Nat)
  | composite (g w : Nat)
  | head (h w : Nat)
  | boot (w : Nat)
  | nonce (w : Nat)
  | quote
  | sig (w : Nat)
  | owner (k : Nat)
  | recovery (off : Nat)
  | feature (w : Nat)
  | cell (c : Nat)
  | power
  | ctx (n w : Nat)
  deriving DecidableEq, Repr

/-- The register of an 8-byte-aligned offset into the device registers (R106); none where no block lies. -/
def DevReg.ofOff (o : Nat) : Option DevReg :=
  let inBlk (base size : Nat) : Bool := base ≤ o && o < base + size
  let w (base : Nat) : Nat := (o - base) / 8
  if inBlk 0x10000 0x1000 then some (.range (w 0x10000 / 8) (w 0x10000 % 8))
  else if inBlk 0x20000 64 then some (.qos 0 (w 0x20000))
  else if inBlk 0x21000 64 then some (.qos 1 (w 0x21000))
  else if inBlk 0x30000 40 then some (.poisonMap (w 0x30000))
  else if inBlk 0x40000 (32 * 288) then some (.shoot (w 0x40000 / 4) (w 0x40000 % 4))
  else if inBlk 0x50000 64 then some (.arb 0 (w 0x50000))
  else if inBlk 0x51000 64 then some (.arb 1 (w 0x51000))
  else if inBlk 0x60000 (0x80 * 256) then some (.part (w 0x60000 / 16) (w 0x60000 / 2 % 8) (w 0x60000 % 2))
  else if inBlk 0x70000 (32 * 64) then some (.queue (w 0x70000 / 4) (w 0x70000 % 4))
  else if o = 0x80000 then some .ctxTable
  else if inBlk 0xA0000 64 then some (.fabric (w 0xA0000))
  else if inBlk 0xA1000 (8 * 4096) then some (.route (w 0xA1000))
  else if inBlk 0xB0000 (32 * 32) then some (.window (w 0xB0000 / 4) (w 0xB0000 % 4))
  else if inBlk 0xC0000 32 then some (.ptc (w 0xC0000))
  else if inBlk 0xD0000 (128 * 256) then some (.latch (w 0xD0000 / 16) (w 0xD0000 % 16))
  else if inBlk 0xE0000 (64 * 256) then some (.portB (w 0xE0000 / 8) (w 0xE0000 % 8))
  else if inBlk 0xF0000 (64 * 16) then some (.composite (w 0xF0000 / 8) (w 0xF0000 % 8))
  else if inBlk 0x100000 0x4000 && (o - 0x100000) % 0x1000 < 64 then
    some (.head ((o - 0x100000) / 0x1000) ((o - 0x100000) % 0x1000 / 8))
  else if inBlk 0x110000 104 then some (.boot (w 0x110000))
  else if inBlk 0x110200 32 then some (.nonce (w 0x110200))
  else if o = 0x110220 then some .quote
  else if inBlk 0x110240 64 then some (.sig (w 0x110240))
  else if inBlk 0x110400 256 then some (.owner (w 0x110400))
  else if inBlk 0x111000 0xF000 then some (.recovery (o - 0x111000))
  else if inBlk 0x120000 136 then some (.feature (w 0x120000))
  else if inBlk 0x130000 256 then some (.cell (w 0x130000))
  else if o = 0x140000 then some .power
  else if inBlk 0x200000 0x40000 then some (.ctx (w 0x200000 / 8) (w 0x200000 % 8))
  else none

/-- A range block's word as it reads (R117): RSB and SRS of an exponent-coded range are ignored and read 0 (R451). -/
def Range.readWord (r : Range) (w : Nat) : Nat :=
  let x := bitsOf r.word.toNat (64 * w + 63) (64 * w)
  if w = 2 && r.coded then 0
  else if w = 0 then x + (if r.err then 64 else 0) + (if r.busy then 128 else 0) + (if r.waiting = [] then 0 else 256)
  else if w = 5 then x + r.free % 2 ^ 32 * 2 ^ 32 else x

/-- A shootdown block's word as it reads (R131). -/
def Shoot.readWord (k : Shoot) (w : Nat) : Nat :=
  match w with
  | 0 => k.va.toNat
  | 1 => k.asid + (if k.allAsid then 2 ^ 16 else 0) + (if k.allVa then 2 ^ 17 else 0) + k.npg * 2 ^ 18
  | 2 => (if k.done then 1 else 0) + (if k.err then 2 else 0)
  | _ => 0

/-- The fabric block's words (R265). -/
def Fabric.readWord (f : Fabric) (w : Nat) : Nat :=
  match w with
  | 0 => f.pkgid
  | 1 => f.portup.toNat
  | 2 => sat32 f.tocnt + sat32 f.badfl * 2 ^ 32
  | 3 => sat32 f.cdrop
  | _ => 0

/-- The package-time block's words (R275). -/
def PtcBlock.readWord (p : PtcBlock) (w : Nat) : Nat :=
  match w with
  | 0 => p.role + p.ports.toNat * 2 ^ 8 + (if p.bound ≤ 100 then 2 ^ 32 else 0)
  | 1 => p.ptc % 2 ^ 64
  | 2 => p.bound % 2 ^ 32 + p.offset.toNat * 2 ^ 32
  | _ => 0

/-- The latch block's words (R217). -/
def Latch.readWord (l : Latch) (w : Nat) : Nat :=
  if w < 8 then (match l.record with | some r => bitsOf r.bits (64 * w + 63) (64 * w) | none => 0)
  else if w = 8 then (if l.record.isSome then 1 else 0) + (if l.pending = [] then 0 else 2)
  else 0

/-- The boot block's words (R287). -/
def Boot.readWord (b : Boot) (w : Nat) : Nat :=
  if w = 0 then b.stage + (if b.booterr then 8 else 0) + (if b.recov then 16 else 0)
  else if w < 9 then bitsIn b.meas (64 * (w - 1) + 63) (64 * (w - 1))
  else bitsIn b.idpub (64 * (w - 9) + 63) (64 * (w - 9))

/-- A read of a register word (R107): the value, and the state. TMAX, the sensor, is a free value; so is a word of Port
B's message block, which only Port B writes, and of SIG while a quote is in progress, which holds no valid signature then
(R288; log entry 2). -/
def State.readReg (s : State) : DevReg → Nat × State
  | .range n w => ((s.range n).readWord w, s)
  | .qos d c => (((s.die d).qos.get c (qosReset c)).toNat, s)
  | .poisonMap w =>
    let p := s.dev.poison
    (match w with
     | 0 => p.base.toNat
     | 1 => p.log2n
     | 2 => p.widx % 2 ^ 64
     | 3 => p.ridx % 2 ^ 64
     | _ => if p.ovf then 1 else 0, s)
  | .shoot k w => ((s.dev.shoots.get k {}).readWord w, s)
  | .arb d w => ((s.die d).arb.word w, s)
  | .part b p w =>
    let x := (s.bench b).parts.get p {}
    (if w = 0 then x.word0 else x.word1, s)
  | .queue q w =>
    let k := s.queue q
    (match w with
     | 0 => k.ctx + k.pri * 2 ^ 16 + (if k.v then 2 ^ 19 else 0)
     | 1 => k.acc % 2 ^ 64
     | 2 => k.sta % 2 ^ 64
     | _ => k.tl % 2 ^ 64, s)
  | .ctxTable => (s.dev.ctxBase.toNat * 64 + s.dev.ctxL2n * 2 ^ 56, s)
  | .fabric w => (s.dev.fabric.readWord w, s)
  | .route p => ((s.dev.fabric.routes.get p 0).toNat, s)
  | .window k w => (bitsIn (s.dev.fabric.windows.get k 0) (64 * w + 63) (64 * w), s)
  | .ptc w => (s.dev.ptc.readWord w, s)
  | .latch b w => ((s.bench b).latch.readWord w, s)
  | .portB _ _ => let (n, s) := s.fresh; (n % 2 ^ 64, s)
  | .composite g w => (bitsIn (s.dev.composites.get g {}).word (64 * w + 63) (64 * w), s)
  | .head h w => (bitsIn (s.dev.heads.get h {}).word (64 * w + 63) (64 * w), s)
  | .boot w => (s.dev.boot.readWord w, s)
  | .nonce w => (bitsIn s.dev.boot.nonce (64 * w + 63) (64 * w), s)
  | .quote => (if s.dev.boot.qdone then 2 else 0, s)
  | .sig w => if s.dev.boot.qdone then (bitsIn s.dev.boot.sig (64 * w + 63) (64 * w), s)
    else let (n, s) := s.fresh; (n % 2 ^ 64, s)
  | .owner k => ((s.dev.owners.get k {}).own, s)
  | .recovery o => (leNat ((s.dev.boot.window.drop o).take 8), s)
  | .feature w =>
    (if w < 8 then bitsIn Config.offer (64 * w + 63) (64 * w)
     else if w < 16 then
       bitsIn s.dev.features.accept (64 * (w - 8) + 63) (64 * (w - 8)) ||| (if w = 8 then 1 else 0)
     else if s.dev.features.done then 2 else 0, s)
  | .cell c =>
    let x := s.dev.cells.get c {}
    ((if x.req then 1 else 0) + x.state * 2 + (if x.busy then 16 else 0), s)
  | .power =>
    let (n, s) := s.fresh
    let p := s.dev.power
    (p.plim + p.step0 * 2 ^ 12 + p.step1 * 2 ^ 16 + n % 256 * 2 ^ 20 + (if p.throt then 2 ^ 28 else 0), s)
  | .ctx n w => (s.ctxBlockWord n w, s)

/-- An 8-byte read of a device register by an agent of a bench or host (R107): ALIGN for another size or alignment, PERM
where no register is defined. -/
def State.devRead (s : State) (pa n : Nat) : Except Nat (Nat × State) :=
  if n != 8 || pa % 8 != 0 then .error Cause.align
  else
    match DevReg.ofOff (pa % 2 ^ 44 - deviceBase) with
    | some r => .ok (s.readReg r)
    | none => .error Cause.perm

end Sys2Proof.Machine
end

