-- ==== Sys2Proof/Machine/Phys.lean ====
section
/-! DEFINITION. Poison (R113), the decoded sectors of view windows (R120 to R124), and an access performed at its point of
coherence (R144). -/

namespace Sys2Proof.Machine

open Sys2Proof

/-- The addresses that stand for the 1 KiB granules of a run of bytes. -/
def granuleAddrs (pa n : Nat) : List Nat :=
  if n ≤ 1 then [pa] else ((List.range ((n - 1) / 1024 + 1)).map fun k => pa + 1024 * k) ++ [pa + n - 1]

/-- Whether a memory access of one die may reach an address (R107, R264, R265, R291): the cause when it may not. `n` is
the size of the access, which a device register asks to be 8 (R107). -/
def State.reach (s : State) (die pa n : Nat) : Option Nat :=
  match s.place pa with
  | .nowhere => some Cause.perm
  | .remote pkg => s.linkTo die pkg
  | .device =>
    if n != 8 || pa % 8 != 0 then some Cause.align
    else if (DevReg.ofOff (pa % 2 ^ 44 - deviceBase)).isNone then some Cause.perm
    else none
  | .store b off =>
    if !s.cellOn (cellOf b) then some Cause.perm
    else if (s.bench b).kind (off / 1024) != 3 then some Cause.perm
    else if s.dev.fabric.linkDown && dieOf b != die then some Cause.linkTimeout
    else none
  | _ => if s.dev.fabric.linkDown && s.homeDie pa != some die then some Cause.linkTimeout else none

/-- The cause when some byte of a run cannot be reached. -/
def State.reachAll (s : State) (die pa n : Nat) : Option Nat :=
  (granuleAddrs pa n).findSome? fun a => s.reach die a n

/-- The 64-byte sectors that a run of bytes touches. -/
def sectorsOf (pa n : Nat) : List Nat :=
  if n = 0 then [] else (List.range ((pa + n - 1) / 64 - pa / 64 + 1)).map fun k => pa / 64 + k

/-- The source of a sector's poison, when it is poisoned (R113). -/
def State.poisonOf (s : State) (sector : Nat) : Option Nat :=
  (s.poisoned.find? fun p => p.1 == sector).map (·.2)

/-- The poison that a read of a run of bytes meets; `va` is the offset in the run of the first byte that meets it. -/
def State.readPoison (s : State) (pa n : Nat) : Option Raise :=
  (sectorsOf pa n).findSome? fun k =>
    (s.poisonOf k).map fun src => { cause := Cause.poison, va := 64 * k - pa, aux := src }

/-- The poison that a write of a run of bytes meets: of the sectors it does not cover whole (R113). -/
def State.writePoison (s : State) (pa n : Nat) : Option Raise :=
  ((sectorsOf pa n).filter fun k => !(pa ≤ 64 * k && 64 * k + 64 ≤ pa + n)).findSome? fun k =>
    (s.poisonOf k).map fun src => { cause := Cause.poison, va := 64 * k - pa, aux := src }

/-- The sectors covered whole by a run of bytes lose their poison (R113). -/
def State.clearPoison (s : State) (pa n : Nat) : State :=
  { s with poisoned := s.poisoned.filter fun p => !(pa ≤ 64 * p.1 && 64 * p.1 + 64 ≤ pa + n) }

/-- The management interrupt of every gaffer whose XIE enables it (R253; DEDUCED for R113 and R123, log entry 21). -/
def State.raiseMgt (s : State) : State :=
  { s with benches := s.benches.mapVal fun _ b =>
      if b.csr.xie.getLsbD 19 then { b with csr := { b.csr with mgt := true } } else b }

/-- The XH variant of an exponent-coded range's format (R118, R121). -/
def rangeVariant (fmt : Nat) : Variant := if fmt = 6 then .bf16 else if fmt = 3 then .e4m3 else .e5m2

/-- The entry of block `i` of a range: SEG, LEN, RAW (R120). -/
def State.blockEntry (s : State) (r : Range) (i : Nat) : Nat × Nat × Bool :=
  let w := leNat (Mem.read s.mem (r.scb % 2 ^ 44 + 8 * i) 8)
  (bitsOf w 31 0, bitsOf w 36 32, bitOf w 37)

/-- The 4 KiB block that an entry's payload gives; none when it does not decode (R121), or when the entry or the payload
lies in a poisoned sector, whose read returns nothing (R113). -/
def State.blockBytes (s : State) (r : Range) (i : Nat) : Option (List Byte) :=
  let (seg, len, raw) := s.blockEntry r i
  let at_ := r.pool % 2 ^ 44 + 256 * seg
  if (s.readPoison (r.scb % 2 ^ 44 + 8 * i) 8).isSome || (s.readPoison at_ (256 * len)).isSome then none
  else if 16 < len || (raw && len != 16) then none
  else if len = 0 then some (List.replicate 4096 0)
  else
    let p := Mem.read s.mem at_ (256 * len)
    if raw then some p else decodeBlock (rangeVariant r.fmt) p

/-- The 64 bytes of a view sector from its block's payload (R121): none where the block does not decode. Once another than
the controller has written the range's table, pool or bitmap, they are open values (R124). -/
def State.decodeSector (s : State) (n k : Nat) : Option (List Byte) :=
  let r := s.range n
  let off := 64 * k - r.start
  if s.altered.contains n then
    some ((List.range 64).map fun i => BitVec.ofNat 8 (Config.freeOf 21 (s.free + i) (64 * k)))
  else (s.blockBytes r (off / 4096)).map fun bs => (bs.drop (off % 4096)).take 64

/-- A decoded sector is held by the system cache. -/
def State.holdSector (s : State) (k : Nat) (bs : List Byte) : State :=
  { s with view := Mem.write s.view (64 * k) bs, viewHeld := k :: s.viewHeld }

/-- The sectors of a run that a write does not cover whole (R112). -/
def partSectors (pa n : Nat) : List Nat := (sectorsOf pa n).filter fun k => !(pa ≤ 64 * k && 64 * k + 64 ≤ pa + n)

/-- The lines that a run of bytes touches. -/
def linesOf (pa n : Nat) : List Nat :=
  if n = 0 then [] else (List.range ((pa + n - 1) / 256 - pa / 256 + 1)).map fun k => pa / 256 + k

/-- The bytes of a local run at its point, faults apart. Those of a view are open values once another than the controller
has written the range's table, pool or bitmap, also where the system cache holds them (R124). -/
def State.rawRead (s : State) (pa n : Nat) : List Byte :=
  match s.place pa with
  | .view k =>
    if s.altered.contains k then
      (List.range n).map fun i => BitVec.ofNat 8 (Config.freeOf 21 (s.free + i) (pa % 2 ^ 44 + i))
    else Mem.read s.view (pa % 2 ^ 44) n
  | _ => Mem.read s.mem (pa % 2 ^ 44) n

/-- Whether a run of bytes meets the table, the pool or the bitmap of a range (R124). -/
def Range.owns (r : Range) (a n : Nat) : Bool :=
  r.v && r.coded && (overlaps a n (r.scb % 2 ^ 44) (8 * r.size) || overlaps a n (r.pool % 2 ^ 44) (256 * r.poolsz)
    || overlaps a n (r.fbm % 2 ^ 44) (cdiv r.poolsz 8))

/-- Whether a run of bytes meets the staging area of a root's valid group (R277): two slots of 5,248 bytes for each tile. -/
def Composite.stages (c : Composite) (a n : Nat) : Bool :=
  c.word.getLsbD 0 && c.word.getLsbD 3
    && overlaps a n (bitsIn c.word 375 320 % 2 ^ 44) (2 * bitsIn c.word 276 256 * 5248)

/-- A write ends the reservations of the sectors that it meets (R247; the cited RISC-V architecture). -/
def State.snoop (s : State) (a n : Nat) : State :=
  if s.resv = [] then s else { s with resv := s.resv.filter fun p => !overlaps a n (64 * p.2) 64 }

/-- What a write by an agent of bytes that the device itself works by does: the ranges whose table, pool or bitmap it meets
are altered (R124), and the groups whose staging area it meets are spoiled (R277). -/
def State.noteWrite (s : State) (a n : Nat) : State :=
  let s := s.snoop a n
  let hit := (s.dev.ranges.filter fun p => p.2.owns a n && !s.altered.contains p.1).map (·.1)
  let s := if hit = [] then s else { s with altered := hit ++ s.altered }
  if s.dev.composites.any fun p => p.2.stages a n && !p.2.spoiled then
    s.modDev fun d => { d with composites := d.composites.mapVal fun _ c => if c.stages a n then { c with spoiled := true } else c }
  else s

/-- Bytes of the local map outside the view windows written, faults apart. -/
def State.localWrite (s : State) (a : Nat) (bs : List Byte) : State :=
  { s.noteWrite a bs.length with mem := Mem.write s.mem a bs }

/-- The bytes of a local run written at their point, faults apart. A view sector that a write covers whole is held without
a fill (R112). -/
def State.rawWrite (s : State) (pa : Nat) (bs : List Byte) : State :=
  match s.place pa with
  | .view _ =>
    let ks := sectorsOf (pa % 2 ^ 44) bs.length
    { s.snoop (pa % 2 ^ 44) bs.length with
             view := Mem.write s.view (pa % 2 ^ 44) bs,
             viewHeld := ks ++ s.viewHeld.filter fun k => !ks.contains k,
             viewDirty := ks ++ s.viewDirty.filter fun k => !ks.contains k }
  | _ => s.localWrite (pa % 2 ^ 44) bs

/-- An 8-byte entry written to the poison map (R113): the cause when its write faults. It goes to its point as any partial
write does; the sector of a view window is filled without a further entry. -/
def State.writeEntry (s : State) (die pa : Nat) (bs : List Byte) : Except Nat State :=
  match s.reachAll die pa 8 with
  | some c => .error c
  | none =>
    let k := pa % 2 ^ 44 / 64
    let filled : Option State := match s.place pa with
      | .view n => if s.viewHeld.contains k then some s else (s.decodeSector n k).map fun b => s.holdSector k b
      | .remote _ => none
      | .device => none
      | _ => some s
    match filled with
    | none => .error (if (s.place pa matches .view _) then Cause.poison else Cause.perm)
    | some s => if (s.poisonOf k).isSome then .error Cause.poison else .ok (s.rawWrite pa bs)

/-- An entry appended to the poison map (R113), with the management interrupt: the sector's address names its package
(R106). The bench whose access an append counts as is the first of the sector's home die (DESIGN CHOICE, log entry 87): a
write that faults goes to its latch (R216). -/
def State.poisonEntry (s : State) (sector src : Nat) : State :=
  let p := s.dev.poison
  let s := s.raiseMgt
  if 2 ^ p.log2n ≤ p.widx - p.ridx then s.modDev fun d => { d with poison := { p with ovf := true } }
  else
    let pa := s.dev.fabric.pkgid * 2 ^ 44 + 64 * sector
    let die := (s.homeDie pa).getD 0
    let at_ := p.base.toNat + 8 * (p.widx % 2 ^ p.log2n)
    match s.writeEntry die at_ (leBytes 8 (pa % 2 ^ 56 + src * 2 ^ 56)) with
    | .ok s => s.modDev fun d => { d with poison := { p with widx := p.widx + 1 } }
    | .error c => s.latchFault (128 * die) 0 c at_ (accessByte 2 8 false)

/-- A sector becomes poisoned (R113). -/
def State.poisonSector (s : State) (sector src : Nat) : State :=
  if (s.poisonOf sector).isSome then s
  else
    let s := { s with poisoned := (sector, src) :: s.poisoned }
    -- an uncorrectable error in a bench-store row is reported only in records (R218)
    if src = 4 then s else s.poisonEntry sector src

/-- A view sector that is not held is decoded into the system cache (R121); one that does not decode is poisoned. -/
def State.fillSector (s : State) (n k : Nat) : State :=
  if s.viewHeld.contains k then s else
  match s.decodeSector n k with
  | some bs => { s.holdSector k bs with free := if s.altered.contains n then s.free + 64 else s.free }
  | none => { s with viewHeld := k :: s.viewHeld }.poisonSector k 3

/-- Sectors of a view window that an access needs are held (R112). -/
def State.fillViews (s : State) (pa : Nat) (ks : List Nat) : State :=
  match s.place pa with
  | .view n => ks.foldl (fun s k => s.fillSector n k) s
  | _ => s

/-- The poison that an access meets after its fill of view sectors `ks` has led from `s` to `t`: its cause names those
sectors when the fill itself poisoned one, so that the poisoning stays (R113). -/
def State.fillRaise (s t : State) (ks : List Nat) (r : Raise) : Raise :=
  if ks.any fun k => (s.poisonOf k).isNone && (t.poisonOf k).isSome then
    { r with cause := Cause.viewPoison (ks.headD 0) ks.length }
  else r

/-- What stays of an access that ended in a cause: the view sectors that it found undecodable are poisoned, with their
entries in the poison map (R113). -/
def State.notePoison (s : State) (cause : Nat) : State :=
  if cause % 2 ^ 32 = 0x10006 then
    let k := cause / 2 ^ 40
    s.fillViews (s.dev.fabric.pkgid * 2 ^ 44 + 64 * k) ((List.range (cause / 2 ^ 32 % 256)).map (k + ·))
  else s

/-- What stays of an access that ended in a cause: the event of a broken die-to-die link is counted (R265), and the sectors
that did not decode are poisoned (R113). -/
def State.noteCause (s : State) (cause : Nat) : State := (s.noteTimeout cause).notePoison cause

/-- A bench's own access that faults goes to its latch (R216), and what stays of it stays. -/
def State.latchAccess (s : State) (b ctx cause va access : Nat) : State :=
  (s.notePoison cause).latchFault b ctx cause va access

/-- What another package answers to a read that a unit of this one makes of its own accord — of a page table, a descriptor,
a table of the device: its status and bytes are the other package's, so an open value each time (DESIGN CHOICE, log entry
88). -/
def State.farRead (s : State) (pa n : Nat) : Except Nat (List Byte) :=
  match Config.freeOf 22 (pa % 2 ^ 56) s.free % 8 with
  | 1 => .error Cause.perm
  | 2 => .error Cause.poison
  | 3 => .error Cause.align
  | 4 => .error Cause.linkTimeout
  | _ => .ok (leBytes n (Config.freeOf 23 (pa % 2 ^ 56) s.free))

/-- A read performed at its point of coherence (R144) by an agent whose access waits for nothing. Of another package it has
the answer of `farRead`. -/
def State.pointRead (s : State) (die pa n : Nat) : Except Raise (List Byte × State) :=
  match s.reachAll die pa n with
  | some c => .error (raiseOf c)
  | none =>
    match s.place pa with
    | .remote _ =>
      match s.farRead pa n with
      | .error c => .error (raiseOf c)
      | .ok bs => .ok (bs, { s with free := s.free + 1 })
    | .device =>
      match DevReg.ofOff (pa % 2 ^ 44 - deviceBase) with
      | some r => let (v, s) := s.readReg r; .ok (leBytes 8 v, s)
      | none => .error (raiseOf Cause.perm)
    | k =>
      let ks := sectorsOf (pa % 2 ^ 44) n
      let t := s.fillViews pa ks
      match t.readPoison (pa % 2 ^ 44) n with
      | some r => .error (s.fillRaise t ks r)
      | none =>
        let open_ : Bool := match k with
          | .view i => t.altered.contains i
          | _ => false
        .ok (t.rawRead pa n, if open_ then { t with free := t.free + n } else t)

/-- The type of a write flit (R266). -/
def flitWR : Nat := 2

/-- A write that a unit makes of its own accord leaves for another package in flits of at most 240 bytes (R269); the answer
is as that of `farRead`. -/
def State.farWrite (s : State) (pkg pa : Nat) (bs : List Byte) : Except Nat State :=
  match s.farRead pa 0 with
  | .error c => .error c
  | .ok _ =>
    let piece (f : Fabric) (k : Nat) : Flit :=
      let p := (bs.drop (240 * k)).take 240
      { type := flitWR, vc := 0, dst := pkg, src := f.pkgid, tag := (f.nextTag + k) % 2 ^ 16, len := p.length, sts := 0,
        aop := 0, asz := 0, addr := (pa + 240 * k) % 2 ^ 44, payload := p }
    let m := cdiv bs.length 240
    .ok ({ s with free := s.free + 1 }.modFabric fun f =>
      { f with nextTag := f.nextTag + m, outbox := f.outbox ++ (List.range m).map (piece f) })

/-- A write performed at its point of coherence (R144) by an agent whose access waits for nothing. A device register is
written by `devWrite` alone. -/
def State.pointWrite (s : State) (die pa : Nat) (bs : List Byte) : Except Raise State :=
  match s.reachAll die pa bs.length with
  | some c => .error (raiseOf c)
  | none =>
    match s.place pa with
    | .remote pkg => (s.farWrite pkg pa bs).mapError raiseOf
    | .device => .error (raiseOf Cause.perm)
    | _ =>
      let ks := partSectors (pa % 2 ^ 44) bs.length
      let t := s.fillViews pa ks
      match t.writePoison (pa % 2 ^ 44) bs.length with
      | some r => .error (s.fillRaise t ks r)
      | none => .ok ((t.rawWrite pa bs).clearPoison (pa % 2 ^ 44) bs.length)

/-! ## The controller of an exponent-coded range -/

/-- Bytes that the controller writes itself (R113): a poisoned sector that they cover in part takes nothing, one that they
cover whole loses its poison. -/
def State.ctlWrite (s : State) (a : Nat) (bs : List Byte) : State :=
  if s.poisoned = [] then { s with mem := Mem.write s.mem a bs }
  else
    let ks := (partSectors a bs.length).filter fun k => (s.poisonOf k).isSome
    ((List.range bs.length).foldl (fun s i => if ks.contains ((a + i) / 64) then s
      else { s with mem := Mem.set s.mem (a + i) (bs.getD i 0) }) s).clearPoison a bs.length

/-- The bits of a pool's bitmap below POOLSZ: whether a segment is in use (R117). A byte of the bitmap in a poisoned sector
cannot be read (R113): its segments count as in use (DESIGN CHOICE, log entry 89). -/
def State.segUsed (s : State) (r : Range) (i : Nat) : Bool :=
  let a := r.fbm % 2 ^ 44 + i / 8
  (Mem.get s.mem a).getLsbD (i % 8) || (s.poisonOf (a / 64)).isSome

/-- A segment's bitmap bit set. -/
def State.setSeg (s : State) (r : Range) (i : Nat) (v : Bool) : State :=
  let a := r.fbm % 2 ^ 44 + i / 8
  let w := (Mem.get s.mem a).toNat
  s.ctlWrite a [BitVec.ofNat 8 (setBits w (i % 8) (i % 8) (if v then 1 else 0))]

/-- Segments `seg` to `seg + n - 1` marked. -/
def State.setSegs (s : State) (r : Range) (seg n : Nat) (v : Bool) : State :=
  (List.range n).foldl (fun s k => s.setSeg r (seg + k) v) s

/-- The first run of `len` free segments at or after the rotating pointer, wrapping at POOLSZ (R122). -/
def State.freeRun (s : State) (r : Range) (len : Nat) : Option Nat :=
  let starts := ((List.range r.poolsz).map fun k => (r.rotor + k) % r.poolsz)
  starts.find? fun st => st + len ≤ r.poolsz && (List.range len).all fun k => !s.segUsed r (st + k)

/-- The current contents of a block of a view: its held sectors over its old payload (R122). Where the old payload does not
decode, the sectors not held are zeros (DESIGN CHOICE, log entry 89). -/
def State.viewBlock (s : State) (r : Range) (i : Nat) : List Byte :=
  let old := (s.blockBytes r i).getD (List.replicate 4096 0)
  (List.range 64).flatMap fun j =>
    let k := (r.start + 4096 * i) / 64 + j
    if s.viewHeld.contains k then Mem.read s.view (64 * k) 64 else (old.drop (64 * j)).take 64

/-- The entry of a block written (R120). -/
def State.setEntry (s : State) (r : Range) (i seg len : Nat) (raw : Bool) : State :=
  s.ctlWrite (r.scb % 2 ^ 44 + 8 * i) (leBytes 8 (seg + len * 2 ^ 32 + (if raw then 2 ^ 37 else 0)))

/-- A dirty view block is written back (R122, R123): the state, and whether there was room. The entry of an all-zero block
has SEG 0, and the rotating pointer moves just past the run it took (DESIGN CHOICE, log entry 89). Once the range is
altered (R124) the controller writes nothing outside what it owns: it keeps the block's dirty bytes as written back, since
every later read is open. A block whose entry lies in a poisoned sector waits as one without room does (DESIGN CHOICE, log
entry 89). -/
def State.writeBackBlock (s : State) (n i : Nat) : State × Bool :=
  let r := (s.range n).live
  let first := (r.start + 4096 * i) / 64
  let clean (s : State) : State :=
    let s := { s with viewDirty := s.viewDirty.filter fun k => !(first ≤ k && k < first + 64) }
    s.modRange n fun r => { r with waiting := r.waiting.filter (· != i) }
  if s.altered.contains n then (clean s, true) else
  let bytes := s.viewBlock r i
  let coded := encodeBlock (rangeVariant r.fmt) bytes
  let zero := bytes.all (· == 0)
  let len := if zero then 0 else if cdiv coded.length 256 ≤ 15 then cdiv coded.length 256 else 16
  let raw := len == 16
  let payload := if raw then bytes else if zero then [] else coded
  let (oseg, olen, _) := s.blockEntry r i
  let waits : State × Bool :=
    ((s.modRange n fun r => { r with waiting := i :: r.waiting.filter (· != i) }).raiseMgt, false)
  -- an entry in a poisoned sector cannot be read (R113)
  if (s.readPoison (r.scb % 2 ^ 44 + 8 * i) 8).isSome then waits
  else if len ≤ olen then
    let s := s.ctlWrite (r.pool % 2 ^ 44 + 256 * oseg) payload
    let s := s.setEntry r i (if len = 0 then 0 else oseg) len raw
    let s := s.setSegs r (oseg + len) (olen - len) false
    (clean (s.modRange n fun r => { r with free := r.free + (olen - len) }), true)
  else
    match s.freeRun r len with
    | none => waits
    | some seg =>
      let s := s.ctlWrite (r.pool % 2 ^ 44 + 256 * seg) payload
      let s := s.setSegs r seg len true
      let s := s.setEntry r i seg len raw
      let s := s.setSegs r oseg olen false
      (clean (s.modRange n fun r => { r with free := r.free + olen - len, rotor := (seg + len) % r.poolsz }), true)

end Sys2Proof.Machine
end

