-- ==== Sys2Proof/Machine/Ops.lean ====
section
/-! DEFINITION. The named operations over memory and units: context descriptors (R186), Sv57 translation (R125 to R128),
the L1 (R110, R111, R145), Release and Acquire (R148), and taking a fault: the wait table, the record, the fault ring and
the latch (R206 to R217), with the control cores' own exceptions (R206, R247). -/

namespace Sys2Proof.Machine

open Sys2Proof

/-! ## Context descriptors -/

/-- A context descriptor (R186). -/
structure Desc where
  root : Nat
  asid : Nat
  priv : Bool
  v : Bool
  pvbase : Nat
  pvsl : Nat
  hwmp : Nat
  wdog : Nat
  frbase : Nat
  frl2 : Nat
  sabase : Nat
  bad : Bool
  deriving DecidableEq, Repr

/-- The descriptor of a 512-bit word; `bad` marks a field outside its limits (R186). PVSL has five bits there and values up to
32 (R133): they hold it modulo 32, so that 0 is 32 (DEDUCED, log entry 100). -/
def Desc.ofWord (w : Nat) : Desc :=
  let pvsl := if bitsOf w 132 128 = 0 then 32 else bitsOf w 132 128
  let hwmp := bitsOf w 156 136
  let frl2 := bitsOf w 251 248
  { root := bitsOf w 43 0, asid := bitsOf w 59 44, priv := bitOf w 60, v := bitOf w 61,
    pvbase := bitsOf w 127 64, pvsl := pvsl, hwmp := hwmp, wdog := bitsOf w 163 160,
    frbase := bitsOf w 247 192, frl2 := frl2, sabase := bitsOf w 311 256,
    bad := bitsOf w 63 62 != 0 || bitsOf w 135 133 != 0 || bitsOf w 159 157 != 0 || bitsOf w 191 164 != 0
      || bitsOf w 255 252 != 0 || bitsOf w 511 312 != 0 || bitsOf w 127 64 % 65536 != 0
      || pvsl < 16 || hwmp < 1 || 2 ^ (pvsl - 12) < hwmp || bitsOf w 197 192 != 0 || frl2 < 4
      || bitsOf w 267 256 != 0 }

/-- The descriptor of a context; a number the table does not hold names one with V = 0 (R185, R186). Of a table on another
package it is an open value (log entry 88). -/
def State.desc (s : State) (ctx : Nat) : Desc :=
  let pa := 64 * s.dev.ctxBase.toNat + 64 * ctx
  if 2 ^ s.dev.ctxL2n ≤ ctx then Desc.ofWord 0
  else if pa / 2 ^ 44 != s.dev.fabric.pkgid then Desc.ofWord (Config.freeOf 23 pa s.free)
  else Desc.ofWord (leNat (Mem.read s.mem (pa % 2 ^ 44) 64))

/-! ## Translation -/

/-- The kind of an access to a page (R128). -/
inductive Acc where
  | read | write | atomic | fetch
  deriving DecidableEq, Repr

/-- A translated address (R125, R126, R140): its physical address, ordering kind, PBMT = NC, permissions, PZ, and the
bytes from it to the end of its page. -/
structure Xlat where
  pa : Nat
  ord : Nat := 0
  nc : Bool := false
  rd : Bool := true
  wr : Bool := true
  ux : Bool := true
  pz : Bool := false
  left : Nat
  deriving DecidableEq, Repr

/-- The page-attribute feature is accepted (R125, R290). -/
def State.pageAttr (s : State) : Bool := s.dev.features.done && s.dev.features.accept.getLsbD 1

/-- A 57-bit canonical address (R128). -/
def canonical (va : Nat) : Bool := va % 2 ^ 64 < 2 ^ 56 || 2 ^ 64 - 2 ^ 56 ≤ va % 2 ^ 64

/-- 4 KiB pages of a leaf at a level, none for a pattern that R126 does not list. -/
def leafPages (level : Nat) (n : Bool) (ppn : Nat) : Option Nat :=
  if !n then (if level ≤ 3 then some (512 ^ level) else none)
  else
    match level with
    | 0 => if ppn % 4 = 2 then some 4 else if ppn % 16 = 8 then some 16 else none
    | 1 => if ppn / 512 % 16 = 8 then some (16 * 512) else none
    | 2 => if ppn / 512 ^ 2 % 16 = 8 then some (16 * 512 ^ 2) else none
    | _ => none

/-- PPN of a PTE. -/
def ptePpn (pte : Nat) : Nat := bitsOf pte 53 10

/-- A PTE of either kind that is malformed (R125): reserved bits set. Bits 54, 55 and 60 are those that the cited RISC-V
architecture reserves (log entry 22). -/
def pteReserved (attr : Bool) (leaf : Bool) (pte : Nat) : Bool :=
  bitsOf pte 55 54 != 0 || bitOf pte 60
    || (if leaf then (if attr then bitsOf pte 57 56 == 3 else bitsOf pte 59 56 != 0) || bitsOf pte 62 61 == 3
        else bitsOf pte 59 56 != 0 || bitOf pte 63 || bitsOf pte 62 61 != 0)

/-- A page-table entry read by a walk (R127, R128). -/
def State.readPte (s : State) (die pa : Nat) : Except Nat Nat :=
  match s.pointRead die pa 8 with
  | .ok (bs, _) => .ok (leNat bs)
  | .error r => .error r.cause

/-- A walk from a level down (R125, R128): the leaf, its physical address and its level. -/
def State.walk (s : State) (die va : Nat) : Nat → Nat → Except Nat (Nat × Nat × Nat)
  | 0, _ => .error Cause.notPresent
  | lv + 1, ppn =>
    let pa := ppn * 4096 + 8 * (va / (4096 * 512 ^ lv) % 512)
    match s.readPte die pa with
    | .error c => .error c
    | .ok pte =>
      let r := bitOf pte 1
      let w := bitOf pte 2
      let x := bitOf pte 3
      if !bitOf pte 0 || (w && !r) then .error Cause.notPresent
      else if r || x then
        if pteReserved s.pageAttr true pte then .error Cause.notPresent
        else
          match leafPages lv (bitOf pte 63) (ptePpn pte) with
          | none => .error Cause.notPresent
          | some _ => if ptePpn pte % 512 ^ lv != 0 then .error Cause.notPresent else .ok (pte, pa, lv)
      else if pteReserved s.pageAttr false pte then .error Cause.notPresent
      else s.walk die va lv (ptePpn pte)

/-- The translation that a leaf gives an address. -/
def leafXlat (attr : Bool) (pte level va : Nat) : Xlat :=
  let n := (leafPages level (bitOf pte 63) (ptePpn pte)).getD 1
  let span := n * 4096
  let pbmt := bitsOf pte 62 61
  { pa := (ptePpn pte / n * n) * 4096 + va % span,
    ord := if pbmt = 2 then 1 else if attr then bitsOf pte 57 56 else 0,
    nc := pbmt == 1, rd := bitOf pte 1, wr := bitOf pte 2, ux := bitOf pte 3,
    pz := attr && bitOf pte 59, left := span - va % span }

/-- Whether a leaf permits an access (R128): benches and U mode need U; S mode refuses U pages. -/
def permits (user : Bool) (pte : Nat) (acc : Acc) : Bool :=
  (bitOf pte 4 == user) &&
  match acc with
  | .read => bitOf pte 1
  | .write => bitOf pte 2
  | .atomic => bitOf pte 1 && bitOf pte 2
  | .fetch => bitOf pte 3

/-- The access needs D (R127). -/
def Acc.needsD : Acc → Bool
  | .write => true
  | .atomic => true
  | _ => false

/-- The cached leaf of a unit for an address (R129, R130). -/
def State.tlbHit (s : State) (u : TlbUnit) (asid va : Nat) : Option TlbEntry :=
  (s.tlbs.find? fun p => p.1 == u && p.2.asid == asid && p.2.vpn ≤ va / 4096 && va / 4096 < p.2.vpn + p.2.pages).map (·.2)

/-- A leaf lets an access go on as it stands: its A bit, and D where the access needs it, are set (R127). -/
def readyLeaf (pte : Nat) (acc : Acc) : Bool := bitOf pte 6 && (!acc.needsD || bitOf pte 7)

/-- The walker sets A and D of a leaf, those of `pte`, with an atomic OR at its point (R127): the state, or the cause where it
cannot, so that no access goes on without them. A sector of a view window is filled first and takes the OR of its bytes
(R112). On another package an AT flit carries it, with an open answer (log entry 88). -/
def State.setAD (s : State) (pa pte : Nat) : Except Nat State :=
  match s.place pa with
  | .device => .error Cause.perm
  | .remote pkg =>
    match s.farRead pa 0 with
    | .error c => .error c
    | .ok _ => .ok (({ s with free := s.free + 1 } : State).modFabric fun f =>
      { f with nextTag := f.nextTag + 1, outbox := f.outbox ++
        [{ type := 4, vc := 0, dst := pkg, src := f.pkgid, tag := f.nextTag % 2 ^ 16, len := 8, sts := 0, aop := 4, asz := 1,
           addr := pa % 2 ^ 44, payload := leBytes 8 (pte &&& 0xC0) }] })
  | _ =>
    let ks := [pa % 2 ^ 44 / 64]
    let t := s.fillViews pa ks
    match t.readPoison (pa % 2 ^ 44) 8 with
    | some r => .error (s.fillRaise t ks r).cause
    | none => .ok (t.rawWrite pa (leBytes 8 (leNat (t.rawRead pa 8) ||| (pte &&& 0xC0))))

/-- A leaf cached by a unit (R129). -/
def State.tlbFill (s : State) (u : TlbUnit) (asid va pte level : Nat) : State :=
  let n := (leafPages level (bitOf pte 63) (ptePpn pte)).getD 1
  let e : TlbEntry := { asid := asid, vpn := va / 4096 / n * n, pages := n, pte := w64 pte, level := level }
  { s with tlbs := (u, e) :: s.tlbs.filter fun p => !(p.1 == u && p.2.asid == asid && p.2.vpn == e.vpn) }

/-- The A and D bits of a leaf, which a walk sets; leaves that differ only there are one translation. -/
def sameLeaf (a b : Nat) : Bool := setBits a 7 6 0 == setBits b 7 6 0

/-- Translation of a virtual address (R125 to R129): the cause, or the physical address and the state with the leaf cached
and its A and D bits set. `us` are the holders of cached translations that serve the access, the nearest first. Where a
cached leaf and the page table differ, either may be used until a shootdown completes (R126, R132): an open choice, but for
a leaf that a shootdown keeps for a transfer in flight, which the transfer uses (R16). A cached leaf whose A or D bit the
access needs and lacks is walked afresh (R127). -/
def State.translate (s : State) (us : List TlbUnit) (die root asid : Nat) (user : Bool) (va : Nat) (acc : Acc) :
    Except Nat (Xlat × State) :=
  if !canonical va then .error Cause.perm else
  let va := va % 2 ^ 57
  let fresh := s.walk die va 5 root
  let old := us.findSome? fun u => s.tlbHit u asid va
  let differs : Bool := match old, fresh with
    | some e, .ok (pte, _, lv) => !(sameLeaf e.pte.toNat pte && e.level == lv) && readyLeaf e.pte.toNat acc
    | some e, .error _ => readyLeaf e.pte.toNat acc
    | none, _ => false
  let (pick, s) := if differs then let (n, s') := s.fresh; (n % 2 == 0 || old.any (·.kept), s') else (false, s)
  match pick, old, fresh with
  | true, some e, _ =>
    if !permits user e.pte.toNat acc then .error Cause.perm
    else .ok (leafXlat s.pageAttr e.pte.toNat e.level va, s)
  | _, _, .error c => .error c
  | _, _, .ok (pte, pa, lv) =>
    if !permits user pte acc then .error Cause.perm
    else
      let d := acc.needsD && !bitOf pte 7
      let pte' := pte ||| 64 ||| (if d then 128 else 0)
      match if pte' = pte then .ok s else s.setAD pa pte' with
      | .error c => .error c
      | .ok s => .ok (leafXlat s.pageAttr pte' lv va, us.foldl (fun s u => s.tlbFill u asid va pte' lv) s)

/-- Translation in a bench context (R125): PERM for an undefined physical address, with A and D unchanged (R128). -/
def State.translateCtx (s : State) (us : List TlbUnit) (b ctx va : Nat) (acc : Acc) : Except Nat (Xlat × State) :=
  let d := s.desc ctx
  match s.translate us (dieOf b) d.root d.asid true va acc with
  | .ok (x, t) =>
    if s.place x.pa = .nowhere then .error Cause.perm
    -- device registers, of this package and of others, are strongly ordered whatever the mapping states (R107)
    else .ok (if deviceBase ≤ x.pa % 2 ^ 44 then { x with ord := 1 } else x, t)
  | .error c => .error c

/-! ## The L1 -/

/-- The L1 may hold a local address (R108). -/
def State.cacheable (s : State) (pa : Nat) : Bool :=
  match s.place pa with
  | .lpddr _ => true
  | .view _ => true
  | .vault _ => true
  | _ => false

/-- The line of a bench's L1 that holds an address (R110). -/
def Bench.line? (b : Bench) (pa : Nat) : Option Line := b.lines.find? fun l => l.line == pa / 256

/-- The bench-store sector in which sector `k` of a line lies (R110). -/
def Line.cell (b : Nat) (l : Line) (k : Nat) : Nat := storePa b (1024 * l.granule + 256 * l.way + 64 * k) / 64

/-- The masked bytes of one sector of a line reach their point (R111): whole, they clear its poison; in part, a poisoned
sector keeps its poison and takes nothing (R113). Bytes whose own sector of the L1 is poisoned take the poison with them
(R113), as the system cache's. Bytes that cannot reach their point are lost, and a broken die-to-die link counts its event
(R264, R265; DESIGN CHOICE, log entry 106). -/
def State.writeBackSector (s : State) (b : Nat) (l : Line) (k : Nat) : State :=
  let offs := l.masked.filter fun o => o / 64 == k
  let a := 256 * l.line
  let sec := (a + 64 * k) % 2 ^ 44 / 64
  if offs = [] then s
  else
    match s.reach (dieOf b) (a + 64 * k) 1 with
    | some c => s.noteCause c
    | none =>
      let whole := offs.length == 64
      let s := if whole then s else s.fillViews (a + 64 * k) [sec]
      if (s.poisonOf (l.cell b k)).isSome then s.poisonSector sec 2
      else if (s.poisonOf sec).isSome && !whole then s
      else
        let s := offs.foldl (fun s o => s.rawWrite (a + o) [l.bytes.get o 0]) s
        if whole then s.clearPoison ((a + 64 * k) % 2 ^ 44) 64 else s

/-- A line's masked bytes are written back; its fill state stays (R111, R145). -/
def State.writeBackLine (s : State) (b : Nat) (l : Line) : State :=
  (List.range 4).foldl (fun s k => s.writeBackSector b l k) s

/-- Every masked byte of a bench's L1 is written back (R148). -/
def State.flushL1 (s : State) (b : Nat) : State :=
  let s := (s.bench b).lines.foldl (fun s l => s.writeBackLine b l) s
  s.modBench b fun x => { x with lines := x.lines.map fun l => { l with masked := [] } }

/-- The lines of some granules of a bench are written back and invalidated (R53). -/
def State.dropGranuleLines (s : State) (b : Nat) (gs : List Nat) : State :=
  let s := ((s.bench b).lines.filter fun l => gs.contains l.granule).foldl (fun s l => s.writeBackLine b l) s
  s.modBench b fun x => { x with lines := x.lines.filter fun l => !gs.contains l.granule }

/-- The fill state of a bench's lines is cleared, of those marked RO only when told (R148). -/
def State.clearFill (s : State) (b : Nat) (all : Bool) : State :=
  s.modBench b fun x => { x with lines := x.lines.map fun l => if l.ro && !all then l else { l with filled := [] } }

/-- Release(sc) of an agent of a bench (R148). Earlier accesses are performed at issue (log entry 10), so its wait is
over; scopes from BENCH up write back the L1. -/
def State.release (s : State) (b sc : Nat) : State := if sc ≤ 1 then s else s.flushL1 b

/-- Acquire(sc) of an agent of a bench (R148). -/
def State.acquire (s : State) (b sc : Nat) : State := if sc ≤ 1 then s else s.clearFill b (5 ≤ sc)

/-- Before a strong access or atomic of a bench's wave, the masked bytes of the access are written back and the fill
state of its sectors is cleared (R145). -/
def State.strongL1 (s : State) (b pa n : Nat) : State :=
  match s.cacheable pa with
  | false => s
  | true =>
    let hit (l : Line) (o : Nat) : Bool := pa ≤ 256 * l.line + o && 256 * l.line + o < pa + n
    let s := (s.bench b).lines.foldl (fun s l => s.writeBackLine b { l with masked := l.masked.filter (hit l) }) s
    s.modBench b fun x => { x with lines := x.lines.map fun l =>
      { l with masked := l.masked.filter (fun o => !hit l o),
               filled := l.filled.filter (fun k => !overlaps pa n (256 * l.line + 64 * k) 64) } }

/-- A new line in a granule (R110): it takes a free place, or that of a line of the granule, which is written back; `n`
chooses. -/
def State.placeLine (s : State) (b g n pa : Nat) : State :=
  let here := (s.bench b).lines.filter fun l => l.granule == g
  let free := (List.range 4).filter fun k => !here.any fun l => l.way == k
  let put (s : State) (way : Nat) : State :=
    s.modBench b fun x => { x with lines := { line := pa / 256, granule := g, way := way } :: x.lines }
  match free[n % free.length]?, here[n % 4]? with
  | some way, _ => put s way
  | none, some v => put ((s.writeBackLine b v).modBench b fun x => { x with lines := x.lines.filter (· != v) }) v.way
  | none, none => s

/-- A place for a new line of a wave's partition (R110): the device chooses the granule, the place and the line it
replaces. None when no CACHE granule has the partition. -/
def State.allocLine (s : State) (b part pa : Nat) : Option State :=
  let x := s.bench b
  if (s.bench b).line? pa |>.isSome then some s else
  -- granules whose entry is not listed hold the reset entry: CACHE of partition 0 (R52)
  if part = 0 && x.regionMap = [] then
    let (n, s) := s.fresh
    some (s.placeLine b (n % 4096) (n / 4096) pa)
  else
    let gs := (List.range 4096).filter fun g => x.kind g == 4 && x.gpart g == part
    if gs = [] then none else
    let (n, s) := s.fresh
    some (s.placeLine b (gs.getD (n % gs.length) 0) (n / 4096) pa)

/-- A line of a bench's L1 changed. -/
def State.modLine (s : State) (b pa : Nat) (f : Line → Line) : State :=
  s.modBench b fun x => { x with lines := modFirst (fun l => l.line == pa / 256) f x.lines }

/-- A weak load through the L1 (R110, R111, R114, R145): hits are used; other sectors are filled from their point, in a
line that CH lets the load allocate. A sector of the line that is poisoned in its CACHE granule raises POISON (R113, R218),
unless the fill writes it whole. -/
def State.l1Read (s : State) (b part ch pa n : Nat) (nc : Bool) : Except Raise (List Byte × State) :=
  if !s.cacheable pa then s.pointRead (dieOf b) pa n else
  -- neither STREAM nor PBMT = NC allocates; a line that is held is used (R110, R114, R125)
  let s1 := if ch = 2 || nc then some s else s.allocLine b part pa
  match s1 with
  | none => s.pointRead (dieOf b) pa n
  | some s =>
    match (s.bench b).line? pa with
    | none => s.pointRead (dieOf b) pa n
    | some l =>
      -- the access does not cross its line: the caller splits it
      let o := pa % 256
      let need (k : Nat) : Bool := !l.filled.contains k &&
        (List.range n).any fun i => (o + i) / 64 == k && !l.masked.contains (o + i)
      let empty (k : Nat) : Bool := !l.filled.contains k && !l.masked.any fun i => i / 64 == k
      let step (acc : State) (k : Nat) : Except Raise State :=
        match if empty k then none else acc.poisonOf (l.cell b k) with
        | some src => .error { cause := Cause.poison, va := 64 * k - o, aux := src }
        | none =>
          if !need k then .ok acc else
          match acc.pointRead (dieOf b) (256 * (pa / 256) + 64 * k) 64 with
          | .error r => .error { r with va := 64 * k + r.va - o }
          | .ok (bs, acc) =>
            .ok ((if empty k then acc.clearPoison (64 * l.cell b k) 64 else acc).modLine b pa fun l =>
              { l with filled := k :: l.filled,
                       bytes := (List.range 64).foldl (fun t i =>
                         if l.masked.contains (64 * k + i) then t else t.set (64 * k + i) (bs.getD i 0)) l.bytes })
      match foldE step (sectorsOf o n) s with
      | .error r => .error r
      | .ok s =>
        let l := ((s.bench b).line? pa).getD l
        let bs := (List.range n).map fun i => l.bytes.get (o + i) 0
        let s := if ch = 1 then s.modLine b pa fun l => { l with ro := true } else s
        let s := if ch = 3 && l.masked = [] then
            s.modBench b fun x => { x with lines := x.lines.filter fun l => l.line != pa / 256 } else s
        .ok (bs, s)

/-- Bytes of a weak store that takes no line reach their point: a poisoned sector that the store covers in part takes
nothing and stays poisoned, one of `whole` is cleared (R113, R403). -/
def State.weakWrite (s : State) (pa : Nat) (bs : List Byte) (whole : List Nat) : State :=
  let s := s.fillViews pa ((partSectors (pa % 2 ^ 44) bs.length).filter fun k => !whole.contains k)
  if s.poisoned = [] then s.rawWrite pa bs
  else
    (List.range bs.length).foldl (fun s i =>
      let k := (pa + i) % 2 ^ 44 / 64
      if (s.poisonOf k).isSome && !whole.contains k then s
      else { s.rawWrite (pa + i) [bs.getD i 0] with poisoned := s.poisoned.filter fun p => p.1 != k }) s

/-- A weak store through the L1 (R110, R111, R114): a line takes its bytes and masks them. Its reach is checked when it
issues (DEDUCED, log entry 11); its bytes meet poison at write-back only (R403). `whole` are the sectors that the
instruction's lanes cover whole: of the line's own sectors they clear the poison (R113). -/
def State.l1Write (s : State) (b part ch pa : Nat) (bs : List Byte) (nc : Bool) (whole : List Nat) :
    Except Raise State :=
  match s.reachAll (dieOf b) pa bs.length with
  | some c => .error (raiseOf c)
  | none =>
    let s1 := if !s.cacheable pa then none
      else if ch = 2 || nc then (if ((s.bench b).line? pa).isSome then some s else none)
      else s.allocLine b part pa
    match s1 with
    | some s =>
      let covered := (sectorsOf (pa % 256) bs.length).filter fun k =>
        whole.contains (pa % 2 ^ 44 / 256 * 4 + k) || (pa % 256 ≤ 64 * k && 64 * k + 64 ≤ pa % 256 + bs.length)
      let s := if s.poisoned = [] then s else
        match (s.bench b).line? pa with
        | some l => covered.foldl (fun s k => s.clearPoison (64 * l.cell b k) 64) s
        | none => s
      .ok (s.modLine b pa fun l =>
        { l with ro := l.ro || ch == 1,
                 bytes := (List.range bs.length).foldl (fun t i => t.set (pa % 256 + i) (bs.getD i 0)) l.bytes,
                 masked := (List.range bs.length).foldl
                   (fun t i => if t.contains (pa % 256 + i) then t else (pa % 256 + i) :: t) l.masked })
    | none => .ok (s.weakWrite pa bs whole)

/-! ## Fault records and the fault ring -/

/-- The writing of a record (R210, R211): it waits when the ring is full; a write that faults goes to the latch (R216);
otherwise the record is written, Release(SYSTEM) is performed, WIDX advances and NTGT is notified. -/
def State.writeRecord (s : State) (b : Nat) (r : FaultRec) : State :=
  let c := s.ctxBlock r.ctx
  let d := s.desc r.ctx
  if c.widx - c.ridx = 2 ^ d.frl2 || c.waiting != [] then
    s.modCtxBlock r.ctx fun c => { c with waiting := c.waiting ++ [(b, r)] }
  else
    match s.pointWrite (dieOf b) (d.frbase + 64 * (c.widx % 2 ^ d.frl2)) r.bytes with
    | .error e => (s.noteCause e.cause).latchRecord b r
    | .ok s =>
      let s := s.release b 6
      let s := s.modCtxBlock r.ctx fun c => { c with widx := c.widx + 1 }
      if c.ie then s.modBench c.ntgt fun x => { x with csr := { x.csr with flt := true } } else s

/-- A unit of a bench reports a fault (R210, R216): while the latch is full its record is pending. -/
def State.report (s : State) (b : Nat) (r : FaultRec) : State :=
  if (s.bench b).latch.record.isSome then
    s.modBench b fun x => { x with latch := { x.latch with pending := x.latch.pending ++ [r] } }
  else s.writeRecord b r

/-! ## The wait table -/

/-- The generation after a take (R213). -/
def nextGen (g : Nat) : Nat := if g = 2 ^ 26 - 1 then 1 else g + 1

/-- The causes that key a wait-table entry by page (R213). -/
def pageCause (c : Nat) : Bool := [Cause.notPresent, Cause.perm, Cause.poison, Cause.privGrow, Cause.fabTimeout].contains c

/-- Work parks in the wait table (R213): the token, and the state. -/
def State.park (s : State) (b ctx cause va : Nat) (ps : List Parker) : Nat × State :=
  let t := (s.bench b).waitTable
  let key : WaitKey := if pageCause cause then .page ctx (va % 2 ^ 57 / 4096) else .token ctx
  let join : Option Nat :=
    if pageCause cause then (t.find? fun p => p.2.key == some key).map (·.1) else none
  let free := (List.range 63).find? fun e => (t.get e {}).key.isNone
  let e := join.getD (free.getD 63)
  let w := t.get e {}
  let w' : WaitEntry := if w.key.isSome then { w with parkers := w.parkers ++ ps }
    else { gen := nextGen w.gen, key := some key, parkers := ps }
  (e * 2 ^ 26 + w'.gen, s.modBench b fun x => { x with waitTable := x.waitTable.set e w' })

/-! ## Taking a fault -/

/-- A PRIVGROW parks the whole wave (R29). -/
def Wave.hold (w : Wave) : Wave := { w with held := true, loose := [] }

/-- A fragment that the PRIVGROW of a sibling parks (R29), until the page's REPLAY or one of its own (R223). -/
def Wave.holds (w : Wave) (e : Nat) : Bool := w.held && !w.loose.contains e

/-- A wave fault is taken (R206 to R213, R29, R61): the fragment parks at the instruction, or at the first producer of its
bypass window; a PRIVGROW parks the whole wave; the record is reported. -/
def State.waveFault (s : State) (b slot e : Nat) (g : Group) (f : Frag) (r : Raise) : State :=
  let pc := if f.win.left = 0 then f.pc else f.win.producer
  let whole := r.cause == Cause.privGrow
  let cause := Cause.shown r.cause
  let s := s.noteCause r.cause
  let (token, s) := s.park b g.ctx cause r.va (.frag g.ctx slot e :: if whole then [.wave g.ctx slot] else [])
  let s := s.modFrag b slot e fun f => { f with pc := pc, wait := some (.fault cause), win := {} }
  let s := if whole then s.modWave b slot Wave.hold else s
  s.report b
    { cause := cause, unit := 0, ring := slot, bench := b, ctx := g.ctx, pc := pc, va := w64 r.va,
      timeline := w64 e, lanes := r.lanes, token := w32 token, trec := r.trec, access := r.access, aux := w64 r.aux }

/-- The shadow entry of a command (R35): PC, MICRO and KIND. Where its bytes were rewritten while it was live, it is
undefined: an open value. -/
def State.shadow (s : State) (b slot num : Nat) : W64 × Nat × Nat :=
  let r := s.ring b slot
  let n := 2 ^ r.l2n
  let m := leNat (Mem.read s.mem (storePa b (r.base + 8 * n + 16 * ((num - 1) % n))) 16)
  let w := match r.pushed.get? num with
    | some (_, p) => if p = m then m else Config.freeOf 3 num slot
    | none => m
  (w64 (bitsOf w 63 0), bitsOf w 75 64, bitsOf w 81 80)

/-- An engine ring halts at a command (R38, R42, R206, R208, R215): HLT is set and the record is reported. -/
def State.haltRing (s : State) (b slot num : Nat) (r : Raise) : State :=
  let k := s.ring b slot
  let (pc, micro, kind) := s.shadow b slot num
  let s := s.modRing b slot fun k => { k with state := .halted, fin := none, armed := false }
  let s := (s.modBench b fun x => { x with csr := { x.csr with hlt := true } }).noteCause r.cause
  s.report b
    { cause := Cause.shown r.cause, unit := k.eng.code + 1, ring := slot, bench := b, ctx := k.ctx, pc := pc, va := w64 r.va,
      timeline := w64 num, micro := micro, trec := r.trec, access := r.access,
      macroPc := if kind = 2 then pc else 0, aux := w64 r.aux }

/-- Where a trap handler starts: the base of its vector register, or with the interrupt's number in vectored mode. -/
def trapPc (vec cause : W64) : W64 :=
  let base := vec.toNat / 4 * 4
  w64 (if vec.toNat % 4 == 1 && cause.getLsbD 63 then base + 4 * (cause.toNat % 2 ^ 63) else base)

/-- A trap that the supervisor handler takes: sepc, scause and stval are written, sstatus saves the mode and the interrupt
enable and clears the enable, the mode becomes S and the pc goes to stvec. -/
def Hart.trapS (h : Hart) (cause tval : W64) : Hart :=
  let st := h.csr.mstatus.toNat
  let st := setBits (setBits (setBits st 5 5 (bitsOf st 1 1)) 1 1 0) 8 8 (if h.mode = .u then 0 else 1)
  { h with mode := .s, pc := trapPc h.csr.stvec cause,
           csr := { h.csr with sepc := h.pc, scause := cause, stval := tval, mstatus := w64 st } }

/-- The number of a mode. -/
def Mode.code : Mode → Nat
  | .u => 0
  | .s => 1
  | .m => 3

/-- A trap that the machine handler takes, by the machine's own registers. -/
def Hart.trapM (h : Hart) (cause tval : W64) : Hart :=
  let st := h.csr.mstatus.toNat
  let st := setBits (setBits (setBits st 7 7 (bitsOf st 3 3)) 3 3 0) 12 11 h.mode.code
  { h with mode := .m, pc := trapPc h.csr.mtvec cause,
           csr := { h.csr with mepc := h.pc, mcause := cause, mtval := tval, mstatus := w64 st } }

/-- A trap is delegated to the supervisor handler: from below M mode, by medeleg or mideleg. -/
def Hart.delegated (h : Hart) (cause : W64) : Bool :=
  let d := if cause.getLsbD 63 then h.csr.mideleg else h.csr.medeleg
  h.mode != .m && d.getLsbD (cause.toNat % 2 ^ 63)

/-- A hart's exception or interrupt is taken (R206; the register effects are those of the cited RISC-V architecture,
PRESUMED, log entry 23): by its supervisor trap handler where it is delegated, which every fault below M mode is after
reset, and by the machine handler elsewhere. -/
def Hart.trap (h : Hart) (cause tval : W64) : Hart := if h.delegated cause then h.trapS cause tval else h.trapM cause tval

/-- SRET (the cited RISC-V architecture, PRESUMED, log entry 23): return to the mode that sstatus saved. -/
def Hart.sret (h : Hart) : Hart :=
  let st := h.csr.mstatus.toNat
  let after := w64 (setBits (setBits (setBits (setBits st 1 1 (bitsOf st 5 5)) 5 5 1) 8 8 0) 17 17 0)
  let mode : Mode := if bitOf st 8 then .s else .u
  { h with mode := mode, pc := h.csr.sepc, csr := { h.csr with mstatus := after } }

/-- The mode of MPP. -/
def Hart.mpp (h : Hart) : Mode :=
  match bitsOf h.csr.mstatus.toNat 12 11 with
  | 0 => .u
  | 1 => .s
  | _ => .m

/-- MRET (the cited RISC-V architecture, PRESUMED, log entry 23): return to the mode that MPP saved; MPRV falls where that is
not M mode. -/
def Hart.mret (h : Hart) : Hart :=
  let st := h.csr.mstatus.toNat
  let st := setBits (setBits (setBits st 3 3 (bitsOf st 7 7)) 7 7 1) 12 11 0
  let after := w64 (if h.mpp = .m then st else setBits st 17 17 0)
  { h with mode := h.mpp, pc := h.csr.mepc, csr := { h.csr with mstatus := after } }

end Sys2Proof.Machine
end

