-- ==== Sys2Proof/Machine/Gate.lean ====
section
/-! DEFINITION. Atomics at their point (R156, R157), the arbitration log (R160, R161) and the order gate (R162). -/

namespace Sys2Proof.Machine

open Sys2Proof

/-- The new value of an atomic operation of R157 on `n`-byte values, if it writes: old value x, operand b, compare value
c. -/
def atomNew (op n x b c : Nat) : Option Nat :=
  let m := 2 ^ (8 * n)
  let lt (p q : Nat) : Bool := sext (8 * n) p < sext (8 * n) q
  match op with
  | 0 => some b
  | 1 => if x = c then some b else none
  | 2 => some ((x + b) % m)
  | 3 => some (x &&& b)
  | 4 => some (x ||| b)
  | 5 => some (x ^^^ b)
  | 6 => some (if lt b x then b else x)
  | 7 => some (if lt x b then b else x)
  | 8 => some (min x b)
  | 9 => some (max x b)
  | 10 => some (if b ≤ x then 0 else x + 1)
  | _ => some (if x = 0 || b < x then b else x - 1)

/-- One indivisible atomic on local memory (R156): the old value, and the state. -/
def State.atomAt (s : State) (pa n op b c : Nat) : Nat × State :=
  let s := s.fillViews pa (sectorsOf (pa % 2 ^ 44) n)
  let x := leNat (s.rawRead pa n)
  (x, match atomNew op n x b c with
      | some v => s.rawWrite pa (leBytes n v)
      | none => s)

/-- An arbitration block changed. -/
def State.modArb (s : State) (die : Nat) (f : Arb → Arb) : State := s.modDie die fun d => { d with arb := f d.arb }

/-- The address of a log entry (R160). -/
def Arb.entryPa (a : Arb) (i : Nat) : Nat := a.base.toNat + 16 * (i % 2 ^ a.log2n)

/-- The 16 bytes of a log entry (R160). -/
def logEntry (line grid group wave run : Nat) : Nat :=
  line / 256 * 256 % 2 ^ 56 + grid % 256 * 2 ^ 56 + group % 2 ^ 24 * 2 ^ 64 + wave % 16 * 2 ^ 88 + run % 2 ^ 32 * 2 ^ 96

/-- Recording an atomic that was performed (R161): it extends the last entry's RUN or takes a new entry; a full log stops
the recording. A write of the log that faults goes to the fault latch of the issuing bench (R216). -/
def State.recordAtomic (s : State) (die b ctx line grid group wave : Nat) : State :=
  let a := (s.die die).arb
  let key := (line / 256, grid % 256, group, wave)
  let put (i run : Nat) (f : Arb → Arb) : State :=
    match s.pointWrite die (a.entryPa i) (leBytes 16 (logEntry line grid group wave run)) with
    | .ok s => s.modArb die fun a => f { a with last := some (key, run) }
    | .error r => s.latchAccess b ctx r.cause (a.entryPa i) (accessByte 2 16 false)
  let run := match a.last with
    | some (k, run) => if k = key then run else 2 ^ 32 - 1
    | none => 2 ^ 32 - 1
  if run < 2 ^ 32 - 1 then put (a.widx - 1) (run + 1) id
  else if 2 ^ a.log2n ≤ (a.widx + 2 ^ 64 - a.ridx) % 2 ^ 64 then
    s.modArb die fun a => { a with ovf := true, mode := 0, last := none }
  else put a.widx 1 fun a => { a with widx := (a.widx + 1) % 2 ^ 64 }

/-- The L1 of the bench of an atomic that the gate held, just before it is performed (R145): it may have filled or masked
bytes since. -/
def State.heldL1 (s : State) (h : HeldAtomic) : State :=
  match h.who with
  | .frag b _ _ => s.strongL1 b h.pa h.size
  | _ => s

/-- An atomic that the gate held is performed and its old value goes to its fragment (R162, R335): the fragment's `codes`
hold the old values of the lanes performed; with no lane held it goes on at its instruction. -/
def State.performHeld (s : State) (die : Nat) (h : HeldAtomic) : State :=
  let (x, s) := (s.heldL1 h).atomAt h.pa h.size h.op h.b h.c
  let s := s.modArb die fun a => { a with held := a.held.filter (· != h) }
  match h.who with
  | .frag b slot e =>
    let more := (List.range 2).any fun d => (s.die d).arb.held.any fun k => k.who == h.who
    let now := s.cycle b
    s.modFrag b slot e fun f =>
      { f with codes := f.codes.set h.lane x, wait := if more then f.wait else some .back, since := now }
  | _ => s

/-- The replay of a die ends without a fault (R162): held atomics are performed in arrival order. Where MODE becomes RECORD
they are performed unrecorded, since they reached the die before it recorded (DESIGN CHOICE, log entry 92). -/
def State.endReplay (s : State) (die mode : Nat) : State :=
  let hs := (s.die die).arb.held
  let s := s.modArb die fun a => { a with mode := mode, head := none }
  hs.foldl (fun s h => s.performHeld die h) s

/-- The replay of a die ends as by a time-out (R162): every held atomic raises ORDERGATE. The mark 64 in a fragment's
`codes` holds RIDX; its instruction raises the cause with the lanes that were not performed (R336). -/
def State.failGate (s : State) (die : Nat) : State :=
  let a := (s.die die).arb
  let s := s.modArb die fun a => { a with mode := 0, head := none, gatef := true, held := [] }
  a.held.foldl (fun s h =>
    match h.who with
    | .frag b slot e =>
      let now := s.cycle b
      s.modFrag b slot e fun f => { f with codes := f.codes.set 64 a.ridx, wait := some .back, since := now }
    | _ => s) s

/-- The gate compares the head of the log with the held atomics (R162): the first lane of a request that matches is
performed, the head's count falls, and RIDX advances at 0. The head is read from the log once, when an atomic first needs
it; a fault of that read ends the replay. -/
def State.gateStep (s : State) (die : Nat) : State :=
  let a := (s.die die).arb
  match a.mode, a.held with
  | 2, h0 :: _ =>
    -- no entry is left: the replay is over (DEDUCED, log entry 48)
    if a.ridx = a.widx then s.endReplay die 0 else
    let head : Except Raise (List Byte × State) := match a.head with
      | some w => .ok (leBytes 16 w, s)
      | none => s.pointRead die (a.entryPa a.ridx) 16
    match head with
    | .error r =>
      let (b, ctx) := match h0.who with
        | .frag b _ _ => (b, a.ctx)
        | _ => (128 * die, a.ctx)
      (s.failGate die).latchAccess b ctx r.cause (a.entryPa a.ridx) (accessByte 1 16 false)
    | .ok (bs, s) =>
      let w := leNat bs
      let s := s.modArb die fun a => { a with head := some w }
      let hit (h : HeldAtomic) : Bool :=
        bitsOf w 55 8 == h.pa % 2 ^ 56 / 256 && bitsOf w 63 56 == h.grid % 256 && bitsOf w 87 64 == h.group
          && bitsOf w 91 88 == h.wave
          && !a.held.any (fun k => k.who == h.who && k.pa / 256 == h.pa / 256 && k.lane < h.lane)
      match a.held.find? hit with
      | none => s
      | some h =>
        let s := s.performHeld die h
        let run := bitsOf w 127 96 - 1
        if run = 0 then
          let s := s.modArb die fun a => { a with ridx := (a.ridx + 1) % 2 ^ 64, head := none }
          if (a.ridx + 1) % 2 ^ 64 = a.widx then s.endReplay die 0 else s
        else s.modArb die fun a => { a with head := some (setBits w 127 96 run) }
  | _, _ => s

/-- A write of an arbitration block (R159, R162). -/
def State.writeArb (s : State) (die w : Nat) (v : W64) : State :=
  let n := v.toNat
  let a := (s.die die).arb
  match w with
  | 0 =>
    let s := s.modArb die fun a => { a with ctx := bitsOf n 31 16 }
    let m := n % 4
    if m = 3 || m = a.mode then s
    else if a.mode = 2 then s.endReplay die m
    else s.modArb die fun a => { a with mode := m, head := none, last := none }
  | 1 => s.modArb die fun a => { a with base := BitVec.ofNat 56 (bitsOf n 55 4 * 16) }
  | 2 => let l := n % 32; if 8 ≤ l && l ≤ 24 then s.modArb die fun a => { a with log2n := l } else s
  | 3 => if a.mode = 1 then s else s.modArb die fun a => { a with widx := n }
  | 4 => if a.mode = 2 then s else s.modArb die fun a => { a with ridx := n }
  | 5 => s.modArb die fun a =>
      { a with ovf := a.ovf && !bitOf n 0, gatef := a.gatef && !bitOf n 1,
               gateto := if bitsOf n 47 32 = 0 then a.gateto else bitsOf n 47 32 }
  | _ => s

end Sys2Proof.Machine
end

