-- ==== Sys2Proof/Machine/Flags.lean ====
section
/-! DEFINITION. The condition code SCC (R47, R49, R317, R395) and the floating-point flags of a wave (R67, R68). -/

namespace Sys2Proof.Machine

open Sys2Proof

/-- SCC from its four flags: [0] Z, [1] N, [2] C, [3] V (R47). -/
def mkScc (z n c v : Bool) : BitVec 4 := BitVec.ofBool v ++ BitVec.ofBool c ++ BitVec.ofBool n ++ BitVec.ofBool z

/-- SCC of an addition of two `n`-bit patterns (R394): C is the carry out, V signed overflow. -/
def sccAdd (n a b : Nat) : BitVec 4 :=
  let r := (a + b) % 2 ^ n
  mkScc (r == 0) (bitOf r (n - 1)) (2 ^ n ≤ a + b) (bitOf a (n - 1) == bitOf b (n - 1) && bitOf r (n - 1) != bitOf a (n - 1))

/-- SCC of A − B of two `n`-bit patterns (R317): C is A < B unsigned, V signed overflow. -/
def sccSub (n a b : Nat) : BitVec 4 :=
  let r := (a + 2 ^ n - b) % 2 ^ n
  mkScc (r == 0) (bitOf r (n - 1)) (a < b) (bitOf a (n - 1) != bitOf b (n - 1) && bitOf r (n - 1) != bitOf a (n - 1))

/-- SCC of a logical result (R394): Z and N from it; C and V are 0. -/
def sccLogic (n r : Nat) : BitVec 4 := mkScc (r % 2 ^ n == 0) (bitOf r (n - 1)) false false

/-- The conditions 0 to 10 of R317 over SCC. -/
def sccCond (c : Nat) (f : BitVec 4) : Bool :=
  let z := f.getLsbD 0
  let n := f.getLsbD 1
  let cc := f.getLsbD 2
  let v := f.getLsbD 3
  match c with
  | 0 => true
  | 1 => z
  | 2 => !z
  | 3 => n != v
  | 4 => n == v
  | 5 => cc
  | 6 => !cc
  | 7 => !z && n == v
  | 8 => z || n != v
  | 9 => !cc && !z
  | _ => cc || z

/-- A condition code of format C (R317). -/
def Wcx.cond (cx : Wcx) (cnd sa mk : Nat) : Bool :=
  let ex := cx.f.exec
  match cnd with
  | 11 => cx.w.sreg sa == 0
  | 12 => cx.w.sreg sa != 0
  | 13 => (cx.w.mreg mk &&& ex) != 0
  | 14 => (cx.w.mreg mk &&& ex) == 0
  | 15 => (cx.w.mreg mk &&& ex) == ex
  | c => sccCond c cx.w.scc

/-- The flags that the lanes of an instruction raise (R67): those of EXEC that are no helper lanes. `fl` gives each lane's. -/
def Wcx.raised (cx : Wcx) (fl : Nat → Nat) : Nat :=
  (lanesOf (cx.f.exec &&& ~~~cx.w.helper)).foldl (fun a l => a ||| fl l) 0

/-- The lanes that raised an enabled flag (R68). -/
def Wcx.trapLanes (cx : Wcx) (fl : Nat → Nat) : W32 :=
  maskOf fun l => (cx.f.exec &&& ~~~cx.w.helper).getLsbD l && (fl l &&& cx.w.fptrap.toNat) != 0

/-- Flags ORed into SV.FPFLAGS of a wave (R67). -/
def State.orFlags (s : State) (b slot fl : Nat) : State :=
  if fl = 0 then s else s.modWave b slot fun w => { w with fpflags := w.fpflags ||| BitVec.ofNat 5 fl }

end Sys2Proof.Machine
end

