-- ==== Sys2Proof/Machine/Operands.lean ====
section
/-! DEFINITION. The operand forms of wave instructions (R308 to R313): registers of the window with the bypass network
(R54, R60), scalars, pairs and packed elements; and issuing a wave instruction: the register limits (R48), the bypass
window (R61), the results, and the fault it may raise. -/

namespace Sys2Proof.Machine

open Sys2Proof

/-- A vector result: a register, the lanes it is written in, and their values. -/
structure VRes where
  reg : Nat
  mask : W32
  vals : List Nat
  deriving DecidableEq, Repr

/-- What an instruction's encoding reads and writes (R48, R61): register numbers, in one numbering — v0 at 0, s0 at 1000,
m0 at 2000, SCC at 3000, b0 at 4000, a special value by its number from 5000 on —, whether the result is transient, whether
R61 forbids it in a window, whether R305 refuses it for what it names beside its encoding, its operand-cache hints (R59), the register rows that it reads as memory (R57), and those of
its sources whose lanes it reads by number rather than its own, so that the instruction itself looks for their poison
(R218). -/
structure WInfo where
  reads : List Nat := []
  writes : List Nat := []
  tr : Bool := false
  barred : Bool := false
  illegal : Bool := false
  oc : List Nat := []
  rows : List Nat := []
  cross : List Nat := []
  deriving DecidableEq, Repr

/-- Scalar register `n` in the numbering of `WInfo`. -/
def sReg (n : Nat) : Nat := 1000 + n
/-- Mask register `n` in the numbering of `WInfo`. -/
def mReg (n : Nat) : Nat := 2000 + n
/-- SCC in the numbering of `WInfo`. -/
def sccReg : Nat := 3000
/-- Translation register `n` in the numbering of `WInfo`. -/
def bReg (n : Nat) : Nat := 4000 + n

/-- A special value that SWR may write (R51), in the numbering of `WInfo`. -/
def specialReg (n : Nat) : List Nat := if n = 0x13 then [sccReg] else if [0x18, 0x19, 0x28].contains n then [5000 + n] else []

/-- What an issued wave instruction comes to. -/
inductive WRes where
  /-- It completes: vector results and store-hash terms (R163); PC advances by 8. -/
  | done (s : State) (v : List VRes) (terms : W64)
  /-- It transfers control. -/
  | jump (s : State) (pc : W64)
  /-- It has not completed: the fragment waits at it. -/
  | stay (s : State)
  /-- It has set the fragment's own entry. -/
  | own (s : State)
  /-- It raises a cause; the state holds what stays done (the flags of R68). -/
  | raise (s : State) (r : Raise)

/-- The file's row of a vector register (R54): 32 lane elements. -/
def State.readRow (s : State) (b : Nat) (w : Wave) (n : Nat) : List Nat :=
  let bs := Mem.read s.mem (storePa b (w.rowAddr n)) 128
  lanes.map fun l => leNat ((bs.drop (4 * l)).take 4)

/-- A lane element of a vector register written in the file (R54). -/
def State.writeElem (s : State) (b : Nat) (w : Wave) (n l v : Nat) : State :=
  { s with mem := Mem.write s.mem (storePa b (w.rowAddr n) + 4 * l) (leBytes 4 v) }

/-- A vector register as an instruction of the fragment reads it (R60). Lanes that the most recent transient result of the
register does not name read the file (DESIGN CHOICE, log entry 90). -/
def State.readV (s : State) (cx : Wcx) (n : Nat) : List Nat :=
  let file := s.readRow cx.b cx.w n
  let ts := cx.f.win.results.filter fun t => t.reg == n
  match ts with
  | [] => file
  | t :: _ => lanes.map fun l => if t.mask.getLsbD l then (t.vals.getD l 0).toNat else file.getD l 0

/-- The pair v[n:n+1] as 64-bit lane values (R48). -/
def State.readPair (s : State) (cx : Wcx) (n : Nat) : List Nat :=
  let lo := s.readV cx n
  let hi := s.readV cx (n + 1)
  lanes.map fun l => lo.getD l 0 + hi.getD l 0 * 2 ^ 32

/-- A source of format VR (R308): a scalar for every lane, or a register or pair. -/
def State.readSrc (s : State) (cx : Wcx) (wide ks : Bool) (n : Nat) : List Nat :=
  if ks then List.replicate 32 (if wide then (cx.w.sreg n).toNat else (cx.w.sreg n).toNat % 2 ^ 32)
  else if wide then s.readPair cx n else s.readV cx n

/-- Lane results to a register or a pair (R48). -/
def vresOf (wide : Bool) (vd : Nat) (mask : W32) (vals : List Nat) : List VRes :=
  if wide then [⟨vd, mask, vals.map (· % 2 ^ 32)⟩, ⟨vd + 1, mask, vals.map (· / 2 ^ 32)⟩]
  else [⟨vd, mask, vals.map (· % 2 ^ 32)⟩]

/-- The registers of a vector source or destination, for `WInfo`. -/
def vRegs (n k : Nat) : List Nat := (List.range k).map (n + ·)

/-- The registers of a format-VR source. -/
def srcRegs (wide ks : Bool) (n : Nat) : List Nat := if ks then [sReg n] else vRegs n (if wide then 2 else 1)

/-- TY 2, 3 and 5 are pairs (R308). -/
def isWide (ty : Nat) : Bool := ty == 2 || ty == 3 || ty == 5

/-- The lanes of a half of a register row: the lanes whose elements lie in one sector (R54). -/
def halfMask (h : Nat) : W32 := w32 (0xFFFF * 2 ^ (16 * h))

/-- The address of lane `l` of a vector register, when a read of it meets a poisoned sector, and the source of the poison
(R218). A lane that the bypass network serves reads no sector (R60). -/
def State.elemPoison (s : State) (cx : Wcx) (n l : Nat) : Option (Nat × Nat) :=
  let served := match cx.f.win.results.filter fun t => t.reg == n with
    | [] => false
    | t :: _ => t.mask.getLsbD l
  let a := storePa cx.b (cx.w.rowAddr n) + 4 * l
  if served then none else (s.poisonOf (a / 64)).map fun src => (a, src)

/-- The POISON of lanes that meet it (R208, R218): `hit` gives a lane's address and source. The helper lanes are not
named. -/
def Wcx.poisonRaise (cx : Wcx) (ls : List Nat) (hit : Nat → Option (Nat × Nat)) : Option Raise :=
  let bad := ls.filter fun l => (hit l).isSome
  let named := bad.filter fun l => !cx.w.helper.getLsbD l
  match (named ++ bad).findSome? hit with
  | none => none
  | some (a, src) => some { cause := Cause.poison, va := a, aux := src, lanes := maskOf named.contains }

/-- The poison that the lanes of EXEC meet when they read registers in the bench store (R30, R218), at the lowest register
of the lowest lane (R208). -/
def State.regPoison (s : State) (cx : Wcx) (rs : List Nat) : Option Raise :=
  if s.poisoned = [] then none
  else cx.poisonRaise (lanesOf cx.f.exec) fun l => (rs.filter (· < 512)).findSome? fun n => s.elemPoison cx n l

/-- One vector result applied: to the file, or to the bypass network when it is transient (R60). -/
def State.putV (s : State) (cx : Wcx) (v : VRes) : State :=
  (lanesOf v.mask).foldl (fun s l => s.writeElem cx.b cx.w v.reg l (v.vals.getD l 0)) s

/-- The lanes' sectors that a register write covers in part while they are poisoned (R113, R218). A transient result writes
no row (R60). -/
def State.putPoison (s : State) (cx : Wcx) (tr : Bool) (vs : List VRes) : Option Raise :=
  if s.poisoned = [] || tr then none
  else cx.poisonRaise lanes fun l => vs.findSome? fun v =>
    let half := v.mask &&& halfMask (l / 16)
    let a := storePa cx.b (cx.w.rowAddr v.reg) + 4 * l
    if v.mask.getLsbD l && half != halfMask (l / 16) then (s.poisonOf (a / 64)).map fun src => (a, src) else none

/-- Sectors of register rows that results write whole lose their poison (R113). -/
def State.clearRows (s : State) (cx : Wcx) (vs : List VRes) : State :=
  if s.poisoned = [] then s else
  vs.foldl (fun s v => (List.range 2).foldl (fun s h =>
    if v.mask.toNat / 2 ^ (16 * h) % 2 ^ 16 = 0xFFFF then
      s.clearPoison (storePa cx.b (cx.w.rowAddr v.reg) + 64 * h) 64 else s) s) s

/-- The window after an instruction of the fragment has issued (R60, R61). -/
def nextWindow (f : Frag) (i : WInfo) (vs : List VRes) (terms : W64) : Window :=
  let aged := (f.win.results.map fun t => { t with left := t.left - 1 }).filter (·.left != 0)
  if i.tr then
    { producer := if f.win.left = 0 then f.pc else f.win.producer, left := 3,
      reads := i.reads ++ i.rows ++ f.win.reads,
      results := (vs.map fun v => ⟨v.reg, v.mask, v.vals.map w32, 3⟩) ++ aged,
      terms := f.win.terms + terms }
  else if f.win.left ≤ 1 then {}
  else
    { f.win with left := f.win.left - 1, reads := i.reads ++ i.rows ++ f.win.reads,
                 results := aged.filter fun t => !vs.any fun v => v.reg == t.reg, terms := f.win.terms + terms }

/-- The store-hash terms that become due when an instruction has issued (R163): at once outside a window, all of a
window's at its close. -/
def dueTerms (f : Frag) (i : WInfo) (terms : W64) : W64 :=
  if i.tr then 0 else if f.win.left = 0 then terms else if f.win.left = 1 then f.win.terms + terms else 0

/-- The operand cache after an issue (R59): hinted sources enter it, any other source that it holds becomes the most recent,
written registers leave it; at most 4, the least recently used leaving first. -/
def nextCache (oc : List Nat) (i : WInfo) : List Nat :=
  let hinted := i.oc.eraseDups
  let used := hinted ++ (oc.filter fun r => i.reads.contains r && !i.oc.contains r)
  ((used ++ oc.filter fun r => !used.contains r).filter fun r => !i.writes.contains r).take 4

/-- An instruction of the fragment has completed: its results, the window, the store hash, the operand cache, PC. -/
def State.finish (s : State) (cx : Wcx) (i : WInfo) (pc : W64) (vs : List VRes) (terms : W64) : State :=
  let s := if i.tr then s else vs.foldl (fun s v => s.putV cx v) (s.clearRows cx vs)
  let due := dueTerms cx.f i terms
  let s := if due = 0 then s else s.modGroup cx.b cx.w.group fun g => { g with sum := g.sum + due }
  let s := if i.oc = [] && cx.w.oc = [] then s else s.modWave cx.b cx.slot fun w => { w with oc := nextCache w.oc i }
  let now := s.cycle cx.b
  s.modFrag cx.b cx.slot cx.e fun f => { f with pc := pc, since := now, win := nextWindow cx.f i vs terms }

/-- The register limits (R48) and the window's rules (R61): whether the instruction raises ILLEGAL. -/
def Wcx.refuses (cx : Wcx) (i : WInfo) : Bool :=
  i.illegal || (i.reads ++ i.writes).any (fun n => n < 1000 && cx.w.regs ≤ n)
    || (cx.f.win.left != 0 && (i.barred || i.writes.any fun n => cx.f.win.reads.contains n))

/-- The fault of the issuing fragment. -/
def State.fault (s : State) (cx : Wcx) (r : Raise) : State := s.waveFault cx.b cx.slot cx.e cx.g cx.f r

/-- The issuing fragment waits at its instruction. -/
def State.parkAt (s : State) (cx : Wcx) (w : Wait) : State :=
  s.modFrag cx.b cx.slot cx.e fun f => { f with wait := some w }

/-- An instruction of a fragment is under way (R55, R57, R200, R243, R246): an access of its is out or held at the order
gate, some of its lanes wait for a segment, or what it waited for is there and it has not gone on yet. -/
def Frag.inFlight (f : Frag) : Bool :=
  match f.wait with
  | some .remote => true
  | some .gate => true
  | some (.pass _) => true
  | some .back => true
  | _ => false

/-- An instruction of a fragment is under way, also where lanes of its were performed and no wait is left (R200, R436). -/
def Frag.underWay (f : Frag) : Bool := f.inFlight || (f.wait.isNone && (f.codes != [] || f.vxm != 0))

/-- An instruction of a fragment comes before one that waits for its siblings. Lanes of a MEMIT or an offer that wait for a
split access no memory of the wave, and come before what reaches their registers alone, as `regs` says. -/
def Frag.outFor (regs : Bool) (f : Frag) : Bool :=
  f.inFlight && (regs || match f.wait with
    | some (.pass _) => false
    | _ => true)

/-- The scalars, masks and SCC that the instruction shares with one of a sibling fragment that is still in flight (R57,
R136): what the earlier instruction reads or writes is not written, and what it writes is not read, before it completes.
Vector elements belong to the lanes of one fragment; the instructions that reach other lanes are ordered by `step`. -/
def Wcx.behind (cx : Wcx) (i : WInfo) : Bool :=
  cx.w.frags.any fun p => p.1 != cx.e && p.2.inFlight
    && (i.writes.any (fun n => 1000 ≤ n && (p.2.reads.contains n || p.2.writes.contains n))
        || i.reads.any fun n => 1000 ≤ n && p.2.writes.contains n)

/-- An instruction that is now in flight leaves the names of its registers (R57). -/
def State.noteFlight (s : State) (cx : Wcx) (i : WInfo) : State :=
  if (s.frag? cx.b cx.slot cx.e).any (·.inFlight) then
    s.modFrag cx.b cx.slot cx.e fun f => { f with reads := i.reads, writes := i.writes }
  else s

/-- A wave instruction issues (R305, R48, R61, R212): the checks, then its effect. -/
def State.issue (s : State) (i : WInfo) (body : Wcx → WRes) : Host.Outcome State Fault Refusal :=
  match s.wcx with
  | none => .fault .noIssuer
  | some cx =>
    if cx.behind i then .next (s.parkAt cx .order)
    else if cx.refuses i then .next (s.fault cx (raiseOf Cause.illegal))
    else
      match s.regPoison cx (i.reads.filter fun n => !i.cross.contains n) with
      | some r => .next (s.fault cx r)
      | none =>
        match body cx with
        | .done s' vs terms =>
          match s.putPoison cx i.tr vs with
          | some r => .next (s.fault cx r)
          | none => .next (s'.finish cx i (cx.f.pc + 8) vs terms)
        | .jump s' pc => .next (s'.finish cx i pc [] 0)
        | .stay s' => .next (s'.noteFlight cx i)
        | .own s' => .next s'
        | .raise s' r => .next (s'.fault cx r)

/-- An instruction that reads lanes by number (R218): `els l` are the registers and lanes that lane `l` of `ls` reads. Where
one of them is poisoned it raises, naming those lanes (R208). -/
def State.readAcross (s : State) (cx : Wcx) (ls : List Nat) (els : Nat → List (Nat × Nat)) (go : WRes) : WRes :=
  if s.poisoned = [] then go
  else
    match cx.poisonRaise ls fun l => (els l).findSome? fun p => s.elemPoison cx p.1 p.2 with
    | some r => .raise s r
    | none => go

/-- A scalar register of the issuing wave written (R47). -/
def State.setS (s : State) (cx : Wcx) (n : Nat) (v : W64) : State :=
  s.modWave cx.b cx.slot fun w => { w with s := w.s.set n v }

/-- A mask register of the issuing wave written (R47). -/
def State.setM (s : State) (cx : Wcx) (n : Nat) (v : W32) : State :=
  s.modWave cx.b cx.slot fun w => { w with m := w.m.set n v }

/-- SCC of the issuing wave written (R49). -/
def State.setScc (s : State) (cx : Wcx) (v : BitVec 4) : State :=
  s.modWave cx.b cx.slot fun w => { w with scc := v }

/-- A mask source (R379): a mask register, or EXEC for 16. -/
def Wcx.maskSrc (cx : Wcx) (n : Nat) : W32 := if n = 16 then cx.f.exec else cx.w.mreg n

/-- Source B of format S (R310): a scalar, or the sign-extended immediate. -/
def Wcx.sB (cx : Wcx) (f : FS) : W64 := if f.ib = 1 then f.imm.signExtend 64 else cx.w.sreg f.sb.toNat

/-- The scalar registers that format S reads as A and B. -/
def sReads (f : FS) : List Nat := sReg f.sa.toNat :: (if f.ib = 1 then [] else [sReg f.sb.toNat])

/-- The width in bits of one element of a type (R62, R64). -/
def elemBits (ty : Nat) : Nat :=
  if isWide ty then 64 else if ty ≤ 4 then 32 else if ty ≤ 9 then 16 else if ty ≤ 13 then 8 else 4

/-- Elements of one register or pair of a type (R425). -/
def elemsPer (ty : Nat) : Nat := if ty ≤ 5 then 1 else if ty ≤ 9 then 2 else if ty ≤ 13 then 4 else 8

/-- Element `e` of a lane value (R62, R64). -/
def elemOf (ty v e : Nat) : Nat := v / 2 ^ (elemBits ty * e) % 2 ^ elemBits ty

/-- A lane value from its elements. -/
def packElems (ty : Nat) (es : List Nat) : Nat :=
  es.foldr (fun x a => x % 2 ^ elemBits ty + a * 2 ^ elemBits ty) 0

/-- A lane value built element by element. -/
def mapElems (ty : Nat) (f : Nat → Nat) : Nat := packElems ty ((List.range (elemsPer ty)).map f)

/-- The floating-point format of a type (R64). -/
def fmtOf (ty : Nat) : Fmt :=
  match ty with
  | 4 => .f32
  | 5 => .f64
  | 6 => .f16
  | 7 => .bf16
  | 12 => .e4m3
  | 13 => .e5m2
  | _ => .e2m1

/-- An integer type is signed (R62). -/
def isSigned (ty : Nat) : Bool := ty == 0 || ty == 2 || ty == 8 || ty == 10

/-- An element of an integer type as an integer (R62). -/
def intElem (ty x : Nat) : Int := if isSigned ty then sext (elemBits ty) x else (x : Int)

/-- Narrowing of an exact integer to an element (R63). -/
def narrow (ty : Nat) (sat : Bool) (i : Int) : Nat :=
  let w := elemBits ty
  if !sat then wrap w i
  else
    let lo : Int := if isSigned ty then -(2 ^ (w - 1) : Nat) else 0
    let hi : Int := if isSigned ty then (2 ^ (w - 1) : Nat) - 1 else (2 ^ w : Nat) - 1
    wrap w (max lo (min hi i))

/-- The registers, operand hints and transience of a format-VR instruction with a vector destination. -/
def vrInfo (f : VR) (useB useC : Bool) : WInfo :=
  let wide := isWide f.ty.toNat
  let a := srcRegs wide (f.ks.getLsbD 2) f.va.toNat
  let b := if useB then srcRegs wide (f.ks.getLsbD 1) f.vb.toNat else []
  let c := if useC then srcRegs wide (f.ks.getLsbD 0) f.vc.toNat else []
  { reads := a ++ b ++ c, writes := vRegs f.vd.toNat (if wide then 2 else 1), tr := f.tr == 1,
    oc := (if f.oc.getLsbD 2 then a.filter (· < 512) else []) ++ (if f.oc.getLsbD 1 then b.filter (· < 512) else [])
      ++ (if f.oc.getLsbD 0 then c.filter (· < 512) else []) }

/-- Sources A, B and C of a format-VR instruction, lane by lane (R308). -/
def State.srcA (s : State) (cx : Wcx) (f : VR) : List Nat :=
  s.readSrc cx (isWide f.ty.toNat) (f.ks.getLsbD 2) f.va.toNat
/-- Source B (R308). -/
def State.srcB (s : State) (cx : Wcx) (f : VR) : List Nat :=
  s.readSrc cx (isWide f.ty.toNat) (f.ks.getLsbD 1) f.vb.toNat
/-- Source C (R308). -/
def State.srcC (s : State) (cx : Wcx) (f : VR) : List Nat :=
  s.readSrc cx (isWide f.ty.toNat) (f.ks.getLsbD 0) f.vc.toNat

end Sys2Proof.Machine
end

