-- ==== Sys2Proof/Machine/Rings.lean ====
section
/-! DEFINITION. Ring slots as programs (R34 to R39), timelines and their selectors (R191), physical semaphores (R151),
and the queues' timelines and grids (R188, R189). -/

namespace Sys2Proof.Machine

open Sys2Proof

/-- Command words of a ring (R34). -/
def Ring.size (r : Ring) : Nat := 2 ^ r.l2n

/-- The slot is bound (R38). -/
def Ring.bound (r : Ring) : Bool := r.state != .unbound

/-- The context of a ring slot is draining or drained, so nothing of it issues or works (R200). -/
def Bench.ctxStops (b : Bench) (ctx : Nat) : Bool := let c := b.ctx ctx; c.draining || c.drained

/-- Nothing of a ring issues or works: its context is draining, or it was left DRAINED or HALTED by the drain. RCTL.RESUME
moves one ring of a drained context alone (R440). -/
def Bench.ringStops (b : Bench) (r : Ring) : Bool :=
  let c := b.ctx r.ctx
  c.draining || r.state == .drained || (c.drained && r.state == .halted)

/-- A command stands inside a unit of its work, which a drain lets end (R102, R184, R200, R274): the check of a K-step, a
chunk of a copy, or an exchange with another package. -/
def Active.midStep (a : Active) : Bool := !a.worked && !a.halted && (a.sent || a.rerun != 0 || a.mid)

/-- A command of a ring is stopped by a drain (R200): not while it stands inside a unit of its work. -/
def Bench.cmdStops (b : Bench) (r : Ring) (a : Active) : Bool := b.ringStops r && !((b.ctx r.ctx).draining && a.midStep)

/-- Who pushes a command, as its shadow entry records it (R35). -/
structure Pusher where
  pc : W64
  micro : Nat := 0
  kind : Nat
  slot : Nat := 0xFF
  bench : Nat
  deriving DecidableEq, Repr

/-- The 128 bits of a shadow entry (R35). -/
def Pusher.shadow (p : Pusher) (num : Nat) : Nat :=
  p.pc.toNat + p.micro % 4096 * 2 ^ 64 + p.kind % 4 * 2 ^ 80 + p.slot % 256 * 2 ^ 88 + p.bench % 2 ^ 16 * 2 ^ 96
    + num % 2 ^ 16 * 2 ^ 112

/-- Why a push of `n` commands to a slot is refused (R36, R438). -/
def Ring.pushRefusal (r : Ring) (n : Nat) : Option Nat :=
  if !r.bound || r.state == .aborted then some Cause.cmdIllegal
  else if r.size < r.wp - r.tl + n then some Cause.ringFull
  else none

/-- The word of command `k` of a ring as its bytes give it now (R34). Where they were rewritten after the push, the engine
takes either word: an open choice (R331). -/
def State.storeWord (s : State) (b slot k : Nat) : W64 :=
  let r := s.ring b slot
  let m := w64 (leNat (Mem.read s.mem (storePa b (r.base + 8 * ((k - 1) % r.size))) 8))
  match r.pushed.get? k with
  | some (w, _) => if w = m || Config.freeOf 2 k slot % 2 = 0 then m else w
  | none => m

/-- The word of command `k` of a ring: the engine reads that of the head once (R331). -/
def State.ringWord (s : State) (b slot k : Nat) : W64 :=
  let r := s.ring b slot
  match r.head with
  | some w => if k = r.rp + 1 then w else s.storeWord b slot k
  | none => s.storeWord b slot k

/-- The timeline over a contiguous run of completed numbers (R36, R37): the new TL and the numbers left above it. -/
def advance : Nat → Nat → List Nat → Nat × List Nat
  | 0, tl, done => (tl, done)
  | fuel + 1, tl, done =>
    if done.contains (tl + 1) then advance fuel (tl + 1) (done.filter (· != tl + 1)) else (tl, done)

/-- A timeline that a 13-bit selector names (R191). -/
inductive Timeline where
  | ring (b slot : Nat)
  | queue (q : Nat)
  | nothing
  | reserved
  deriving DecidableEq, Repr

/-- The timeline of a selector (R191). -/
def Timeline.ofSel (sel : Nat) : Timeline :=
  if sel = 0x1FFF then .nothing
  else if sel < 0x1000 then .ring (sel / 16) (sel % 16)
  else if bitsOf sel 11 6 = 0 then .queue (sel % 64)
  else .reserved

/-- TL of a timeline (R36, R188). -/
def State.tl (s : State) : Timeline → Nat
  | .ring b slot => (s.ring b slot).tl
  | .queue q => (s.queue q).tl
  | _ => 0

/-- The dependence comparison of R191, modulo 2³². -/
def tlMet (t v : Nat) : Bool := (t % 2 ^ 32 + 2 ^ 32 - v % 2 ^ 32) % 2 ^ 32 < 2 ^ 31

/-- The scope at which a wait on a timeline acquires, for a waiter of bench `b` (R150). -/
def tlScope (b : Nat) : Timeline → Nat
  | .ring b' _ => if b' = b then 2 else 5
  | _ => 5

/-! ## Semaphores -/

/-- An increment of a physical counter (R151): none when it would pass 2³² − 1. -/
def State.semAdd (s : State) (b k n : Nat) : Option State :=
  let v := (s.bench b).sem k
  if 2 ^ 32 ≤ v + n then none else some (s.setSem b k (v + n))

/-- Somebody waits on a counter (R151). -/
def Bench.semWaited (b : Bench) (k : Nat) : Bool := b.semWaits.any fun p => p.1 == k

/-- A unit that FSIG gives (R272). -/
def State.semGive (s : State) (b k : Nat) : Option State :=
  (s.semAdd b k 1).map fun s => s.modBench b fun x => { x with farUnits := x.farUnits.set k (x.farUnits.get k 0 + 1) }

/-- A unit of a counter is taken, with Acquire(BENCH) (R150); while units that FSIG gave are left, it may be one of them and
the scope is SYSTEM (R272). -/
def State.takeUnit (s : State) (b k : Nat) : State :=
  let far := (s.bench b).farUnits.get k 0
  let s := s.setSem b k ((s.bench b).sem k - 1)
  if far = 0 then s.acquire b 2
  else (s.modBench b fun x => { x with farUnits := x.farUnits.set k (far - 1) }).acquire b 6

/-- A wait arrives at a counter (R151): granted at once when the counter is above zero and nobody waits, otherwise it
queues in arrival order, once. The flag says that it was granted, and so has acquired. -/
def State.semTake (s : State) (b k : Nat) (w : SemWaiter) : Bool × State :=
  let x := s.bench b
  if x.semWaits.any fun p => p.2 == w then (false, s)
  else if x.sem k != 0 && !x.semWaited k then (true, s.takeUnit b k)
  else (false, s.modBench b fun x => { x with semWaits := x.semWaits ++ [(k, w)] })

/-- A wait is withdrawn: it takes no unit (R200, R249). -/
def State.semWithdraw (s : State) (b : Nat) (w : SemWaiter) : State :=
  s.modBench b fun x => { x with semWaits := x.semWaits.filter fun p => p.2 != w }

/-- A command becomes the head: its word is read, once (R331). -/
def State.readHead (s : State) (b slot : Nat) : State :=
  let r := s.ring b slot
  if r.head.isSome || r.wp ≤ r.rp then s
  else s.modRing b slot fun r => { r with head := some (s.storeWord b slot (r.rp + 1)) }

/-- The head of a dynamic ring arrives at its semaphore as it becomes the head (R39, R151): it has its unit, or waits for it
in arrival order. -/
def State.headArrives (s : State) (b slot : Nat) : State :=
  let s := s.readHead b slot
  let x := s.bench b
  let r := x.ring slot
  let wait := bitsOf (s.ringWord b slot (r.rp + 1)).toNat 63 56
  if r.timed || r.tookWait || !(r.state == .running) || x.ringStops r || r.wp ≤ r.rp || wait = 0xFF then s
  else
    match s.semTake b (x.physical r.ctx wait) (.ring slot) with
    | (true, s) => s.modRing b slot fun r => { r with tookWait := true }
    | (false, s) => s

/-- A command pushed to a slot with room (R34 to R36): the shadow entry first, then the word. In an empty ring it is the
head. -/
def State.pushWord (s : State) (b slot : Nat) (word : W64) (p : Pusher) : State :=
  let r := s.ring b slot
  let k := r.wp + 1
  let i := (k - 1) % r.size
  let m := Mem.write s.mem (storePa b (r.base + 8 * r.size + 16 * i)) (leBytes 16 (p.shadow k))
  let m := Mem.write m (storePa b (r.base + 8 * i)) (leBytes 8 word.toNat)
  (({ s with mem := m }).modRing b slot fun r =>
    { r with wp := k, pushed := r.pushed.set k (word, p.shadow k) }).headArrives b slot

/-- One push (R36): the refusal, or the command number and the state. -/
def State.push (s : State) (b slot : Nat) (word : W64) (p : Pusher) : Except Nat (Nat × State) :=
  match (s.ring b slot).pushRefusal 1 with
  | some c => .error c
  | none => .ok ((s.ring b slot).wp + 1, s.pushWord b slot word p)

/-- Copies that a bench holds in flight (R181): lane copies and issued copy commands. -/
def Bench.inFlight (b : Bench) : Nat :=
  b.copies.length + (b.rings.map fun p => if p.2.eng = .copy then p.2.active.length else 0).foldl (· + ·) 0

/-- Work that goes on leaves the wait table (R213): an entry whose last parker wakes returns to free. -/
def Bench.unpark (x : Bench) (ps : List Parker) : Bench :=
  let out (w : WaitEntry) : WaitEntry :=
    if w.parkers.any ps.contains then
      let left := w.parkers.filter fun p => !ps.contains p
      { w with parkers := left, key := if left = [] then none else w.key }
    else w
  { x with waitTable := x.waitTable.mapVal fun _ w => out w }

/-- A fragment that goes on leaves the wait table (R213). -/
def State.unpark (s : State) (b ctx slot e : Nat) : State :=
  let p : Parker := .frag ctx slot e
  if (s.bench b).waitTable.all fun w => !w.2.parkers.contains p then s
  else s.modBench b fun x => x.unpark [p]

/-- A parked fragment goes on after its instruction (R32). -/
def State.resumeFrag (s : State) (b slot e : Nat) : State :=
  let now := s.cycle b
  let s := match (s.wave? b slot).bind fun w => s.group? b w.group with
    | some g => s.unpark b g.ctx slot e
    | none => s
  s.modFrag b slot e fun f => { f with pc := f.pc + 8, wait := none, since := now }

/-! ## Completion of commands -/

/-- The timeline passes every completed command (R37). -/
def State.completeCmd (s : State) (b slot num : Nat) : State :=
  s.modRing b slot fun r =>
    let done := num :: r.done
    let (tl, rest) := advance done.length r.tl done
    let r := { r with tl := tl, done := rest, active := r.active.filter fun a => a.num != num,
                      pushed := r.pushed.filter fun p => tl < p.1 }
    -- a timed ring with FIN set finishes when its end count has retired (R42), whether or not those before it have
    match r.fin with
    | some e => if e ≤ tl || rest.contains e then { r with fin := none, armed := true, begun := false } else r
    | none => r

/-- The SIG increment and the timeline's advance of a command whose work is done (R39, R37): SEMOVF halts the ring and
leaves the increment owed. In a timed ring SIG acts the same way (R41 gives only WAIT another meaning). The Release writes back
the bench's L1, though the engine's own accesses bypass it (R148; DESIGN CHOICE, log entry 101). -/
def State.retireCmd (s : State) (b slot : Nat) (a : Active) : State :=
  let r := s.ring b slot
  let sig := bitsOf a.word.toNat 55 48
  if sig = 0xFF then s.completeCmd b slot a.num
  else
    let s := s.release b 2
    match s.semAdd b ((s.bench b).physical r.ctx sig) 1 with
    | some s => s.completeCmd b slot a.num
    | none =>
      let owe (x : Active) : Active := { x with owesSig := true, worked := true }
      let s := s.modRing b slot fun r => { r with active := modFirst (fun x => x.num == a.num) owe r.active }
      s.haltRing b slot a.num (raiseOf Cause.semOvf)

/-! ## Faults of passes -/

/-- A fault on a write of a pass, or a SEMOVF of its split (R233, R245): binning stops, the record is that of the TBEGIN's
number, and the home ring halts. Where the home slot has been unbound since, there is no ring to halt and no shadow entry
for the record's PC. -/
def State.passFault (s : State) (ctx pn : Nat) (r : Raise) : State :=
  match s.pass? ctx pn with
  | none => s
  | some p =>
    if p.halted then s
    else
      let s := s.modPass ctx pn fun p => { p with halted := true }
      if !p.homeless && (s.ring p.bench p.slot).bound then s.haltRing p.bench p.slot p.num r
      else
        (s.noteCause r.cause).report p.bench
          { cause := Cause.shown r.cause, unit := 4, ring := p.slot, bench := p.bench, ctx := ctx, va := w64 r.va,
            timeline := w64 p.num, access := r.access, aux := w64 r.aux }

/-! ## Grids -/

/-- A grid of a queue completes: the queue's timeline advances (R189). -/
def State.completeGrid (s : State) (q num : Nat) : State :=
  s.modQueue q fun k =>
    let done := num :: k.done
    let (tl, rest) := advance done.length k.tl done
    { k with tl := tl, done := rest, launches := k.launches.filter fun l => l.num != num }

/-- A launch of a queue changed. -/
def State.modLaunch (s : State) (q num : Nat) (f : Launch → Launch) : State :=
  s.modQueue q fun k => { k with launches := modFirst (fun l => l.num == num) f k.launches }

/-- A field of a 64-byte record. -/
def recF (r : BitVec 512) (hi lo : Nat) : Nat := bitsOf r.toNat hi lo

/-- Groups of a launch's grid (R190). -/
def gridGroups (r : BitVec 512) : Nat := (recF r 303 288 + 1) * (recF r 311 304 + 1) * (recF r 319 312 + 1)

/-- DEP0 to DEP3 of a launch record (R190). -/
def depSel (r : BitVec 512) (i : Nat) : Nat := recF r (342 + 13 * i) (330 + 13 * i)

/-- VAL0 to VAL3 of a launch record (R190). -/
def depVal (r : BitVec 512) (i : Nat) : Nat := recF r (415 + 32 * i) (384 + 32 * i)

/-- The groups that are placed early stop being early once no launch of theirs names an incomplete grid (R196): GEARLY of
their partitions falls. Groups that are saved count too. -/
def State.settleEarly (s : State) : State :=
  let still (q num : Nat) : Bool :=
    match (s.queue q).launches.find? fun l => l.num == num with
    | none => false
    | some l => (List.range 4).any fun i =>
        match Timeline.ofSel (depSel l.record i) with
        | .queue dq => !tlMet (s.queue dq).tl (depVal l.record i)
        | _ => false
  { s with benches := s.benches.mapVal fun _ x =>
      let ends (g : Group) : Bool := g.early && match g.origin with
        | .grid q num => !still q num
        | .mesh _ _ => true
      let gs := x.groups ++ x.ctxs.flatMap fun c => c.2.groups
      let settle (t : Tbl Group) : Tbl Group := t.mapVal fun _ g => if ends g then { g with early := false } else g
      if gs.any fun p => ends p.2 then
        { x with
          parts := gs.foldl (fun t p => if ends p.2 then
            t.upd p.2.part {} fun y => { y with gearly := y.gearly - 1 } else t) x.parts,
          groups := settle x.groups,
          ctxs := x.ctxs.mapVal fun _ c => { c with groups := settle c.groups } }
      else x }

/-- The granules of a wave's window (R54). -/
def Wave.granules (w : Wave) : List Nat :=
  (List.range w.g0).map (w.b0 / 1024 + ·) ++ (List.range w.g1).map (w.b1 / 1024 + ·)

/-- A group ends (R53, R189, R197): its wave slots, its slot and its granules return, the quota's use falls, and its grid
completes when it was the last of a grid whose groups are all placed. -/
def State.endGroup (s : State) (b gs : Nat) : State :=
  match s.group? b gs with
  | none => s
  | some g =>
    let ws := g.waves.filterMap fun k => s.wave? b k
    let regs := ws.flatMap (·.granules)
    let s := s.modBench b fun x =>
      let x := x.setGranules (regs ++ g.granules) (granuleWord 0 0 g.part 0)
      { x with
        waves := g.waves.foldl (fun t k => t.erase k) x.waves,
        groups := x.groups.erase gs,
        copies := x.copies.map fun c =>
          if c.ctx = g.ctx && g.waves.contains c.slot then { c with gone := true } else c,
        parts := x.parts.upd g.part {} fun p =>
          { p with wuse := p.wuse - g.nwaves, guse := p.guse - 1, gearly := p.gearly - (if g.early then 1 else 0),
                   ruse := p.ruse - regs.length, suse := p.suse - g.granules.length } }
    match g.origin with
    | .mesh pn _ => s.modPass g.ctx pn fun p => { p with meshLive := p.meshLive - 1 }
    | .grid q num =>
      let s := s.modLaunch q num fun l => { l with live := l.live - 1 }
      match (s.queue q).launches.find? fun l => l.num == num with
      | some l => if l.live = 0 && l.placed = gridGroups l.record then (s.completeGrid q num).settleEarly else s
      | none => s

/-- A wave that holds no entry has ended (R27, R150): Release(DEVICE); its group ends with its last wave. -/
def State.endWave (s : State) (b slot : Nat) : State :=
  match s.wave? b slot with
  | none => s
  | some w =>
    if w.frags != [] then s
    else
      let s := s.release b 5
      match s.group? b w.group with
      | none => s
      | some g =>
        if g.waves.all fun k => (s.wave? b k).all fun x => x.frags == [] then s.endGroup b w.group else s

end Sys2Proof.Machine
end

