-- ==== Sys2Proof/Machine/CtxReset.lean ====
section
/-! DEFINITION. Discarding launches (R193) and the reset of a context (R222). -/

namespace Sys2Proof.Machine

open Sys2Proof

/-- A record of the work distributor (R208). -/
def State.distRecord (s : State) (ctx q num cause va access : Nat) : State :=
  (s.noteCause cause).report 0
    { cause := Cause.shown cause, unit := 6, ring := q, bench := 0, ctx := ctx, va := w64 va, timeline := w64 num,
      access := access }

/-! ## Launches that are skipped or discarded -/

/-- How far a queue's launches have started without a gap (R188): a launch that the queue no longer holds was skipped,
discarded or has completed. -/
def Queue.startedTo (k : Queue) : Nat → Nat → Nat
  | 0, n => n
  | fuel + 1, n =>
    if n < k.acc && k.launches.all fun l => l.num != n + 1 || l.started then k.startedTo fuel (n + 1) else n

/-- STA passes the launches that have started (R188, R189). -/
def Queue.advanceSta (k : Queue) : Queue := { k with sta := k.startedTo (k.acc - k.sta) k.sta }

/-- A launch is skipped or discarded (R193): it places no group; STA and its grid's completion advance. -/
def State.skipLaunch (s : State) (q num : Nat) : State :=
  ((s.completeGrid q num).modQueue q Queue.advanceSta).settleEarly

/-- A launch is discarded (R193, R205). The groups that it has placed run on, and its grid completes with the last. -/
def State.dropLaunch (s : State) (q num : Nat) : State :=
  match (s.queue q).launches.find? fun l => l.num == num with
  | none => s
  | some l =>
    if l.live = 0 then s.skipLaunch q num
    else (s.modLaunch q num fun l => { l with placed := gridGroups l.record, started := true }).modQueue q Queue.advanceSta

/-- A launch names, by a dependence not met, a ring of some or a grid of some (R193). -/
def State.names (s : State) (ring : Nat → Nat → Bool) (grids : List (Nat × Nat)) (l : Launch) : Bool :=
  (List.range 4).any fun i =>
    let v := depVal l.record i
    let t := Timeline.ofSel (depSel l.record i)
    !tlMet (s.tl t) v && match t with
      | .ring b k => ring b k
      | .queue q => grids.any fun g => g.1 == q && tlMet v g.2
      | _ => false

/-- The grids that are discarded with some rings and grids: with each, the launches not yet started that depend on it. -/
def State.orphans (s : State) (ring : Nat → Nat → Bool) : Nat → List (Nat × Nat) → List (Nat × Nat)
  | 0, gs => gs
  | fuel + 1, gs =>
    let new := s.dev.queues.flatMap fun p =>
      (p.2.launches.filter fun l => !l.started && !gs.contains (p.1, l.num) && s.names ring gs l).map fun l => (p.1, l.num)
    if new = [] then gs else s.orphans ring fuel (gs ++ new)

/-- Launches that are lost of themselves, and those that depend on them or on some rings (R193, R205): the latter have an
ABORTED record in the fault ring of their context. -/
def State.discard (s : State) (ring : Nat → Nat → Bool) (lost : List (Nat × Nat)) : State :=
  let n := (s.dev.queues.map fun p => p.2.launches.length).foldl (· + ·) 0
  let all := s.orphans ring n lost
  all.foldl (fun t g =>
    match (s.queue g.1).launches.find? fun l => l.num == g.2 with
    | none => t
    | some l =>
      let t := if !l.started && s.names ring all l then
        t.distRecord (s.queue g.1).ctx g.1 g.2 Cause.aborted 0 noAccess else t
      if lost.contains g then t.skipLaunch g.1 g.2 else t.dropLaunch g.1 g.2) s

/-! ## Waits that are aborted -/

/-- The selectors that name a timeline of a context: of a ring bound to it, or of a queue that holds it. -/
def State.ofCtx (s : State) (ctx sel : Nat) : Bool :=
  match Timeline.ofSel sel with
  | .ring b k => (s.ring b k).bound && (s.ring b k).ctx == ctx
  | .queue q => (s.queue q).ctx == ctx && q < 64
  | _ => false

/-- A fragment of a context that is not `keep` gets ABORTED (R38). -/
def State.abortFrag (s : State) (b slot e : Nat) (keep : Option Nat) : State :=
  match s.wave? b slot with
  | none => s
  | some w =>
    match w.frags.get? e, s.group? b w.group with
    | some f, some g =>
      if some g.ctx = keep then s
      else (s.semWithdraw b (.frag slot e)).waveFault b slot e g f (raiseOf Cause.aborted)
    | _, _ => s

/-- A fragment of a saved context gets ABORTED (R38, R201): it stays saved, parked in the wait table. -/
def State.abortSaved (s : State) (b ctx slot e : Nat) : State :=
  match ((s.bench b).ctx ctx).waves.get? slot |>.bind fun w => w.frags.get? e with
  | none => s
  | some f =>
    let (token, s) := s.park b ctx Cause.aborted 0 [.frag ctx slot e]
    let s := s.modCtxBench b ctx fun c => { c with waves := c.waves.mapVal fun k w => if k = slot then
      { w with frags := w.frags.mapVal fun i f => if i = e then { f with wait := some (.fault Cause.aborted) } else f } else w }
    s.report b
      { cause := Cause.aborted, unit := 0, ring := slot, bench := b, ctx := ctx, pc := f.pc, timeline := w64 e,
        token := w32 token, access := noAccess }

/-- Fragments and control cores that wait on a timeline that is reset or unbound, at a value that it has not reached, get
ABORTED (R38, R152, R409, R442); `keep` is the context whose own fragments end with it. -/
def State.abortOn (s : State) (on : Nat → Bool) (keep : Option Nat) : State :=
  let lost (f : Frag) : Bool := match f.wait with
    | some (.timeline sel v _) => on sel && !tlMet (s.tl (.ofSel sel)) v
    | _ => false
  let waits (ws : Tbl Wave) : List (Nat × Nat) := ws.flatMap fun w => (w.2.frags.filter fun f => lost f.2).map fun f => (w.1, f.1)
  let hit := s.benches.flatMap fun p => (waits p.2.waves).map fun f => (p.1, f)
  let away := s.benches.flatMap fun p => (p.2.ctxs.filter fun c => some c.1 != keep).flatMap fun c =>
    (waits c.2.waves).map fun f => (p.1, c.1, f)
  let wakeHart (h : Hart) : Hart :=
    match h.blocked with
    | some (.timeline sel v _) => if on sel && s.tl (.ofSel sel) < v then { h with aborted := true } else h
    | _ => h
  let s' := hit.foldl (fun s x => s.abortFrag x.1 x.2.1 x.2.2 keep) s
  let s' := away.foldl (fun s x => s.abortSaved x.1 x.2.1 x.2.2.1 x.2.2.2) s'
  { s' with benches := s'.benches.mapVal fun _ b => { b with gaffer := wakeHart b.gaffer },
            hosts := s'.hosts.mapVal fun _ h => wakeHart h }

/-- The physical counters that belong to a context on a bench (DESIGN CHOICE, log entry 93): those that a written entry of
its map names, and those that SIG of its rings' commands not complete names. -/
def Bench.semsOf (x : Bench) (ctx : Nat) : List Nat :=
  ((x.ctx ctx).smap.map (·.2)) ++
    (x.rings.filter fun p => p.2.bound && p.2.ctx == ctx).flatMap fun p => p.2.pushed.filterMap fun c =>
      let sig := bitsOf c.2.1.toNat 55 48
      if sig = 0xFF then none else some (x.physical ctx sig)

/-- The waiters of other contexts on the semaphores of a context that is reset get ABORTED (R38, R206, R400): a fragment
parks, the ring of a waiting head or of a pass halts. A control core belongs to no context and waits on. -/
def State.abortSems (s : State) (ctx : Nat) : State :=
  let hit := s.benches.flatMap fun p =>
    let ks := p.2.semsOf ctx
    (p.2.semWaits.filter fun w => ks.contains w.1).map fun w => (p.1, w.2)
  hit.foldl (fun s x =>
    match x.2 with
    | .frag slot e => s.abortFrag x.1 slot e (some ctx)
    | .ring k =>
      let r := s.ring x.1 k
      if r.ctx = ctx then s else (s.semWithdraw x.1 (.ring k)).haltRing x.1 k (r.rp + 1) (raiseOf Cause.aborted)
    | .pass c pn =>
      if c = ctx then s else (s.semWithdraw x.1 (.pass c pn)).passFault c pn (raiseOf Cause.aborted)
    | .gaffer => s) s

/-- The waiters of other contexts on the timelines and semaphores of a context that is reset (R222). -/
def State.abortWaiters (s : State) (ctx : Nat) : State := (s.abortOn (s.ofCtx ctx) (some ctx)).abortSems ctx

/-- What the reset of a context does to one bench (R222). -/
def Bench.resetCtx (b : Bench) (ctx : Nat) : Bench :=
  let gone := (b.groups.filter fun p => p.2.ctx == ctx).map (·.1)
  let goneWaves := (b.waves.filter fun p => gone.contains p.2.group).map (·.1)
  let isGone (p : Parker) : Bool := match p with
    | .frag c _ _ => c == ctx
    | .wave c _ => c == ctx
    | .copy id => b.copies.any fun c => c.id == id && c.ctx == ctx
  let saved := b.ctx ctx
  let freed := (b.groups.filter fun p => p.2.ctx == ctx).flatMap fun p => p.2.granules
  let regs := (b.waves.filter fun p => goneWaves.contains p.1).flatMap fun p => p.2.granules
  let free (t : Tbl (BitVec 16)) (g : Nat) : Tbl (BitVec 16) :=
    t.set g (granuleWord 0 0 (bitsOf (t.get g 4).toNat 10 8) 0)
  let drop (parts : Tbl Part) (gs : Tbl Group) (ws : Tbl Wave) : Tbl Part := gs.foldl (fun t p =>
    let mine := ws.filter fun w => p.2.waves.contains w.1
    t.upd p.2.part {} fun y =>
      { y with wuse := y.wuse - p.2.nwaves, guse := y.guse - 1, gearly := y.gearly - (if p.2.early then 1 else 0),
               ruse := y.ruse - (mine.flatMap fun w => w.2.granules).length,
               suse := y.suse - p.2.granules.length }) parts
  let parts := drop b.parts (b.groups.filter fun p => p.2.ctx == ctx) b.waves
  let parts := drop parts saved.groups saved.waves
  let mine (k : Ring) : Bool := k.bound && k.ctx == ctx
  let entry (w : WaitEntry) : WaitEntry :=
    let ps := w.parkers.filter fun p => !isGone p
    if w.key.isSome && ps = [] then { w with key := none, parkers := [] } else { w with parkers := ps }
  { b with
    waves := b.waves.filter fun p => !goneWaves.contains p.1,
    groups := b.groups.filter fun p => p.2.ctx != ctx,
    regionMap := (freed ++ regs).foldl free b.regionMap,
    lines := b.lines,
    parts := parts,
    rings := b.rings.mapVal fun _ k => if mine k then
      { k with state := .aborted, active := [], done := [], pushed := [], fin := none, armed := false, begun := false, head := none } else k,
    csr := if b.rings.any fun p => mine p.2 then { b.csr with hlt := true } else b.csr,
    copies := b.copies.filter fun c => c.ctx != ctx,
    semWaits := b.semWaits.filter fun p => match p.2 with
      | .frag slot _ => !goneWaves.contains slot
      | .ring k => !mine (b.ring k)
      | .gaffer => true
      | .pass c _ => c != ctx,
    waitTable := b.waitTable.mapVal fun _ w => entry w,
    ctxs := if b.ctxs = [] then [] else b.ctxs.upd ctx {} fun c => { smap := c.smap } }

/-- The reset of a context (R222): on every bench, its queues' launches, its passes, what it holds at the gates and what
it waits for from other packages; then the waiters of others. RSTBUSY is set. The context's own CWAITs end with its waves,
without records (R222), though R181 gives the waiters of a batch ABORTED (DESIGN CHOICE, log entry 107). -/
def State.resetCtx (s : State) (ctx : Nat) : State :=
  let s := s.modCtxBlock ctx fun c => { c with rstbusy := true }
  let mine := s.dev.queues.filter fun p => p.2.ctx == ctx
  let lost := mine.flatMap fun p => p.2.launches.map fun l => (p.1, l.num)
  let s := (s.abortWaiters ctx).discard (fun b k => (s.ring b k).bound && (s.ring b k).ctx == ctx) lost
  let owns (a : Agent) : Bool := match a with
    | .frag b slot _ => match s.wave? b slot with
        | some w => (s.group? b w.group).any fun g => g.ctx == ctx
        | none => false
    | .ring b k _ => (s.ring b k).ctx == ctx
    | .copy b id => (s.bench b).copies.any fun c => c.id == id && c.ctx == ctx
    | _ => false
  let s := s.modFabric fun f => { f with remotes := f.remotes.filter fun r => !owns r.who }
  { s with
    dies := s.dies.mapVal fun _ d => { d with arb := { d.arb with held := d.arb.held.filter fun h => !owns h.who } },
    passes := s.passes.filter fun p => p.2.ctx != ctx,
    benches := s.benches.mapVal fun _ b => b.resetCtx ctx }

/-- The reset completes (R222). -/
def State.resetCtxDone (s : State) (ctx : Nat) : State := s.modCtxBlock ctx fun c => { c with rstbusy := false }

/-- A write of a context's device block (R209). -/
def State.writeCtxBlock (s : State) (n w : Nat) (v : W64) : State :=
  let c := s.ctxBlock n
  match w with
  | 2 =>
    let s := s.modCtxBlock n fun c => { c with ie := v.getLsbD 1, ntgt := bitsOf v.toNat 23 16 }
    if v.getLsbD 2 && !c.rstbusy then s.resetCtx n else s
  | 3 => if v.toNat % 8 = 0 then s.modCtxBlock n fun c => { c with ulivec := v } else s
  | 4 => s.modCtxBlock n fun c => { c with ulistk := w64 (v.toNat / 256 * 256) }
  | _ => s

end Sys2Proof.Machine
end

