-- ==== Sys2Proof/Machine/DevOps.lean ====
section
/-! DEFINITION. What a write of a device register with an effect of its own does: format ranges (R118, R123), shootdowns
(R132), the fault-ring blocks (R209, R211), the latch (R217), arbitration (R159, R162), launch queues (R188, R290), the
context table (R185), partitions (R197), package time (R275), composite groups (R277), heads (R284), attestation (R288),
ownership semaphores (R289), features (R290), cell power (R291) and the power limit (R292). -/

namespace Sys2Proof.Machine

open Sys2Proof

/-! ## Format ranges -/

/-- Whether setting V is refused for a range's fields (R118). A view window lies in the local map (R106), so its BASE names
this package. -/
def State.rangeRefused (s : State) (n : Nat) (r : Range) : Bool :=
  r.size == 0
    || (if r.coded then
          r.scb % 8 != 0 || r.pool % 256 != 0 || r.fbm % 8 != 0
            || r.base / 2 ^ 44 != s.dev.fabric.pkgid
            || r.start < 0x40000000000 || 0x60000000000 < r.start + 4096 * r.size
            || s.dev.ranges.any (fun p => p.1 != n && p.2.v && p.2.coded
                && overlaps r.base (4096 * r.size) p.2.base (4096 * p.2.size))
            || !([3, 4, 6].contains r.fmt)
        else r.fmt == 7)

/-- The free segments below POOLSZ by the bitmap (R118). -/
def State.countFree (s : State) (r : Range) : Nat :=
  ((List.range r.poolsz).filter fun i => !s.segUsed r i).length

/-- The bits of a range block that are stored, by word (R117). -/
def rangeMask (w : Nat) : Nat :=
  match w with
  | 0 => 2 ^ 56 - 2 ^ 12 + 0x3F
  | 1 => 2 ^ 64 - 2 ^ 32
  | 2 => 2 ^ 64 - 1
  | 3 => 2 ^ 56 - 1
  | 4 => 2 ^ 56 - 1
  | 5 => 2 ^ 32 - 1
  | 6 => 2 ^ 56 - 1
  | _ => 0

/-- A range's fields with word `w` written (R117): RSB and SRS of an exponent-coded range are ignored, so they read 0 and
a write of them has no effect (R451). -/
def Range.put (r : Range) (w : Nat) (v : W64) : Range :=
  if w = 2 && r.coded then r
  else { r with word := BitVec.ofNat 512 (setBits r.word.toNat (64 * w + 63) (64 * w) (v.toNat &&& rangeMask w)) }

/-- Retirement completes (R118): every view line of the range is written back and invalidated, with the poison of those that
did not decode (R121), then BUSY clears. While a write-back waits for pool space it does not. -/
def State.retireRange (s : State) (n : Nat) : State :=
  if !(s.range n).busy then s else
  let r := (s.range n).live
  let mine (k : Nat) : Bool := r.start ≤ 64 * k && 64 * k < r.start + 4096 * r.size
  let blocks := ((s.viewDirty.filter mine).map fun k => (64 * k - r.start) / 4096).eraseDups
  let s := blocks.foldl (fun s i => (s.writeBackBlock n i).1) s
  if s.viewDirty.any mine then s
  else
    let s := { s with viewHeld := s.viewHeld.filter fun k => !mine k,
                      view := s.view.filter fun c => !mine (c.1 / 64),
                      poisoned := s.poisoned.filter fun p => !mine p.1,
                      altered := s.altered.filter (· != n) }
    s.modRange n fun r => { r with busy := false, waiting := [] }

/-- The pool of a range grows to `size` segments (R123): those added are free, and the controller clears their bits. While the
range retires its controller works by the fields it was valid with (R118), which grow too. -/
def State.growPool (s : State) (n size : Nat) : State :=
  let r := (s.range n).live
  let added := size - r.poolsz
  (s.setSegs r r.poolsz added false).modRange n fun r =>
    { r with free := r.free + added,
             old := if r.busy then BitVec.ofNat 512 (setBits r.old.toNat 351 320 size) else r.old }

/-- A write of word `w` of a range block (R117, R118, R123). A range set valid while BUSY first retires as far as its pool
has room (DESIGN CHOICE, log entry 91). -/
def State.writeRange (s : State) (n w : Nat) (v : W64) : State :=
  let r := s.range n
  let new := r.put w v
  let refuse := s.modRange n fun r => { r with err := true }
  if r.v then
    if w = 0 && !bitOf v.toNat 0 then
      -- clearing V: a coded range retires under the fields it had, with BUSY set until its lines are written back
      if r.coded then s.modRange n fun _ => { new with err := false, busy := true, old := r.word }
      else s.modRange n fun _ => { new with err := false }
    else if w = 5 && r.poolsz < v.toNat % 2 ^ 32 then
      (if r.coded then s.growPool n (v.toNat % 2 ^ 32) else s).modRange n fun r => { r with word := new.word, err := false }
    else refuse
  else if new.v then
    if s.rangeRefused n new then refuse
    else
      let s := s.retireRange n
      let free := if new.coded then s.countFree new else 0
      { s with altered := s.altered.filter (· != n) }.modRange n fun r =>
        { r with word := new.word, free := free, err := false, rotor := 0 }
  else if w = 5 && r.busy && r.live.poolsz < v.toNat % 2 ^ 32 then
    (s.growPool n (v.toNat % 2 ^ 32)).modRange n fun r => { r with word := new.word, err := false }
  else s.modRange n fun _ => { new with err := false }

/-! ## Shootdown -/

/-- Whether a page meets a shootdown's pages (R131): the run of pages [vpn, vpn + n) of an address space. NPG of 40 to 63,
which R131 does not name, stands for 2^NPG pages as the others do (DESIGN CHOICE, log entry 107). -/
def ShootRange.hits (k : ShootRange) (asid vpn n : Nat) : Bool :=
  (k.allAsid || k.asid == asid) && (k.allVa || overlaps vpn n (k.va.toNat % 2 ^ 57 / 4096) (2 ^ k.npg))

/-- The pages that a shootdown block's fields name (R131). -/
def Shoot.names (k : Shoot) : ShootRange :=
  { va := k.va, asid := k.asid, allAsid := k.allAsid, allVa := k.allVa, npg := k.npg }

/-- Whether a page meets the pages that a shootdown block's fields name (R131). -/
def Shoot.hits (k : Shoot) (asid vpn n : Nat) : Bool := k.names.hits asid vpn n

/-- A command whose transfer is under way: begun, standing at no fault, of a ring that works; in a timed ring until its
writes are performed (R16, R132). -/
def State.transfers (s : State) (b slot num : Nat) : Bool :=
  let r := s.ring b slot
  (r.state == .running || r.state == .halted) && !(s.bench b).ringStops r
    && r.active.any fun a => a.num == num && a.begun && !a.halted && (!a.worked || r.timed)

/-- The copy and fabric commands of the package whose transfers are under way (R16). -/
def State.transferring (s : State) : List (Nat × Nat × Nat) :=
  s.benches.flatMap fun p => p.2.rings.flatMap fun k =>
    if k.2.eng = .copy || k.2.eng = .fabric then
      (k.2.active.filter fun a => s.transfers p.1 k.1 a.num).map fun a => (p.1, k.1, a.num)
    else []

/-- The holder of the translations that a ring's transfers use (R129, R130). -/
def State.ringUnit (s : State) (b slot : Nat) : TlbUnit :=
  if (s.ring b slot).eng = .fabric then .fabric (dieOf b) else .queue b slot

/-- The RISC-V TLBs of gaffers and host cores, which no shootdown touches (R129). -/
def TlbUnit.own (u : TlbUnit) : Bool :=
  match u with
  | .gaffer _ => true
  | .host _ => true
  | _ => false

/-- GO (R131, R132): DONE clears, and the translation registers whose page matches lose V, those of saved groups too. What
the shootdown waits for is noted: transfers under way, requests to other packages without a response, atomics at an
order gate, and the frames of the cached translations, which an access may still use. The pages that GO named are those of
the shootdown whatever is written to the block before DONE. Cached translations stay until it completes, those of a
transfer under way for its use alone: before DONE an access may use the old or the new translation. -/
def State.shootGo (s : State) (k : Nat) : State :=
  let d := s.dev.shoots.get k {}
  let cmds := s.transferring
  let units := cmds.map fun c => s.ringUnit c.1 c.2.1
  let d' : Shoot :=
    { d with done := false, cmds := cmds, taken := d.names,
             frames := (s.tlbs.filter fun p => !p.1.own && d.hits p.2.asid p.2.vpn p.2.pages).map fun p =>
               ((ptePpn p.2.pte.toNat / p.2.pages * p.2.pages) * 4096, p.2.pages * 4096),
             tags := (s.dev.fabric.remotes.filter fun r => r.resp.isNone).map (·.req.tag),
             gates := (List.range 2).flatMap fun die => (s.die die).arb.held }
  let s := s.modDev fun x => { x with shoots := x.shoots.set k d' }
  let clear (g : Group) : Group :=
    { g with trans := g.trans.mapVal fun n t =>
        let p := g.transPages.get n (t.toNat % 2 ^ 57 / 4096, 1)
        if d.hits (s.desc g.ctx).asid p.1 p.2 then t &&& ~~~(1#192 <<< 120) else t }
  { s with
    benches := s.benches.mapVal fun _ b =>
      { b with groups := b.groups.mapVal fun _ g => clear g,
               ctxs := b.ctxs.mapVal fun _ c => { c with groups := c.groups.mapVal fun _ g => clear g } },
    tlbs := s.tlbs.map fun p =>
      if units.contains p.1 && d.hits p.2.asid p.2.vpn p.2.pages then (p.1, { p.2 with kept := true }) else p }

/-- A write of word 1 of a shootdown block sets its fields and may start it; while DONE = 0 a GO is ignored and ERR set. -/
def State.writeShoot (s : State) (k w : Nat) (v : W64) : State :=
  let d := s.dev.shoots.get k {}
  let put (d : Shoot) : State := s.modDev fun x => { x with shoots := x.shoots.set k d }
  match w with
  | 0 => put { d with va := w64 (v.toNat / 4096 * 4096) }
  | 1 =>
    if v.getLsbD 63 && !d.done then put { d with err := true }
    else
      let s := put { d with asid := bitsOf v.toNat 15 0, allAsid := v.getLsbD 16, allVa := v.getLsbD 17,
                            npg := bitsOf v.toNat 23 18 }
      if v.getLsbD 63 then s.shootGo k else s
  | 2 => if v.getLsbD 1 then put { d with err := false } else s
  | _ => s

/-- An address lies in a frame whose translation a shootdown ends. -/
def Shoot.inFrames (d : Shoot) (pa : Nat) : Bool := d.frames.any fun f => f.1 ≤ pa % 2 ^ 56 && pa % 2 ^ 56 < f.1 + f.2

/-- What a shootdown waits for is over (R16, R132): what GO found under way, and every access to a frame of the old
translations that has begun since: a request to another package, an atomic at an order gate, a lane of an ATOM that waits
for the lanes before it. -/
def State.shootClear (s : State) (d : Shoot) : Bool :=
  !(d.cmds.any fun c => s.transfers c.1 c.2.1 c.2.2)
    && !(s.dev.fabric.remotes.any fun r => r.resp.isNone &&
      (d.tags.contains r.req.tag || d.inFrames (r.req.dst * 2 ^ 44 + r.req.addr)))
    && !((List.range 2).any fun die => (s.die die).arb.held.any fun h => d.gates.contains h || d.inFrames h.pa)
    && !(d.frames != [] && s.benches.any fun p => p.2.waves.any fun w => w.2.frags.any fun f =>
      f.2.codes.any fun c => 128 ≤ c.1 && c.1 < 160 && d.inFrames c.2)

/-- A shootdown completes (R132) once the accesses and transfers that it found under way are over: every matching cached
translation is invalid, and DONE is set. -/
def State.shootDone (s : State) (k : Nat) : State :=
  let d := s.dev.shoots.get k {}
  if d.done || !s.shootClear d then s
  else
    let s := { s with tlbs := s.tlbs.filter fun p => p.1.own || !d.taken.hits p.2.asid p.2.vpn p.2.pages }
    s.modDev fun x =>
      { x with shoots := x.shoots.set k { d with done := true, cmds := [], tags := [], gates := [], taken := {}, frames := [] } }

/-! ## Fault rings and the latch -/

/-- Records that wait for room in a context's fault ring are written as far as there is room (R211). -/
def State.drainRecords (s : State) (ctx : Nat) : State :=
  let rec go : Nat → State → State
    | 0, s => s
    | k + 1, s =>
      let c := s.ctxBlock ctx
      match c.waiting with
      | [] => s
      | (b, r) :: rest =>
        if c.widx - c.ridx = 2 ^ (s.desc ctx).frl2 then s
        else if (s.bench b).latch.record.isSome then
          let s := s.modCtxBlock ctx fun c => { c with waiting := rest }
          go k (s.modBench b fun x => { x with latch := { x.latch with pending := x.latch.pending ++ [r] } })
        else
          let s := s.modCtxBlock ctx fun c => { c with waiting := [] }
          let s := s.writeRecord b r
          go k (s.modCtxBlock ctx fun c => { c with waiting := c.waiting ++ rest })
  go (s.ctxBlock ctx).waiting.length s

/-- Records of a bench that waited for its latch are reported again (R217), each after those before it. -/
def State.reportPending (s : State) (b : Nat) : State :=
  let rs := (s.bench b).latch.pending
  let s := s.modBench b fun x => { x with latch := { x.latch with pending := [] } }
  rs.foldl (fun s r => s.report b r) s

/-- REL (R217): the latch empties and the pending records are reported. Its message that still waits for a full mailbox goes
with it (DESIGN CHOICE, log entry 107). -/
def State.releaseLatch (s : State) (b : Nat) : State :=
  (s.modBench b fun x => { x with latch := { x.latch with record := none, message := false } }).reportPending b

/-! ## Scheduling registers -/

/-- A write of the context table register (R185): ignored while any queue is valid. -/
def State.writeCtxTable (s : State) (v : W64) : State :=
  if s.dev.queues.any fun p => p.2.v then s
  else
    let l := bitsOf v.toNat 59 56
    s.modDev fun d => { d with ctxBase := BitVec.ofNat 50 (bitsOf v.toNat 55 6), ctxL2n := if l ≤ 12 then l else d.ctxL2n }

/-- A write of a queue's first word (R188, R290): before DONE a write that would set V is ignored whole; CTX is kept while
V = 1. -/
def State.writeQueue (s : State) (q : Nat) (v : W64) : State :=
  if v.getLsbD 19 && !s.dev.features.done then s
  else s.modQueue q fun k =>
    { k with ctx := if k.v then k.ctx else bitsOf v.toNat 15 0, pri := bitsOf v.toNat 18 16, v := v.getLsbD 19 }

/-- A write of the first word of a partition block (R197): ignored whole when GRES > GQ or the bench's partitions would
exceed its slots and granules. -/
def State.writePart (s : State) (b p : Nat) (v : W64) : State :=
  let n := v.toNat
  let wq := bitsOf n 5 0
  let gq := bitsOf n 11 6
  let gres := bitsOf n 17 12
  let rq := bitsOf n 36 24
  let sq := bitsOf n 49 37
  let others := ((List.range 8).filter (· != p)).map fun k => (s.bench b).parts.get k {}
  let sum (f : Part → Nat) : Nat := (others.map f).foldl (· + ·) 0
  if gq < gres || 32 < wq + sum (·.wq) || 32 < gq + sum (·.gq) || 4096 < rq + sq + sum (fun x => x.rq + x.sq) then s
  else s.modBench b fun x => { x with parts := x.parts.upd p {} fun y =>
    { y with wq := wq, gq := gq, gres := gres, rq := rq, sq := sq } }

/-! ## Package time, composites and heads -/

/-- A timed ring is ARMED or running somewhere (R275). -/
def State.timedBusy (s : State) : Bool :=
  s.benches.any fun p => p.2.rings.any fun k => k.2.timed && k.2.state == .running

/-- A write of PTC (R275): accepted with ROLE = 2, no timed ring ARMED or running, and a value not below PTC. -/
def State.writePtc (s : State) (v : W64) : State :=
  let p := s.dev.ptc
  if p.role = 2 && !s.timedBusy && p.ptc ≤ v.toNat then s.modDev fun d => { d with ptc := { p with ptc := v.toNat } }
  else s

/-- The bits of a composite-group block that are stored, by word (R277). -/
def compositeMask (w : Nat) : Nat :=
  match w with
  | 0 => 2 ^ 64 - 1
  | 1 => 2 ^ 59 - 1
  | 2 => 2 ^ 64 - 1
  | 3 => 2 ^ 64 - 1
  | 4 => 2 ^ 21 - 1 + (2 ^ 64 - 2 ^ 32)
  | 5 => 2 ^ 56 - 1
  | 7 => (2 ^ 12 - 1) * 2 ^ 32
  | _ => 0

/-- A write of a composite-group descriptor (R277). -/
def State.writeComposite (s : State) (g w : Nat) (v : W64) : State :=
  let c := s.dev.composites.get g {}
  let m := compositeMask w
  let old := bitsIn c.word (64 * w + 63) (64 * w)
  let new := BitVec.ofNat 512 (setBits c.word.toNat (64 * w + 63) (64 * w) (old - (old &&& m) + (v.toNat &&& m)))
  let put (c : Composite) : State := s.modDev fun d => { d with composites := d.composites.set g c }
  if c.word.getLsbD 0 then
    if w = 0 && !v.getLsbD 0 then put { word := new, held := [], emitted := [] } else s
  else if w = 0 && v.getLsbD 0 then
    let bad := bitsIn new 9 4 < bitsIn new 15 10
      || (bitOf new.toNat 3 && (bitsIn new 375 320 % 4096 != 0 || bitsIn new 119 64 % 256 != 0 || 4 < bitsIn new 122 120))
      || bitsIn new 276 256 == 0
    if bad then s else put { word := new, held := [], emitted := [] }
  else put { c with word := new }

/-- The bits of a head block that are stored, by word (R284). -/
def headMask (w : Nat) : Nat :=
  match w with
  | 0 => 7 + (2 ^ 64 - 2 ^ 8)
  | 1 => 2 ^ 24 - 1 + (2 ^ 64 - 2 ^ 32)
  | 2 => 2 ^ 24 - 1 + (2 ^ 64 - 2 ^ 32)
  | 3 => 2 ^ 64 - 1
  | _ => 0

/-- The fields of a head's word (R284): FBA and FBB. -/
def Head.fba (h : Head) : Nat := bitsIn h.word 87 32
/-- FBB (R284). -/
def Head.fbb (h : Head) : Nat := bitsIn h.word 151 96
/-- FLIP (R284). -/
def Head.flip (h : Head) : Nat := bitsIn h.word 223 160
/-- FPER (R284). -/
def Head.fper (h : Head) : Nat := bitsIn h.word 255 224
/-- Tiles of a head (R284). -/
def Head.tiles (h : Head) : Nat := (bitsIn h.word 19 8 + 1) * (bitsIn h.word 31 20 + 1)

/-- A flip of a head (R284): READY tiles show their other slot from the next vertical blanking; MISST, FRAME and FLIP
advance. -/
def Head.doFlip (h : Head) : Head :=
  let sel := (h.sel.filter fun t => !h.ready.contains t) ++ h.ready.filter fun t => !h.sel.contains t
  let w := h.word.toNat
  let w := setBits w 319 288 (h.tiles - h.ready.length)
  let w := setBits w 287 256 (bitsIn h.word 287 256 + 1)
  let w := if h.fper != 0 then setBits w 223 160 (h.flip + h.fper) else w
  { h with word := BitVec.ofNat 512 w, sel := sel, ready := [], flipped := h.fper == 0 }

/-- A write of a scan-out head block (R284): an EN write with too many tiles or a misaligned slot base is ignored. A value
of FLIP arms one flip, and one at or below PTC flips at once. A head that is not enabled makes no flip (DEDUCED, log
entry 52). -/
def State.writeHead (s : State) (h w : Nat) (v : W64) : State :=
  let x := s.dev.heads.get h {}
  let m := headMask w
  let old := bitsIn x.word (64 * w + 63) (64 * w)
  let new := BitVec.ofNat 512 (setBits x.word.toNat (64 * w + 63) (64 * w) (old - (old &&& m) + (v.toNat &&& m)))
  let y : Head := { x with word := new }
  let bad := w == 0 && v.getLsbD 0 && (2 ^ 18 < y.tiles || y.fba % 4096 != 0 || y.fbb % 4096 != 0)
  if bad then s
  else
    -- FLIP is bits [223:160]: the upper half of word 2 and the lower half of word 3
    let y := if w = 2 || w = 3 then { y with flipped := false } else y
    let y := if (w = 2 || w = 3) && y.word.getLsbD 0 && y.flip ≤ s.dev.ptc.ptc then y.doFlip else y
    s.modDev fun d => { d with heads := d.heads.set h y }

/-! ## Start-up, features, power -/

/-- QGO (R288): starts a quote when none is in progress. Until it is done SIG holds no valid signature: an open value. -/
def State.quoteGo (s : State) : State :=
  let (n, s) := s.fresh
  s.modDev fun d => { d with boot := { d.boot with qdone := false, sig := BitVec.ofNat 512 n } }

/-- A write of ACCEPT (R290): only offered bits are kept; bit 0 reads 1. -/
def State.writeAccept (s : State) (w : Nat) (v : W64) : State :=
  if s.dev.features.done then s
  else
    let offer := bitsIn Config.offer (64 * w + 63) (64 * w)
    s.modDev fun d =>
      { d with features := { d.features with
          accept := BitVec.ofNat 512 (setBits d.features.accept.toNat (64 * w + 63) (64 * w) (v.toNat &&& offer)) } }

/-- COMMIT (R290). -/
def State.commitFeatures (s : State) : State := s.modDev fun d => { d with features := { d.features with done := true } }

/-- The writes of both ports to one ownership semaphore in one cycle (R289). -/
def Owner.write (o : Owner) (a b : Option Nat) : Owner :=
  let claimA := a == some 1 && o.own == 0
  let claimB := b == some 2 && o.own == 0
  if claimA && claimB then
    if o.lastB then { own := 1, lastB := false } else { own := 2, lastB := true }
  else if claimA then { o with own := 1 }
  else if claimB then { o with own := 2 }
  else if a == some 0 && o.own == 1 then { o with own := 0 }
  else if b == some 0 && o.own == 2 then { o with own := 0 }
  else o

/-- A cell holds no resident wave, no bound ring, no open pass and no traversal ray (R291). A ray lives only within its
RTRACE, which is one step here. -/
def State.cellIdle (s : State) (c : Nat) : Bool :=
  (List.range 8).all (fun k =>
    let b := s.bench (8 * c + k)
    b.waves == [] && b.rings.all fun p => !p.2.bound)
  && s.passes.all fun p => !(bitOf (bitsIn p.2.record 287 256) c)

/-- A write of a cell's REQ (R291). -/
def State.writeCellReq (s : State) (c : Nat) (v : W64) : State :=
  let x := s.dev.cells.get c {}
  let put (x : CellPower) (s : State) : State := s.modDev fun d => { d with cells := d.cells.set c x }
  if v.getLsbD 0 then
    if x.state != 0 then put { x with req := true } s
    else if !s.cellIdle c then put { x with busy := true } s
    else
      -- QUIESCE: CACHE granules are written back
      let s := (List.range 8).foldl (fun s k => s.flushL1 (8 * c + k)) s
      put { req := true, state := 1, busy := false } s
  else if x.state = 0 then put { x with req := false } s
  else put { x with req := false, state := 4 } s

/-- A write of PLIM (R292): outside 900 to 2,400 it is ignored. THROT is write-one-to-clear. -/
def State.writePower (s : State) (v : W64) : State :=
  let n := bitsOf v.toNat 11 0
  s.modDev fun d => { d with power := { d.power with
    plim := if 900 ≤ n && n ≤ 2400 then n else d.power.plim,
    throt := d.power.throt && !v.getLsbD 28 } }

/-- A write of a regulator (R115): a class of 0 keeps BUDGET and LAT at 0; LAT = 3 is ignored. -/
def qosWrite (cls : Nat) (old : BitVec 64) (v : W64) : BitVec 64 :=
  if cls = 0 then w64 (v.toNat % 2 ^ 32)
  else
    let lat := bitsOf v.toNat 57 56
    w64 (v.toNat % 2 ^ 56 + (if lat = 3 then bitsIn old 57 56 else lat) * 2 ^ 56)

/-- A write of an ingress window (R268): one that would misalign BASE or SIZE for MEM is ignored. -/
def State.writeWindow (s : State) (k w : Nat) (v : W64) : State :=
  let x := s.dev.fabric.windows.get k 0
  let m := match w with
    | 0 => 0x1F + (2 ^ 40 - 2 ^ 16)
    | 1 => 2 ^ 56 - 1
    | 3 => 2 ^ 64 - 1
    | _ => 0
  let new := BitVec.ofNat 256 (setBits x.toNat (64 * w + 63) (64 * w) (v.toNat &&& m))
  if !bitOf new.toNat 1 && (bitsIn new 119 64 % 4096 != 0 || bitsIn new 255 192 % 4096 != 0) then s
  else s.modFabric fun f => { f with windows := f.windows.set k new }

end Sys2Proof.Machine
end

