-- ==== Sys2Proof/Machine/DevRegs.lean ====
section
/-! DEFINITION. Writes of the device registers (R106, R107), in 8-byte words. -/

namespace Sys2Proof.Machine

open Sys2Proof

/-- A word of Port B's message block is written; the last one sends the message (R257) to a mailbox of a cell that is ON
and has a free place. Otherwise the message is not kept. -/
def State.writePortB (s : State) (g w : Nat) (v : W64) : State :=
  let ws := ((s.dev.messages.get g []).filter fun p => p.1 != w) ++ [(w, v)]
  let s := s.modDev fun d => { d with messages := d.messages.set g ws }
  if w != 7 then s
  else
    let bytes := (List.range 8).flatMap fun i => leBytes 8 ((ws.find? fun p => p.1 == i).map (·.2.toNat) |>.getD 0)
    if s.cellOn (cellOf g) && (s.bench g).mailbox.length < 16 then
      s.modBench g fun x => { x with mailbox := x.mailbox ++ [(0x1FF, bytes)] }
    else s

/-- Bytes of a list replaced from an offset, extended with zeros. -/
def putBytes (l : List Byte) (o : Nat) (bs : List Byte) : List Byte :=
  (l.take o) ++ List.replicate (o - l.length) 0 ++ bs ++ l.drop (o + bs.length)

/-- A write of a register word under its access code (R5): read-only and reserved bits keep their values. `port` says
which control port writes: 1 Port A, 2 Port B, 0 an agent of neither (R289). -/
def State.writeReg (s : State) (port : Nat) (r : DevReg) (v : W64) : State :=
  let n := v.toNat
  match r with
  | .range k w => s.writeRange k w v
  | .qos d c => s.modDie d fun x => { x with qos := x.qos.upd c (qosReset c) fun o => qosWrite c o v }
  | .poisonMap w => s.modDev fun d => { d with poison := match w with
      | 0 => { d.poison with base := BitVec.ofNat 56 (bitsOf n 55 3 * 8) }
      | 1 => if 4 ≤ n % 32 && n % 32 ≤ 20 then { d.poison with log2n := n % 32 } else d.poison
      | 3 => { d.poison with ridx := n }
      | 4 => { d.poison with ovf := d.poison.ovf && !bitOf n 0 }
      | _ => d.poison }
  | .shoot k w => s.writeShoot k w v
  | .arb d w => s.writeArb d w v
  | .part b p w => if w = 0 then s.writePart b p v else s
  | .queue q w => if w = 0 then s.writeQueue q v else s
  | .ctxTable => s.writeCtxTable v
  | .fabric _ => s
  | .route p => s.modFabric fun f => { f with routes := f.routes.set p (BitVec.ofNat 24 n) }
  | .window k w => s.writeWindow k w v
  | .ptc w =>
    if w = 0 then s.modDev fun d => { d with ptc := { d.ptc with
      role := if n % 4 = 3 then d.ptc.role else n % 4, ports := BitVec.ofNat 24 (n / 256) } }
    else if w = 1 then s.writePtc v else s
  | .latch b w => if w = 8 && bitOf n 2 then s.releaseLatch b else s
  | .portB g w => s.writePortB g w v
  | .composite g w => s.writeComposite g w v
  | .head h w => s.writeHead h w v
  | .boot _ => s
  | .nonce w => s.modDev fun d => { d with boot := { d.boot with
      nonce := BitVec.ofNat 256 (setBits d.boot.nonce.toNat (64 * w + 63) (64 * w) n) } }
  | .quote => if bitOf n 0 && s.dev.boot.qdone then s.quoteGo else s
  | .sig _ => s
  | .owner k =>
    let a := if port = 1 then some (n % 4) else none
    let b := if port = 2 then some (n % 4) else none
    s.modDev fun d => { d with owners := d.owners.upd k {} fun o => o.write a b }
  | .recovery o =>
    if s.dev.boot.recov then
      s.modDev fun d => { d with boot := { d.boot with window := putBytes d.boot.window o (leBytes 8 n) } }
    else s
  | .feature w =>
    if w < 8 then s else if w < 16 then s.writeAccept (w - 8) v
    else if bitOf n 0 && !s.dev.features.done then s.commitFeatures else s
  | .cell c => s.writeCellReq c v
  | .power => s.writePower v
  | .ctx k w =>
    if w = 1 then
      if n ≤ (s.ctxBlock k).widx then (s.modCtxBlock k fun c => { c with ridx := n }).drainRecords k else s
    else s.writeCtxBlock k w v

/-- An 8-byte write of a device register (R107). -/
def State.devWrite (s : State) (port pa n : Nat) (v : W64) : Except Nat State :=
  if n != 8 || pa % 8 != 0 then .error Cause.align
  else
    match DevReg.ofOff (pa % 2 ^ 44 - deviceBase) with
    | some r => .ok (s.writeReg port r v)
    | none => .error Cause.perm

end Sys2Proof.Machine
end

