-- ==== Sys2Proof/Machine/Lsu.lean ====
section
/-! DEFINITION. Accesses of waves and control cores: a translated piece performed where its address lies — through the L1,
at its point, in a device register, or at another package (R107, R144, R145, R269) —, the lane addresses of R50, R56 and
R313, and the checks that precede every lane (R139, R142, R134, R212). -/

namespace Sys2Proof.Machine

open Sys2Proof

/-! ## Other packages -/

/-- The type codes of flits (R266). -/
def flitRD : Nat := 0
/-- A read response. -/
def flitRDR : Nat := 1
/-- A write acknowledgement. -/
def flitWRA : Nat := 3
/-- An atomic. -/
def flitAT : Nat := 4
/-- An atomic response. -/
def flitATR : Nat := 5
/-- A signal. -/
def flitSIG : Nat := 6
/-- A signal acknowledgement. -/
def flitSIGA : Nat := 7
/-- A composite piece. -/
def flitCOMP : Nat := 8
/-- A package-time message. -/
def flitSYNC : Nat := 9

/-- A request flit. -/
def requestFlit (type vc dst src len aop asz addr : Nat) (payload : List Byte) : Flit :=
  { type := type, vc := vc, dst := dst, src := src, tag := 0, len := len, sts := 0, aop := aop, asz := asz,
    addr := addr % 2 ^ 44, payload := payload }

/-- A request to another package is sent (R266, R269) under a fresh tag. -/
def State.ask (s : State) (who : Agent) (key : Nat) (f : Flit) : State :=
  s.modFabric fun x =>
    let f := { f with tag := x.nextTag % 2 ^ 16 }
    { x with nextTag := x.nextTag + 1, outbox := x.outbox ++ [f], remotes := x.remotes ++ [⟨who, key, f, none⟩] }

/-- The request of an agent under a key. -/
def State.asked (s : State) (who : Agent) (key : Nat) : Option Remote :=
  s.dev.fabric.remotes.find? fun r => r.who == who && r.key == key

/-- An agent has a request with no response. -/
def State.remoteOpen (s : State) (who : Agent) : Bool :=
  s.dev.fabric.remotes.any fun r => r.who == who && r.resp.isNone

/-- The requests of an agent are over. -/
def State.dropRemotes (s : State) (who : Agent) : State :=
  if s.dev.fabric.remotes = [] then s
  else s.modFabric fun x => { x with remotes := x.remotes.filter fun r => r.who != who }

/-- The cause of a response status (R266, R269); 100 stands for no response within 1 ms. -/
def stsCause (sts : Nat) : Nat :=
  match sts with
  | 1 => Cause.perm
  | 2 => Cause.poison
  | 3 => Cause.align
  | 4 => Cause.semOvf
  | _ => Cause.fabTimeout

/-- A translated run of bytes that lies in one line: its address, its physical address, its length, its ordering kind,
PBMT = NC, and its permissions. -/
structure Piece where
  va : Nat
  pa : Nat
  n : Nat
  ord : Nat := 0
  nc : Bool := false
  rd : Bool := true
  wr : Bool := true
  deriving DecidableEq, Repr

/-- The accesses of one instruction as they are made: the state so far, whose accesses they are, their die, the requests
to other packages not yet sent, how many such accesses there have been, whether one of them waits for its response,
whether one fell on an RC or SO page (R141), and whether a later access may depend on the result of an earlier one, so that
none is asked for while one is awaited. A wave instruction performs its accesses to local SO pages once (R141): `kept` is the
state with those alone, which stays while it waits, `log` what they gave, by their place among them from 256 on, and `saved`
what those of its earlier turns gave. -/
structure Mu where
  s : State
  who : Agent
  die : Nat
  port : Nat := 0
  asks : List (Nat × Flit) := []
  keys : Nat := 0
  waits : Bool := false
  sync : Bool := false
  seq : Bool := false
  kept : Option State := none
  log : Tbl Nat := []
  saved : Tbl Nat := []
  sos : Nat := 0
  deriving DecidableEq, Repr

/-- A request to another package: its response when there is one, or `dflt` while it is awaited (R269). -/
def Mu.request (m : Mu) (pkg va : Nat) (dflt : List Byte) (f : Flit) : Except Raise (List Byte × Mu) :=
  let key := m.keys
  let m := { m with keys := key + 1 }
  if m.seq && m.waits then .ok (dflt, m) else
  match m.s.asked m.who key with
  | some r =>
    match r.resp with
    | some (0, bs) => .ok (bs, m)
    | some (sts, _) => .error { cause := stsCause sts, va := va }
    | none => .ok (dflt, { m with waits := true })
  | none =>
    match m.s.linkTo m.die pkg with
    | some c => .error { cause := c, va := va }
    | none => .ok (dflt, { m with asks := m.asks ++ [(key, { f with dst := pkg, src := m.s.dev.fabric.pkgid })], waits := true })

/-- An access to an SO page is asked for only once those before it have their responses, and those after it wait for its
own (R141, R269). -/
def Mu.after (m : Mu) (p : Piece) : Mu := if p.ord = 1 then { m with seq := true } else m

/-- An access to a local SO page (R141): performed once, and not while one before it is awaited; `act` performs it. -/
def Mu.once (m : Mu) (p : Piece) (act : State → Except Raise (List Byte × State)) : Except Raise (List Byte × Mu) :=
  let here (m : Mu) : Except Raise (List Byte × Mu) := (act m.s).map fun x => (x.1, { m with s := x.2 })
  match if p.ord = 1 then m.kept else none with
  | none => here m
  | some k =>
    let key := 256 + m.sos
    let m := { m with sos := m.sos + 1 }
    match m.saved.get? key with
    | some v => .ok (leBytes p.n v, m)
    | none =>
      if m.seq && m.waits then .ok (List.replicate p.n 0, m)
      else
        match act k with
        | .error r => .error r
        | .ok (v, k) => here { m with kept := some k, log := m.log.set key (leNat v) }

/-- A piece is read. `l1` names the bench, partition and hint of a wave's access; `strong` its marking. -/
def Mu.read (m : Mu) (l1 : Option (Nat × Nat × Nat)) (strong : Bool) (p : Piece) : Except Raise (List Byte × Mu) :=
  let m := if p.ord = 2 then m else { m with sync := true }
  match m.s.place p.pa with
  | .device =>
    m.once p fun s =>
      match s.devRead p.pa p.n with
      | .error c => .error { cause := c, va := p.va }
      | .ok (v, s) => .ok (leBytes 8 v, s)
  | .remote pkg =>
    (m.after p).request pkg p.va (List.replicate p.n 0) (requestFlit flitRD 0 0 0 p.n (if strong then 1 else 0) 0 p.pa [])
  | _ =>
    m.once p fun s =>
      let res : Except Raise (List Byte × State) := match l1 with
        | some (b, part, ch) =>
          if strong || p.ord = 1 then (s.strongL1 b p.pa p.n).pointRead m.die p.pa p.n
          else s.l1Read b part ch p.pa p.n p.nc
        | none => s.pointRead m.die p.pa p.n
      match res with
      | .ok r => .ok r
      | .error r => .error { r with va := p.va + r.va }

/-- A piece is written; `whole` are the sectors that the instruction covers whole. -/
def Mu.write (m : Mu) (l1 : Option (Nat × Nat × Nat)) (strong : Bool) (whole : List Nat) (p : Piece) (bs : List Byte) :
    Except Raise Mu :=
  let m := if p.ord = 2 then m else { m with sync := true }
  match m.s.place p.pa with
  | .device =>
    (m.once p fun s =>
      match s.devWrite m.port p.pa p.n (w64 (leNat bs)) with
      | .error c => .error { cause := c, va := p.va }
      | .ok s => .ok ([], s)).map (·.2)
  | .remote pkg =>
    ((m.after p).request pkg p.va [] (requestFlit flitWR 0 0 0 p.n (if strong then 1 else 0) 0 p.pa bs)).map (·.2)
  | _ =>
    (m.once p fun s =>
      let res : Except Raise State := match l1 with
        | some (b, part, ch) =>
          if strong || p.ord = 1 then (s.strongL1 b p.pa p.n).pointWrite m.die p.pa bs
          else s.l1Write b part ch p.pa bs p.nc whole
        | none => s.pointWrite m.die p.pa bs
      match res with
      | .ok s => .ok ([], s)
      | .error r => .error { r with va := p.va + r.va }).map (·.2)

/-- Pieces read in order, each performed at its issue: of the outcomes that R164 and R165 allow to relaxed accesses, those
that need them out of order do not occur (log entry 102). -/
def Mu.readAll (m : Mu) (l1 : Option (Nat × Nat × Nat)) (strong : Bool) : List Piece → Except Raise (List Byte × Mu)
  | [] => .ok ([], m)
  | p :: ps =>
    match m.read l1 strong p with
    | .error r => .error r
    | .ok (bs, m) =>
      match m.readAll l1 strong ps with
      | .error r => .error r
      | .ok (cs, m) => .ok (bs ++ cs, m)

/-- Bytes written to pieces in order. -/
def Mu.writeAll (m : Mu) (l1 : Option (Nat × Nat × Nat)) (strong : Bool) (whole : List Nat) :
    List Piece → List Byte → Except Raise Mu
  | [], _ => .ok m
  | p :: ps, bs =>
    match m.write l1 strong whole p (bs.take p.n) with
    | .error r => .error r
    | .ok m => m.writeAll l1 strong whole ps (bs.drop p.n)

/-- The requests of an instruction are sent. -/
def Mu.send (m : Mu) (s : State) : State := m.asks.foldl (fun s a => s.ask m.who a.1 a.2) s

/-! ## Addresses -/

/-- A run of addresses cut at the 256-byte lines: starts and lengths. -/
def cutLines (va n : Nat) : List (Nat × Nat) :=
  (linesOf va n).map fun l =>
    let a := max va (256 * l)
    (a, min (va + n) (256 * l + 256) - a)

/-- The offset just past an access that touches its wave's private region at HWM or above (R134). -/
def privGrow (d : Desc) (b slot va n : Nat) : Option Nat :=
  let size := 2 ^ d.pvsl
  let base := d.pvbase + (32 * b + slot) * size
  let hwm := 4096 * d.hwmp
  if overlaps va n (base + hwm) (size - hwm) then some (cdiv (va + n - base) 4096 * 4096) else none

/-- Pieces of a wave's access at a virtual address (R125 to R128, R134, R139, R142). -/
def State.vaPieces (s : State) (cx : Wcx) (va n : Nat) (strong : Bool) (acc : Acc) : Except Raise (List Piece × State) :=
  let va := va % 2 ^ 64
  let aligned := isMul va n
  if strong && !aligned then .error { cause := Cause.align, va := va }
  else
    let d := s.desc cx.g.ctx
    match privGrow d cx.b cx.slot va n with
    | some top => .error { cause := Cause.privGrow, va := va, aux := top }
    | none =>
      let step (a : List Piece × State) (c : Nat × Nat) : Except Raise (List Piece × State) :=
        match a.2.translateCtx [.bench cx.b] cx.b cx.g.ctx (c.1 % 2 ^ 64) acc with
        | .error e => .error { cause := e, va := c.1 % 2 ^ 64 }
        | .ok (x, s) =>
          if x.ord = 1 && !aligned then .error { cause := Cause.align, va := va }
          else .ok (a.1 ++ [{ va := c.1 % 2 ^ 64, pa := x.pa, n := c.2, ord := x.ord, nc := x.nc }], s)
      foldE step (cutLines va n) ([], s)

/-- V of a translation register (R50). -/
def trV (t : BitVec 192) : Bool := t.getLsbD 120

/-- Pieces of a wave's access at an offset of a translation register (R50). -/
def State.trPieces (s : State) (cx : Wcx) (tb off n : Nat) (strong : Bool) (acc : Acc) :
    Except Raise (List Piece × State) :=
  let t := cx.g.trans.get tb 0
  let w := t.toNat
  let va := (w % 2 ^ 64 + off) % 2 ^ 64
  if trV t && off + n ≤ bitsOf w 159 128 then
    match privGrow (s.desc cx.g.ctx) cx.b cx.slot va n with
    | some top => .error { cause := Cause.privGrow, va := va, aux := top }
    | none =>
    let aligned := isMul va n
    let ord := bitsOf w 124 123
    let ok := match acc with
      | .read => bitOf w 121
      | .write => bitOf w 122
      | _ => bitOf w 121 && bitOf w 122
    if (strong || ord == 1) && !aligned then .error { cause := Cause.align, va := va }
    else if !ok then .error { cause := Cause.perm, va := va }
    else .ok ((cutLines va n).map fun c =>
      { va := c.1, pa := bitsOf w 119 64 + off + (c.1 - va), n := c.2, ord := ord, nc := cx.g.transNc.contains tb }, s)
  else s.vaPieces cx va n strong acc

/-- Bytes of a lane access by SZ (R313). -/
def szBytes (sz : Nat) : Nat := 2 ^ sz

/-- Pieces of lane `l` of a format-M access (R313). -/
def State.lanePieces (s : State) (cx : Wcx) (f : FM) (l : Nat) (strong : Bool) (acc : Acc) :
    Except Raise (List Piece × State) :=
  let n := szBytes f.sz.toNat
  let off : Int := f.off.toInt * n
  if f.am = 1 then
    s.vaPieces cx (wrap 64 ((s.readPair cx f.va.toNat).getD l 0 + off)) n strong acc
  else s.trPieces cx f.tb.toNat (wrap 32 ((s.readV cx f.va.toNat).getD l 0 + off)) n strong acc

/-- The virtual address of lane `l` of a format-M access (R313), as its store terms name it (R163). -/
def State.laneVa (s : State) (cx : Wcx) (f : FM) (l : Nat) : Nat :=
  let n := szBytes f.sz.toNat
  let off : Int := f.off.toInt * n
  if f.am = 1 then wrap 64 ((s.readPair cx f.va.toNat).getD l 0 + off)
  else ((cx.g.trans.get f.tb.toNat 0).toNat % 2 ^ 64 + wrap 32 ((s.readV cx f.va.toNat).getD l 0 + off)) % 2 ^ 64

/-- The bench-store address of byte `a` of a group's scratch (R56): its granules in order. -/
def Group.scratchAddr (g : Group) (a : Nat) : Nat := g.granules.getD (a / 1024) 0 * 1024 + a % 1024

/-- Whether a run of bytes reaches past a group's scratch (R56). -/
def Group.past (g : Group) (a n : Nat) : Bool := g.scratch < a + n

/-- The bench-store address that a space of LDS, STS and ATOMS reaches (R56): the cause when it may not. -/
def State.spaceAddr (s : State) (cx : Wcx) (space a n : Nat) : Except Raise Nat :=
  if a % n != 0 then .error { cause := Cause.align, va := a }
  else
    match space with
    | 0 => if cx.g.past a n then .error { cause := Cause.perm, va := a } else .ok (cx.g.scratchAddr a)
    | 1 => if cx.w.regs ≤ a / 128 then .error { cause := Cause.perm, va := a }
           else .ok (cx.w.rowAddr (a / 128) + a % 128)
    | _ =>
      let x := s.bench cx.b
      if 0x400000 ≤ a || x.kind (a / 1024) != 3 || x.gpart (a / 1024) != cx.g.part then
        .error { cause := Cause.perm, va := a }
      else .ok a

/-- The address of lane `l` in its space (R371, R404). -/
def State.spaceLane (s : State) (cx : Wcx) (f : FM) (l : Nat) : Nat :=
  wrap 32 ((s.readV cx f.va.toNat).getD l 0 + f.off.toInt * szBytes f.sz.toNat)

/-! ## Lanes -/

/-- A fold over lanes that goes on past a lane's error from the state before it: the result, and the errors. -/
def laneLoop {α : Type} (f : Nat → α → Except Raise α) : List Nat → α → α × List (Nat × Raise)
  | [], a => (a, [])
  | l :: ls, a =>
    match f l a with
    | .ok a' => laneLoop f ls a'
    | .error r => let (a'', es) := laneLoop f ls a; (a'', (l, r) :: es)

/-- The cause of the lowest faulting lane, with the mask of all of them (R208). -/
def laneRaise (errs : List (Nat × Raise)) (trec access : Nat) : Option Raise :=
  match errs with
  | [] => none
  | (_, r) :: _ =>
    some { r with lanes := maskOf fun l => errs.any fun e => e.1 == l, trec := trec, access := access }

/-- Lane bytes to registers from vd (R313): one register up to 4 bytes, a pair for 8, a quad for 16. -/
def laneRes (vd : Nat) (mask : W32) (n : Nat) (vals : List Nat) : List VRes :=
  (List.range (if n ≤ 4 then 1 else n / 4)).map fun k => ⟨vd + k, mask, vals.map fun v => v / 2 ^ (32 * k) % 2 ^ 32⟩

/-- The data of lane `l` of a store from vd (R313). -/
def State.laneData (s : State) (cx : Wcx) (vd n l : Nat) : Nat :=
  (List.range (if n ≤ 4 then 1 else n / 4)).foldl (fun a k => a + (s.readV cx (vd + k)).getD l 0 * 2 ^ (32 * k)) 0 % 2 ^ (8 * n)

/-- Extension of a loaded value of R369. -/
def loadExt (sx : Bool) (n v : Nat) : Nat := if n ≤ 2 && sx then wrap 32 (sext (8 * n) v) else v

/-- The accumulator of a wave instruction. -/
def Wcx.mu (cx : Wcx) (s : State) : Mu :=
  { s := s, who := .frag cx.b cx.slot cx.e, die := dieOf cx.b, kept := some s,
    saved := cx.f.codes.filter fun p => 256 ≤ p.1 }

/-- A wave instruction waits for another package (R269): its requests are sent, and of what it did its accesses to local SO
pages stay. -/
def Mu.await (m : Mu) (cx : Wcx) (s : State) : State :=
  (m.send (m.kept.getD s)).modFrag cx.b cx.slot cx.e fun f =>
    { f with wait := some .remote, codes := m.log.foldl (fun t p => t.set p.1 p.2) f.codes }

/-- The accesses of a wave instruction are over: its requests and what its accesses to local SO pages gave are dropped. -/
def Mu.ended (m : Mu) (cx : Wcx) (s : State) : State :=
  let s := s.dropRemotes m.who
  if m.saved = [] then s
  else s.modFrag cx.b cx.slot cx.e fun f => { f with codes := f.codes.filter fun p => p.1 < 256 }

/-- What an instruction's accesses come to, once every lane was tried: it raises, waits for another package, or goes on. -/
def Mu.settle (m : Mu) (cx : Wcx) (s : State) (errs : List (Nat × Raise)) (trec access : Nat) (go : State → WRes) : WRes :=
  match laneRaise errs trec access with
  | some r => .raise (m.ended cx s) r
  | none => if m.waits then .stay (m.await cx s) else go (m.ended cx m.s)

/-- The lanes of EXEC that are no helper lanes. -/
def Wcx.live (cx : Wcx) : W32 := cx.f.exec &&& ~~~cx.w.helper

/-- A load of lane bytes: `read` makes a lane's accesses. Every lane of EXEC is read; a failing helper lane reads 0
(R22, R369). -/
def Wcx.loadLanes (cx : Wcx) (m : Mu) (read : Nat → Mu → Except Raise (List Nat × Mu)) :
    (Mu × List (Nat × List Nat)) × List (Nat × Raise) :=
  laneLoop (fun l a =>
    match read l a.1 with
    | .ok (v, m) => .ok (m, a.2 ++ [(l, v)])
    | .error r => if cx.w.helper.getLsbD l then .ok (a.1, a.2 ++ [(l, [])]) else .error r)
    (lanesOf cx.f.exec) (m, [])

/-- The value of lane `l`, component `c`, of a load; 0 where there is none. -/
def laneVal (vs : List (Nat × List Nat)) (c l : Nat) : Nat :=
  match vs.find? fun p => p.1 == l with
  | some p => p.2.getD c 0
  | none => 0

end Sys2Proof.Machine
end

