-- ==== Sys2Proof/Machine/Control.lean ====
section
/-! DEFINITION. The control instructions (R319): branches, the split table (R24 to R29), barriers, traps, SLEEP and the
return from a user-level interrupt. -/

namespace Sys2Proof.Machine

open Sys2Proof

/-- What the condition of a format-C instruction reads (R317). -/
def condReads (f : FC) : List Nat :=
  let c := f.cnd.toNat
  if c = 11 || c = 12 then [sReg f.sa.toNat] else if 13 ≤ c then [mReg f.mask.toNat] else if c = 0 then [] else [sccReg]

/-- The condition of a format-C instruction (R317). -/
def Wcx.holds (cx : Wcx) (f : FC) : Bool := cx.cond f.cnd.toNat f.sa.toNat f.mask.toNat

/-- An address `n` instructions from another (R311). -/
def relPc (pc : W64) (n : Int) : W64 := pc + BitVec.ofInt 64 (8 * n)

/-- A wave is in a user-level-interrupt handler (R220). -/
def Wave.inHandler (w : Wave) : Bool := w.frags.any fun p => p.2.handler

/-- The target of JMP and CALL (R344, R364): none where FN 2 acts as a false condition. -/
inductive Target where
  | at (pc : W64)
  | none
  | nonUniform (va : Nat) (lanes : W32)

/-- The target that FN and OFF name (R344). -/
def State.target (s : State) (cx : Wcx) (f : FC) : Target :=
  match f.fn.toNat with
  | 0 => .at (relPc cx.f.pc f.off.toInt)
  | 1 => .at (cx.w.sreg (f.off.toNat % 64))
  | _ =>
    match lanesOf cx.f.exec with
    | [] => .none
    | l :: _ =>
      let vs := s.readPair cx (f.off.toNat % 512)
      let t := vs.getD l 0
      let off := maskOf fun k => cx.f.exec.getLsbD k && vs.getD k 0 != t
      if off != 0 then .nonUniform t (off &&& ~~~cx.w.helper) else .at (w64 t)

/-- What the target of JMP and CALL reads. -/
def targetReads (f : FC) : List Nat :=
  match f.fn.toNat with
  | 0 => []
  | 1 => [sReg (f.off.toNat % 64)]
  | _ => vRegs (f.off.toNat % 512) 2

/-- A transfer to an address (R304): one that is not 8-byte aligned raises ALIGN. -/
def goTo (s : State) (t : W64) : WRes :=
  if t.toNat % 8 != 0 then .raise s { cause := Cause.align, va := t.toNat } else .jump s t

/-- NOP (R385). -/
def execNop (_f : FC) (s : State) : Host.Outcome State Fault Refusal :=
  s.issue {} fun _ => .done s [] 0

/-- JMP (R364). -/
def execJmp (f : FC) (s : State) : Host.Outcome State Fault Refusal :=
  s.issue { reads := condReads f ++ targetReads f } fun cx =>
    if !cx.holds f then .done s [] 0
    else
      match s.target cx f with
      | .none => .done s [] 0
      | .nonUniform va ls => .raise s { cause := Cause.nonUniform, va := va, lanes := ls }
      | .at t => goTo s t

/-- CALL (R344): the target is read before the link is written. -/
def execCall (f : FC) (s : State) : Host.Outcome State Fault Refusal :=
  let reads := (if f.cnd.toNat < 13 && f.cnd != 0 then [sccReg] else if 13 ≤ f.cnd.toNat then [mReg f.mask.toNat] else [])
    ++ targetReads f
  s.issue { reads := reads, writes := [sReg f.sa.toNat] } fun cx =>
    if !cx.holds f then .done s [] 0
    else
      match s.target cx f with
      | .none => .done s [] 0
      | .nonUniform va ls => .raise s { cause := Cause.nonUniform, va := va, lanes := ls }
      | .at t => goTo (if t.toNat % 8 != 0 then s else s.setS cx f.sa.toNat (cx.f.pc + 8)) t

/-- RET (R390). -/
def execRet (f : FC) (s : State) : Host.Outcome State Fault Refusal :=
  let reads := (if f.cnd.toNat < 13 && f.cnd != 0 then [sccReg] else if 13 ≤ f.cnd.toNat then [mReg f.mask.toNat] else [])
  s.issue { reads := sReg f.sa.toNat :: reads } fun cx =>
    if !cx.holds f then .done s [] 0 else goTo s (cx.w.sreg f.sa.toNat)

/-- BR (R341). -/
def execBr (f : FC) (s : State) : Host.Outcome State Fault Refusal :=
  s.issue { reads := condReads f } fun cx =>
    if cx.holds f then .jump s (relPc cx.f.pc f.off.toInt) else .done s [] 0

/-! ## The split table -/

/-- The address of an entry in the wave's spill area (R28, R133). -/
def spillVa (d : Desc) (b slot e : Nat) : Nat := d.pvbase + (32 * b + slot) * 2 ^ d.pvsl + 32 * e

/-- A spill or fill of an entry reaches its place (R28, R29): a fault is handled as PRIVGROW, with AUX the least HWM that
covers the area (R134). A spill writes 32 bytes whose layout the spec leaves open: free values (log entry 12). -/
def State.spillAccess (s : State) (b slot e ctx : Nat) (write : Bool) : Except Raise State :=
  let va := spillVa (s.desc ctx) b slot e
  let bad : Raise := { cause := Cause.privGrow, va := va, aux := 4096, access := (if write then 2 else 1) + 5 * 32 }
  match s.translateCtx [.bench b] b ctx va (if write then .write else .read) with
  | .error _ => .error bad
  | .ok (x, s) =>
    if write then
      let (n, s) := s.fresh
      match s.pointWrite (dieOf b) x.pa (leBytes 32 n) with
      | .ok s => .ok s
      | .error _ => .error bad
    else
      match s.pointRead (dieOf b) x.pa 32 with
      | .ok (_, s) => .ok s
      | .error _ => .error bad

/-- Live entries on chip. -/
def Wave.onChip (w : Wave) : List (Nat × Frag) := w.frags.filter fun p => p.2.onChip

/-- The oldest on-chip entry, by creation order, that is not in a bypass window and is not excepted (R28). -/
def Wave.victim (w : Wave) (but : List Nat) : Option Nat :=
  let c := w.onChip.filter fun p => p.2.win.left = 0 && !but.contains p.1
  let oldest := c.foldl (fun a p => match a with
    | none => some p
    | some q => if p.2.created < q.2.created then some p else some q) (none : Option (Nat × Frag))
  oldest.map (·.1)

/-- Room for one more on-chip entry (R28): the oldest is spilled when 16 are in use, one of `but` only where there is no
other outside a bypass window. -/
def State.makeRoom (s : State) (b slot ctx : Nat) (but : List Nat) : Except Raise State :=
  match s.wave? b slot with
  | none => .ok s
  | some w =>
    if w.onChip.length < 16 then .ok s
    else
      match (w.victim but).or (w.victim []) with
      | none => .ok s
      | some v =>
        match s.spillAccess b slot v ctx true with
        | .error r => .error r
        | .ok s => .ok (s.modFrag b slot v fun f => { f with onChip := false })

/-- A new entry at the lowest free index (R28). -/
def State.newEntry (s : State) (b slot ctx : Nat) (but : List Nat) (f : Frag) : Except Raise (Nat × State) :=
  match s.makeRoom b slot ctx but with
  | .error r => .error r
  | .ok s =>
    let e := ((s.wave? b slot).bind fun w => w.frags.lowestFree 128).getD 127
    .ok (e, s.modWave b slot fun w => { w with frags := w.frags.set e { f with created := w.made }, made := w.made + 1 })

/-- A spilled entry is filled back on chip (R28). -/
def State.fillEntry (s : State) (b slot ctx e : Nat) : Except Raise State :=
  match s.frag? b slot e with
  | none => .ok s
  | some f =>
    if f.onChip then .ok s
    else
      match s.makeRoom b slot ctx [e] with
      | .error r => .error r
      | .ok s =>
        match s.spillAccess b slot e ctx false with
        | .error r => .error r
        | .ok s => .ok (s.modFrag b slot e fun f => { f with onChip := true })

/-- A child arrives at its parent (R26, R27): with no child left the parent resumes with the arrived lanes, or ends as by
EXIT when there are none. The fuel bounds the nesting of the table (R28). -/
def State.arrive (b slot ctx : Nat) : Nat → Nat → W32 → W64 → State → Except Raise State
  | 0, _, _, _, s => .ok s
  | fuel + 1, p, m, pc, s =>
    match s.fillEntry b slot ctx p with
    | .error r => .error r
    | .ok s =>
      match s.frag? b slot p with
      | none => .ok s
      | some f =>
        let got := f.arrive ||| m
        if f.pend != 1 then .ok (s.modFrag b slot p fun f => { f with arrive := got, pend := f.pend - 1 })
        else if got != 0 then
          let now := s.cycle b
          .ok (s.modFrag b slot p fun f =>
            { f with mask := got, pc := pc, waiting := false, pend := 0, arrive := 0, since := now })
        else
          let s := s.modWave b slot fun w => { w with frags := w.frags.erase p }
          match f.link with
          | none => .ok s
          | some q => s.arrive b slot ctx fuel q 0 (f.rc + 8)

/-- BRS (R24, R343): the partition, and two children when it is divergent. -/
def execBrs (f : FC2) (s : State) : Host.Outcome State Fault Refusal :=
  s.issue { reads := [mReg f.mask.toNat], barred := true } fun cx =>
    let m := cx.w.mreg f.mask.toNat
    let k := cx.f.mask &&& (if f.fn = 1 then ~~~m else m)
    let rest := cx.f.mask &&& ~~~k
    let taken := relPc cx.f.pc f.tgt.toInt
    if rest = 0 then .jump s taken
    else if k = 0 then .done s [] 0
    else
      let rc := relPc cx.f.pc f.rc.toInt
      let now := s.cycle cx.b
      let child (mask : W32) (pc : W64) : Frag :=
        { mask := mask, pc := pc, rc := rc, narrow := cx.f.narrow, link := some cx.e, since := now }
      let parent := s.modFrag cx.b cx.slot cx.e fun f => { f with waiting := true, pend := 2, arrive := 0, win := {} }
      -- of two children the fall-through child counts as created first (R31)
      match parent.newEntry cx.b cx.slot cx.g.ctx [] (child rest (cx.f.pc + 8)) with
      | .error r => .raise s r
      | .ok (e1, s1) =>
        match s1.newEntry cx.b cx.slot cx.g.ctx [e1] (child k taken) with
        | .error r => .raise s r
        | .ok (_, s2) => .own s2

/-- JOIN (R26, R365). -/
def execJoin (_f : FC) (s : State) : Host.Outcome State Fault Refusal :=
  s.issue { barred := true } fun cx =>
    match cx.f.link with
    | none => .done s [] 0
    | some p =>
      if cx.f.rc != cx.f.pc then .done s [] 0
      else
        let s' := s.modWave cx.b cx.slot fun w => { w with frags := w.frags.erase cx.e }
        match s'.arrive cx.b cx.slot cx.g.ctx 128 p cx.f.mask (cx.f.pc + 8) with
        | .error r => .raise s r
        | .ok s' => .own (s'.endWave cx.b cx.slot)

/-- EXIT (R27, R357). -/
def execExit (f : FC) (s : State) : Host.Outcome State Fault Refusal :=
  s.issue { reads := condReads f, barred := true } fun cx =>
    if cx.w.inHandler then .raise s (raiseOf Cause.illegal)
    else if !cx.holds f then .done s [] 0
    else
      let left := cx.f.mask &&& ~~~cx.f.exec
      if left != 0 then .done (s.modFrag cx.b cx.slot cx.e fun f => { f with mask := left }) [] 0
      else
        let s' := s.modWave cx.b cx.slot fun w => { w with frags := w.frags.erase cx.e }
        match cx.f.link with
        | none => .own (s'.endWave cx.b cx.slot)
        | some p =>
          match s'.arrive cx.b cx.slot cx.g.ctx 128 p 0 (cx.f.rc + 8) with
          | .error r => .raise s r
          | .ok s' => .own (s'.endWave cx.b cx.slot)

/-- TRAP (R410). -/
def execTrap (f : FC) (s : State) : Host.Outcome State Fault Refusal :=
  s.issue { reads := condReads f, barred := true } fun cx =>
    if cx.holds f then .raise s { cause := Cause.trap, aux := f.off.toNat } else .done s [] 0

/-- BRKPT (R342). -/
def execBrkpt (f : FC) (s : State) : Host.Outcome State Fault Refusal :=
  s.issue { reads := condReads f, barred := true } fun cx =>
    if cx.holds f then .raise s (raiseOf Cause.brkpt) else .done s [] 0

/-- BAR (R338, R339): Release(GROUP), then the fragment parks at the barrier. -/
def execBar (_f : FC) (s : State) : Host.Outcome State Fault Refusal :=
  s.issue { barred := true } fun cx =>
    if cx.w.inHandler then .raise s (raiseOf Cause.illegal)
    else .stay ((s.release cx.b 1).parkAt cx .bar)

/-- CBAR (R338, R340): Release(CELL), then the fragment parks at the cluster barrier. -/
def execCbar (_f : FC) (s : State) : Host.Outcome State Fault Refusal :=
  s.issue { barred := true } fun cx =>
    if cx.w.inHandler then .raise s (raiseOf Cause.illegal)
    else .stay ((s.release cx.b 3).parkAt cx .cbar)

/-- SLEEP (R401): until a cycle, or until a ULI is pending when the count is 0. -/
def execSleep (f : FC) (s : State) : Host.Outcome State Fault Refusal :=
  s.issue { reads := condReads f, barred := true } fun cx =>
    if !cx.holds f then .done s [] 0
    else .stay (s.parkAt cx (.sleep (if f.off = 0 then none else some (s.cycle cx.b + f.off.toNat))))

/-- Fragments of a wave park for a fault that goes to the fault latch (R216, R213): a PRIVGROW parks the whole wave (R29). -/
def State.parkLatched (s : State) (b slot : Nat) (g : Group) (es : List Nat) (r : Raise) (access : Nat) : State :=
  let cause := Cause.shown r.cause
  let whole := r.cause == Cause.privGrow
  let (_, s) := s.park b g.ctx cause r.va
    (es.map (fun e => .frag g.ctx slot e) ++ if whole then [.wave g.ctx slot] else [])
  let s := es.foldl (fun s e => s.modFrag b slot e fun f => { f with wait := some (.fault cause) }) s
  let s := if whole then s.modWave b slot Wave.hold else s
  s.latchAccess b g.ctx r.cause r.va access

/-- The 64 bytes of the frame of ULIRET, read as a weak wave load (R412, R145, R134). -/
def State.readFrame (s : State) (cx : Wcx) : Except Raise (List Byte × Mu) :=
  let va := cx.w.frame.toNat
  match privGrow (s.desc cx.g.ctx) cx.b cx.slot va 64 with
  | some top => .error { cause := Cause.privGrow, va := va, aux := top }
  | none =>
    match s.translateCtx [.bench cx.b] cx.b cx.g.ctx va .read with
    | .error c => .error { cause := c, va := va }
    | .ok (x, s) =>
      (cx.mu s).read (some (cx.b, cx.g.part, 0)) false { va := va, pa := x.pa, n := 64, ord := x.ord, nc := x.nc }

/-- ULIRET (R412, R413): the return from a user-level interrupt. It waits where the frame lies in another package (R269). A
fault of the frame read goes to the fault latch, and the handler parks at the instruction until it is woken. -/
def execUliret (_f : FC) (s : State) : Host.Outcome State Fault Refusal :=
  s.issue { barred := true } fun cx =>
    if !cx.f.handler || cx.f.waiting then .raise s (raiseOf Cause.illegal)
    else
      match s.readFrame cx with
      | .error r =>
        let s := (cx.mu s).ended cx s
        .stay (s.parkLatched cx.b cx.slot cx.g [cx.e] r (accessByte 1 64 false))
      | .ok (bs, m) =>
        if m.waits then .stay (m.await cx s) else
        let s := m.ended cx m.s
        let word (i : Nat) : W64 := w64 (leNat ((bs.drop i).take 8))
        let now := s.cycle cx.b
        .own (s.modWave cx.b cx.slot fun w =>
          { w with
            s := (((w.s.set 60 (word 0)).set 61 (word 8)).set 62 (word 16)).set 63 (word 24),
            scc := BitVec.ofNat 4 (word 32).toNat,
            fpflags := BitVec.ofNat 5 (word 48).toNat,
            frags := (w.frags.erase cx.e).mapVal fun _ f => if f.susp then { f with susp := false, since := now } else f })

end Sys2Proof.Machine
end

