-- ==== Sys2Proof/Machine/Fn.lean ====
section
/-! DEFINITION. The correctly rounded functions of R71: quotients and roots exactly; 2^a, log₂ a, sin πa and cos πa from
integer series of 360 fractional bits, rounded once. The rounding is that of the exact value except where it lies closer
to a rounding boundary than the series' error, which is not excluded by proof (UNVERIFIED, log entry 24). -/

namespace Sys2Proof.Machine

open Sys2Proof

/-- Fractional bits of the fixed-point series. -/
def fixP : Nat := 360

/-- A fixed-point value whose last 12 bits are unsure, as an exact value just inside its interval: a sticky bit stands
for the rest. -/
def stickyRat (neg : Bool) (n : Nat) : Rat2 := ⟨neg, 2 * (n / 4096) + 1, 1, 11 - (fixP : Int)⟩

/-- The bits of a square root from bit k − 1 down. -/
def isqrtBits (n : Nat) : Nat → Nat → Nat
  | 0, r => r
  | k + 1, r => isqrtBits n k (if (r + 2 ^ k) * (r + 2 ^ k) ≤ n then r + 2 ^ k else r)

/-- ⌊√n⌋. -/
def isqrt (n : Nat) : Nat := isqrtBits n (Nat.log2 n / 2 + 1) 0

/-- √(m × 2^e) for m > 0: with a sticky bit when it is not exact. -/
def sqrtRat (m : Nat) (e : Int) : Rat2 :=
  let (m, e) := if e % 2 = 0 then (m, e) else (2 * m, e - 1)
  let r := isqrt (m * 2 ^ 256)
  if r * r = m * 2 ^ 256 then ⟨false, r, 1, e / 2 - 128⟩ else ⟨false, 2 * r + 1, 1, e / 2 - 129⟩

/-- 1 ÷ √(m × 2^e) for m > 0. -/
def rsqrtRat (m : Nat) (e : Int) : Rat2 :=
  let (m, e) := if e % 2 = 0 then (m, e) else (2 * m, e - 1)
  let r := isqrt (2 ^ 512 / m)
  if r * r * m = 2 ^ 512 then ⟨false, r, 1, -(e / 2) - 256⟩ else ⟨false, 2 * r + 1, 1, -(e / 2) - 257⟩

/-- Σ of t^k ÷ k! from a term on, in fixed point. -/
def expSeries (t : Nat) : Nat → Nat → Nat → Nat
  | 0, _, _ => 0
  | fuel + 1, k, term => term + expSeries t fuel (k + 1) (term * t / 2 ^ fixP / k)

/-- Σ of z^(2k+1) ÷ (2k + 1), in fixed point; `p` is the power, `z2` the square. -/
def atanhSeries (z2 : Nat) : Nat → Nat → Nat → Nat
  | 0, _, _ => 0
  | fuel + 1, k, p => p / k + atanhSeries z2 fuel (k + 2) (p * z2 / 2 ^ fixP)

/-- ln x in fixed point, for x = m ÷ d in [1, 2]. -/
def lnFix (m d : Nat) : Nat :=
  let z := (m - d) * 2 ^ fixP / (m + d)
  2 * atanhSeries (z * z / 2 ^ fixP) 130 1 z

/-- ln 2. -/
def ln2Fix : Nat := lnFix 2 1

/-- arctan(1 ÷ x) in fixed point. -/
def atanInv (x : Nat) : Nat → Nat → Nat → Int
  | 0, _, _ => 0
  | fuel + 1, k, p => (p / k : Nat) - atanInv x fuel (k + 2) (p / (x * x))

/-- π in fixed point. -/
def piFix : Nat := (16 * atanInv 5 100 1 (2 ^ fixP / 5) - 4 * atanInv 239 30 1 (2 ^ fixP / 239)).toNat

/-- Σ of the alternating series of sine (start k = 1, term = t) or cosine (start k = 0, term = 1). -/
def trigSeries (t2 : Nat) : Nat → Nat → Nat → Int
  | 0, _, _ => 0
  | fuel + 1, k, term => (term : Int) - trigSeries t2 fuel (k + 2) (term * t2 / 2 ^ fixP / ((k + 1) * (k + 2)))

/-- A finite value in fixed point with 160 fractional bits, which hold every F32 value exactly. -/
def fix160 (m : Nat) (e : Int) : Nat := if 0 ≤ e + 160 then m * 2 ^ (e + 160).toNat else m / 2 ^ (-(e + 160)).toNat

/-- 2^a of a finite F32 value, rounded (R71). -/
def exp2Round (rm : Nat) (n : Bool) (m : Nat) (e : Int) : Nat × FFlags :=
  if m = 0 then roundRat .f32 rm false ⟨false, 1, 1, 0⟩
  else if 9 ≤ (Nat.log2 m : Int) + e then roundRat .f32 rm false ⟨false, 1, 1, if n then -400 else 400⟩
  else
    let x : Int := if n then -(fix160 m e : Int) else fix160 m e
    let k := x / 2 ^ 160
    let f := (x % 2 ^ 160).toNat
    if f = 0 then roundRat .f32 rm false ⟨false, 1, 1, k⟩
    else
      let t := f * ln2Fix / 2 ^ 160
      let v := stickyRat false (expSeries t 100 1 (2 ^ fixP))
      roundRat .f32 rm false { v with e := v.e + k }

/-- log₂ of a positive finite F32 value, rounded (R71). -/
def log2Round (rm : Nat) (m : Nat) (e : Int) : Nat × FFlags :=
  let k : Int := (Nat.log2 m : Int) + e
  let d := 2 ^ Nat.log2 m
  if m = d then roundRat .f32 rm false ⟨k < 0, k.natAbs, 1, 0⟩
  else
    let frac := lnFix m d * 2 ^ fixP / ln2Fix
    let x : Int := k * 2 ^ fixP + frac
    roundRat .f32 rm false (stickyRat (x < 0) (if x < 0 then x.natAbs - 2048 else x.natAbs))

/-- sin(πx) for x = n × 2⁻¹⁶⁰ strictly between 0 and 1, as an exact value near it; x = ½ gives 1. -/
def sinPiRat (neg : Bool) (n : Nat) : Rat2 :=
  let n := if 2 ^ 159 < n then 2 ^ 160 - n else n
  if n = 2 ^ 159 then ⟨neg, 1, 1, 0⟩
  else
    let t := n * piFix / 2 ^ 160
    let t2 := t * t / 2 ^ fixP
    -- near ½ the cosine of the distance to it
    if n ≤ 2 ^ 158 then stickyRat neg (trigSeries t2 90 1 t).toNat
    else
      let u := (2 ^ 159 - n) * piFix / 2 ^ 160
      stickyRat neg (trigSeries (u * u / 2 ^ fixP) 90 0 (2 ^ fixP)).toNat

/-- SinPi of a finite F32 value, rounded (R71). -/
def sinPiRound (rm : Nat) (n : Bool) (m : Nat) (e : Int) : Nat × FFlags :=
  let r := fix160 m e % 2 ^ 161
  if 24 ≤ (Nat.log2 m : Int) + e || r % 2 ^ 160 = 0 then (Fmt.f32.signBit n, 0)
  else
    let neg := n != (2 ^ 160 ≤ r : Bool)
    roundRat .f32 rm false (sinPiRat neg (r % 2 ^ 160))

/-- CosPi of a finite F32 value, rounded (R71): cos(πx) = sin(π(x + ½)). -/
def cosPiRound (rm : Nat) (m : Nat) (e : Int) : Nat × FFlags :=
  let r := if 25 ≤ (Nat.log2 m : Int) + e then 0 else fix160 m e % 2 ^ 161
  let q := (r + 2 ^ 159) % 2 ^ 161
  if q % 2 ^ 160 = 0 then (0, 0)
  else roundRat .f32 rm false (sinPiRat (2 ^ 160 ≤ q : Bool) (q % 2 ^ 160))

end Sys2Proof.Machine
end

