-- ==== Sys2Proof/Machine/VecInt.lean ====
section
/-! DEFINITION. The integer vector instructions (R414, R416 to R419) and their immediate forms (R309, R420). -/

namespace Sys2Proof.Machine

open Sys2Proof

/-- A format-VR instruction whose lane results are a function of its lanes' sources (R414). -/
def State.vecOp (s : State) (f : VR) (useB useC : Bool) (op : Nat → Nat → Nat → Nat) :
    Host.Outcome State Fault Refusal :=
  s.issue (vrInfo f useB useC) fun cx =>
    let a := s.srcA cx f
    let b := if useB then s.srcB cx f else []
    let c := if useC then s.srcC cx f else []
    .done s (vresOf (isWide f.ty.toNat) f.vd.toNat cx.f.exec
      (lanes.map fun l => op (a.getD l 0) (b.getD l 0) (c.getD l 0))) 0

/-- An elementwise integer operation of exact integers, narrowed once (R63). -/
def intMap (ty : Nat) (sat : Bool) (op : Int → Int → Int → Int) (a b c : Nat) : Nat :=
  mapElems ty fun e => narrow ty sat (op (intElem ty (elemOf ty a e)) (intElem ty (elemOf ty b e)) (intElem ty (elemOf ty c e)))

/-- An elementwise operation on element bits. -/
def bitMap (ty : Nat) (op : Nat → Nat → Nat) (a b : Nat) : Nat := mapElems ty fun e => op (elemOf ty a e) (elemOf ty b e)

/-- The type of a format-VR instruction. -/
def vty (f : VR) : Nat := f.ty.toNat
/-- SAT of a format-VR instruction. -/
def vsat (f : VR) : Bool := f.sat == 1

/-- VADD (R416). -/
def execVadd (f : VR) (s : State) : Host.Outcome State Fault Refusal :=
  s.vecOp f true false (intMap (vty f) (vsat f) fun a b _ => a + b)

/-- VSUB (R416). -/
def execVsub (f : VR) (s : State) : Host.Outcome State Fault Refusal :=
  s.vecOp f true false (intMap (vty f) (vsat f) fun a b _ => a - b)

/-- VMUL (R416): the product narrowed, or bits [63:32] of it. -/
def execVmul (f : VR) (s : State) : Host.Outcome State Fault Refusal :=
  s.vecOp f true false (intMap (vty f) (vsat f) fun a b _ => if f.fn = 1 then a * b / 2 ^ 32 else a * b)

/-- VMAD (R416). -/
def execVmad (f : VR) (s : State) : Host.Outcome State Fault Refusal :=
  s.vecOp f true true (intMap (vty f) (vsat f) fun a b c => a * b + c)

/-- VDOT4 (R416): c and the result are 32-bit integers of the type's signedness. -/
def execVdot4 (f : VR) (s : State) : Host.Outcome State Fault Refusal :=
  let t32 := if (vty f) = 10 then 0 else 1
  s.vecOp f true true fun a b c =>
    narrow t32 (vsat f) ((List.range 4).foldl
      (fun t e => t + intElem (vty f) (elemOf (vty f) a e) * intElem (vty f) (elemOf (vty f) b e)) (intElem t32 c))

/-- VAND (R416). -/
def execVand (f : VR) (s : State) : Host.Outcome State Fault Refusal := s.vecOp f true false fun a b _ => a &&& b
/-- VOR (R416). -/
def execVor (f : VR) (s : State) : Host.Outcome State Fault Refusal := s.vecOp f true false fun a b _ => a ||| b
/-- VXOR (R416). -/
def execVxor (f : VR) (s : State) : Host.Outcome State Fault Refusal := s.vecOp f true false fun a b _ => a ^^^ b

/-- VSHL (R416): by b mod the element width. -/
def execVshl (f : VR) (s : State) : Host.Outcome State Fault Refusal :=
  s.vecOp f true false fun a b _ => bitMap (vty f) (fun x y => x * 2 ^ (y % elemBits (vty f)) % 2 ^ elemBits (vty f)) a b

/-- VSHR (R416): logical, or arithmetic with FN 1. -/
def execVshr (f : VR) (s : State) : Host.Outcome State Fault Refusal :=
  let n := elemBits (vty f)
  s.vecOp f true false fun a b _ =>
    bitMap (vty f) (fun x y => if f.fn = 1 then wrap n (sext n x / (2 ^ (y % n) : Nat)) else x / 2 ^ (y % n)) a b

/-- VMIN (R416). -/
def execVmin (f : VR) (s : State) : Host.Outcome State Fault Refusal :=
  s.vecOp f true false (intMap (vty f) false fun a b _ => min a b)

/-- VMAX (R416). -/
def execVmax (f : VR) (s : State) : Host.Outcome State Fault Refusal :=
  s.vecOp f true false (intMap (vty f) false fun a b _ => max a b)

/-- The integer conditions of R318. -/
def intCond (c : Nat) (a b : Int) : Bool :=
  match c with
  | 0 => a == b
  | 1 => a != b
  | 2 => a < b
  | 3 => a ≤ b
  | 4 => b < a
  | _ => b ≤ a

/-- A mask whose bits are written for the lanes of EXEC only (R318). -/
def Wcx.putMask (cx : Wcx) (m : Nat) (p : Nat → Bool) : W32 :=
  (cx.w.mreg m &&& ~~~cx.f.exec) ||| maskOf fun l => cx.f.exec.getLsbD l && p l

/-- VCMP (R418). -/
def execVcmp (f : VR) (s : State) : Host.Outcome State Fault Refusal :=
  let m := f.vd.toNat % 16
  s.issue { vrInfo f true false with writes := [mReg m] } fun cx =>
    let a := s.srcA cx f
    let b := s.srcB cx f
    .done (s.setM cx m (cx.putMask m fun l =>
      intCond f.fn.toNat (intElem (vty f) (a.getD l 0)) (intElem (vty f) (b.getD l 0)))) [] 0

/-- VSEL (R419). -/
def execVsel (f : VR) (s : State) : Host.Outcome State Fault Refusal :=
  let i := vrInfo f true false
  s.issue { i with reads := mReg (f.vc.toNat % 16) :: i.reads } fun cx =>
    let a := s.srcA cx f
    let b := s.srcB cx f
    let m := cx.w.mreg (f.vc.toNat % 16)
    .done s (vresOf (isWide (vty f)) f.vd.toNat cx.f.exec
      (lanes.map fun l => if m.getLsbD l then a.getD l 0 else b.getD l 0)) 0

/-- The offset and width of VBFE and VBFI (R417). -/
def bitField (b : Nat) : Nat × Nat := (b % 32, min (bitsOf b 12 8) (32 - b % 32))

/-- VBFE (R417). -/
def execVbfe (f : VR) (s : State) : Host.Outcome State Fault Refusal :=
  s.vecOp f true false fun a b _ =>
    let (o, w) := bitField b
    let x := a / 2 ^ o % 2 ^ w
    if (vty f) = 0 && w != 0 then wrap 32 (sext w x) else x

/-- VBFI (R417). -/
def execVbfi (f : VR) (s : State) : Host.Outcome State Fault Refusal :=
  s.vecOp f true true fun a b c =>
    let (o, w) := bitField b
    if w = 0 then c else setBits c (o + w - 1) o a

/-- VPOPC (R416). -/
def execVpopc (f : VR) (s : State) : Host.Outcome State Fault Refusal :=
  s.vecOp f false false fun a _ _ => ((List.range 32).filter (bitOf a)).length

/-- VCLZ (R416). -/
def execVclz (f : VR) (s : State) : Host.Outcome State Fault Refusal :=
  s.vecOp f false false fun a _ _ => if a = 0 then 32 else 31 - Nat.log2 a

/-- VMOV (R416). -/
def execVmov (f : VR) (s : State) : Host.Outcome State Fault Refusal := s.vecOp f false false fun a _ _ => a

/-! ## Immediate forms -/

/-- Whether a format-VI type is a pair. -/
def viWide (f : VI) : Bool := isWide f.ty.toNat

/-- The immediate of format VI as a lane value (R309). -/
def viValue (f : VI) : Nat :=
  match f.ty.toNat with
  | 2 => (f.imm.signExtend 64).toNat
  | 5 => (convFloat .f64 0 false (FVal.decode .f32 f.imm.toNat)).1
  | _ => f.imm.toNat

/-- The flags that the widening of an F32 immediate raises (R309, R70). -/
def viFlags (f : VI) : FFlags := if f.ty = 5 then (convFloat .f64 0 false (FVal.decode .f32 f.imm.toNat)).2 else 0

/-- The registers of a format-VI instruction. -/
def viInfo (f : VI) : WInfo :=
  { reads := srcRegs (viWide f) (f.ka == 1) f.va.toNat, writes := vRegs f.vd.toNat (if (viWide f) then 2 else 1), tr := f.tr == 1 }

/-- Source A of format VI (R309). -/
def State.viA (s : State) (cx : Wcx) (f : VI) : List Nat := s.readSrc cx (viWide f) (f.ka == 1) f.va.toNat

/-- A format-VI instruction whose lane results are a function of A and the immediate. -/
def State.immOp (s : State) (f : VI) (op : Nat → Nat → Nat) : Host.Outcome State Fault Refusal :=
  s.issue (viInfo f) fun cx =>
    .done s (vresOf (viWide f) f.vd.toNat cx.f.exec ((s.viA cx f).map fun a => op a (viValue f))) 0

/-- VADD with an immediate (R420). -/
def execVaddImm (f : VI) (s : State) : Host.Outcome State Fault Refusal :=
  s.immOp f fun a b => intMap f.ty.toNat false (fun x y _ => x + y) a b 0

/-- VMUL with an immediate (R420). -/
def execVmulImm (f : VI) (s : State) : Host.Outcome State Fault Refusal :=
  s.immOp f fun a b => intMap f.ty.toNat false (fun x y _ => x * y) a b 0

/-- VAND with an immediate (R420). -/
def execVandImm (f : VI) (s : State) : Host.Outcome State Fault Refusal := s.immOp f fun a b => a &&& b
/-- VOR with an immediate (R420). -/
def execVorImm (f : VI) (s : State) : Host.Outcome State Fault Refusal := s.immOp f fun a b => a ||| b

/-- VCMP with an immediate (R420): the condition is VD[8:5]. -/
def execVcmpImm (f : VI) (s : State) : Host.Outcome State Fault Refusal :=
  let m := f.vd.toNat % 16
  let ty := f.ty.toNat
  s.issue { (viInfo f) with writes := [mReg m] } fun cx =>
    let a := s.viA cx f
    .done (s.setM cx m (cx.putMask m fun l =>
      intCond (f.vd.toNat / 32) (intElem ty (a.getD l 0)) (intElem ty (viValue f)))) [] 0

/-- VMOV of an immediate (R420). -/
def execVmovImm (f : VI) (s : State) : Host.Outcome State Fault Refusal :=
  s.issue { (viInfo f) with reads := [] } fun cx =>
    .done s (vresOf (viWide f) f.vd.toNat cx.f.exec (lanes.map fun _ => (viValue f))) 0

end Sys2Proof.Machine
end

