-- ==== Sys2Proof/Machine/Float.lean ====
section
/-! DEFINITION. The floating-point vector instructions (R415, R418, R420 to R423), with the flags of R67 and the trap of
R68. -/

namespace Sys2Proof.Machine

open Sys2Proof

/-- The result of a floating-point instruction: its lane values and flags; an enabled flag raises FPTRAP and writes no
destination (R68). -/
def State.floatDone (s : State) (cx : Wcx) (vs : List VRes) (fl : Nat → Nat) : WRes :=
  let all := cx.raised fl
  let s := s.orFlags cx.b cx.slot all
  if cx.trapLanes fl != 0 then .raise s { cause := Cause.fpTrap, aux := all, lanes := cx.trapLanes fl } else .done s vs 0

/-- A lane's elements with the OR of their flags. -/
def floatElems (ty : Nat) (op : Nat → Nat × FFlags) : Nat × FFlags :=
  let rs := (List.range (elemsPer ty)).map op
  (packElems ty (rs.map (·.1)), rs.foldl (fun a r => a ||| r.2) 0)

/-- NA and NC: the sign bit of every element flips (R65). -/
def negElems (ty : Nat) (na : Bool) (v : Nat) : Nat :=
  if na then mapElems ty fun e => elemOf ty v e ^^^ 2 ^ (elemBits ty - 1) else v

/-- A format-VR floating-point instruction, element by element (R414): `op` has the format, the rounding mode and the
elements of A, B and C. -/
def State.floatOp (s : State) (f : VR) (useB useC : Bool) (op : Fmt → Nat → Nat → Nat → Nat → Nat × FFlags) :
    Host.Outcome State Fault Refusal :=
  s.issue (vrInfo f useB useC) fun cx =>
    let ty := vty f
    let a := (s.srcA cx f).map (negElems ty (f.na == 1))
    let b := if useB then s.srcB cx f else []
    let c := if useC then (s.srcC cx f).map (negElems ty (f.nc == 1)) else []
    let rs := lanes.map fun l => floatElems ty fun e =>
      let r := op (fmtOf ty) f.rm.toNat (elemOf ty (a.getD l 0) e) (elemOf ty (b.getD l 0) e) (elemOf ty (c.getD l 0) e)
      (if vsat f then clamp01 (fmtOf ty) r.1 else r.1, r.2)
    s.floatDone cx (vresOf (isWide ty) f.vd.toNat cx.f.exec (rs.map (·.1))) fun l => (rs.getD l (0, 0)).2

/-- RoundTo (R415) of an exact value with flags met before the rounding. -/
def roundTo (f : Fmt) (rm : Nat) (v : FVal × FFlags) : Nat × FFlags :=
  let r := roundVal f rm v.1
  (r.1, r.2 ||| v.2)

/-- Addition (R421). -/
def faddEl (f : Fmt) (rm a b : Nat) : Nat × FFlags := roundTo f rm (addVal rm (.decode f a) (.decode f b))

/-- Multiplication (R421). -/
def fmulEl (f : Fmt) (rm a b : Nat) : Nat × FFlags := roundTo f rm (mulVal (.decode f a) (.decode f b))

/-- Fused multiply-add (R421, R422). -/
def ffmaEl (f : Fmt) (rm a b c : Nat) : Nat × FFlags :=
  let p := mulVal (.decode f a) (.decode f b)
  let t := addVal rm p.1 (.decode f c)
  roundTo f rm (t.1, t.2 ||| p.2)

/-- VFADD (R421). -/
def execVfadd (f : VR) (s : State) : Host.Outcome State Fault Refusal :=
  s.floatOp f true false fun m rm a b _ => faddEl m rm a b

/-- VFMUL (R421). -/
def execVfmul (f : VR) (s : State) : Host.Outcome State Fault Refusal :=
  s.floatOp f true false fun m rm a b _ => fmulEl m rm a b

/-- VFMA (R421, R422). -/
def execVfma (f : VR) (s : State) : Host.Outcome State Fault Refusal := s.floatOp f true true ffmaEl

/-- Minimum and maximum of two elements (R422): −0 is below +0; `nan` selects the form that returns a NaN operand's
default NaN. -/
def fminmaxEl (f : Fmt) (max_ nan : Bool) (a b : Nat) : Nat × FFlags :=
  let x := FVal.decode f a
  let y := FVal.decode f b
  let nv := if x.isSNaN || y.isSNaN then fNV else 0
  if x.isNaN && y.isNaN || (nan && (x.isNaN || y.isNaN)) then (f.defNaN, nv)
  else if x.isNaN then (b, nv)
  else if y.isNaN then (a, nv)
  else
    let less := ltVal x y || (x.isZero && y.isZero && x.sgn && !y.sgn)
    (if less != max_ then a else b, nv)

/-- VFMIN (R421, R422). -/
def execVfmin (f : VR) (s : State) : Host.Outcome State Fault Refusal :=
  s.floatOp f true false fun m _ a b _ => fminmaxEl m false (f.fn == 1) a b

/-- VFMAX (R421, R422). -/
def execVfmax (f : VR) (s : State) : Host.Outcome State Fault Refusal :=
  s.floatOp f true false fun m _ a b _ => fminmaxEl m true (f.fn == 1) a b

/-- The float conditions of R318: the result and NV. -/
def floatCond (c : Nat) (x y : FVal) : Bool × FFlags :=
  let un := x.isNaN || y.isNaN
  let sn := if x.isSNaN || y.isSNaN then fNV else 0
  let loud := if un then fNV else 0
  match c with
  | 0 => (eqVal x y, sn)
  | 1 => (!eqVal x y, sn)
  | 2 => (!un && ltVal x y, loud)
  | 3 => (!un && !ltVal y x, loud)
  | 4 => (!un && ltVal y x, loud)
  | 5 => (!un && !ltVal x y, loud)
  | 6 => (!un, sn)
  | _ => (un, sn)

/-- VFCMP (R418). -/
def execVfcmp (f : VR) (s : State) : Host.Outcome State Fault Refusal :=
  let m := f.vd.toNat % 16
  s.issue { vrInfo f true false with writes := [mReg m] } fun cx =>
    let ty := vty f
    let a := (s.srcA cx f).map (negElems ty (f.na == 1))
    let b := s.srcB cx f
    let rs := lanes.map fun l =>
      floatCond f.fn.toNat (.decode (fmtOf ty) (a.getD l 0)) (.decode (fmtOf ty) (b.getD l 0))
    let fl (l : Nat) : Nat := (rs.getD l (false, 0)).2
    let all := cx.raised fl
    let s := s.orFlags cx.b cx.slot all
    if cx.trapLanes fl != 0 then .raise s { cause := Cause.fpTrap, aux := all, lanes := cx.trapLanes fl }
    else .done (s.setM cx m (cx.putMask m fun l => (rs.getD l (false, 0)).1)) [] 0

/-- Division of finite values, b ≠ 0. -/
def divRat (n1 : Bool) (m1 : Nat) (e1 : Int) (n2 : Bool) (m2 : Nat) (e2 : Int) : Rat2 := ⟨n1 != n2, m1, m2, e1 - e2⟩

/-- VFDIV's element (R71). -/
def fdivEl (f : Fmt) (rm a b : Nat) : Nat × FFlags :=
  let x := FVal.decode f a
  let y := FVal.decode f b
  if x.isNaN || y.isNaN then (f.defNaN, if x.isSNaN || y.isSNaN then fNV else 0)
  else
    match x, y with
    | .inf _, .inf _ => (f.defNaN, fNV)
    | .inf n, _ => (f.inf (n != y.sgn), 0)
    | _, .inf n => (f.signBit (n != x.sgn), 0)
    | .fin n1 m1 e1, .fin n2 m2 e2 =>
      if m2 = 0 then (if m1 = 0 then (f.defNaN, fNV) else (f.inf (n1 != n2), fDZ))
      else roundRat f rm false (divRat n1 m1 e1 n2 m2 e2)
    | _, _ => (f.defNaN, 0)

/-- VFDIV (R423). -/
def execVfdiv (f : VR) (s : State) : Host.Outcome State Fault Refusal :=
  s.floatOp f true false fun m rm a b _ => fdivEl m rm a b

/-- VFSQRT's element (R71). -/
def fsqrtEl (f : Fmt) (rm a : Nat) : Nat × FFlags :=
  match FVal.decode f a with
  | .nan q => (f.defNaN, if q then fNV else 0)
  | .inf n => if n then (f.defNaN, fNV) else (f.inf false, 0)
  | .fin n m e =>
    if m = 0 then (f.signBit n, 0) else if n then (f.defNaN, fNV) else roundRat f rm false (sqrtRat m e)

/-- VFSQRT (R423). -/
def execVfsqrt (f : VR) (s : State) : Host.Outcome State Fault Refusal :=
  s.floatOp f false false fun m rm a _ _ => fsqrtEl m rm a

/-- VRCP's element (R71). -/
def frcpEl (f : Fmt) (rm a : Nat) : Nat × FFlags :=
  match FVal.decode f a with
  | .nan q => (f.defNaN, if q then fNV else 0)
  | .inf n => (f.signBit n, 0)
  | .fin n m e => if m = 0 then (f.inf n, fDZ) else roundRat f rm false ⟨n, 1, m, -e⟩

/-- VRCP (R423). -/
def execVrcp (f : VR) (s : State) : Host.Outcome State Fault Refusal :=
  s.floatOp f false false fun m rm a _ _ => frcpEl m rm a

/-- VRSQ's element (R71). -/
def frsqEl (f : Fmt) (rm a : Nat) : Nat × FFlags :=
  match FVal.decode f a with
  | .nan q => (f.defNaN, if q then fNV else 0)
  | .inf n => if n then (f.defNaN, fNV) else (0, 0)
  | .fin n m e =>
    if m = 0 then (f.inf n, fDZ) else if n then (f.defNaN, fNV) else roundRat f rm false (rsqrtRat m e)

/-- VRSQ (R423). -/
def execVrsq (f : VR) (s : State) : Host.Outcome State Fault Refusal :=
  s.floatOp f false false fun m rm a _ _ => frsqEl m rm a

/-- VEXP2's element (R71). -/
def fexp2El (rm a : Nat) : Nat × FFlags :=
  match FVal.decode .f32 a with
  | .nan q => (Fmt.f32.defNaN, if q then fNV else 0)
  | .inf n => (if n then 0 else Fmt.f32.inf false, 0)
  | .fin n m e => exp2Round rm n m e

/-- VEXP2 (R423). -/
def execVexp2 (f : VR) (s : State) : Host.Outcome State Fault Refusal :=
  s.floatOp f false false fun _ rm a _ _ => fexp2El rm a

/-- VLOG2's element (R71). -/
def flog2El (rm a : Nat) : Nat × FFlags :=
  match FVal.decode .f32 a with
  | .nan q => (Fmt.f32.defNaN, if q then fNV else 0)
  | .inf n => if n then (Fmt.f32.defNaN, fNV) else (Fmt.f32.inf false, 0)
  | .fin n m e =>
    if m = 0 then (Fmt.f32.inf true, fDZ) else if n then (Fmt.f32.defNaN, fNV) else log2Round rm m e

/-- VLOG2 (R423). -/
def execVlog2 (f : VR) (s : State) : Host.Outcome State Fault Refusal :=
  s.floatOp f false false fun _ rm a _ _ => flog2El rm a

/-- SinPi or CosPi of an element (R71). -/
def trigEl (cos : Bool) (rm a : Nat) : Nat × FFlags :=
  match FVal.decode .f32 a with
  | .nan q => (Fmt.f32.defNaN, if q then fNV else 0)
  | .inf _ => (Fmt.f32.defNaN, fNV)
  | .fin n m e =>
    if m = 0 then (if cos then 0x3F800000 else Fmt.f32.signBit n, 0)
    else if cos then cosPiRound rm m e else sinPiRound rm n m e

/-- VSINCOS (R423): SinPi, CosPi, or both to a pair. -/
def execVsincos (f : VR) (s : State) : Host.Outcome State Fault Refusal :=
  let fn := f.fn.toNat
  let i := vrInfo f false false
  s.issue { i with writes := vRegs f.vd.toNat (if fn = 2 then 2 else 1) } fun cx =>
    let a := (s.srcA cx f).map (negElems 4 (f.na == 1))
    let run (cos : Bool) : List (Nat × FFlags) := a.map fun x =>
      let r := trigEl cos f.rm.toNat x
      (if vsat f then clamp01 .f32 r.1 else r.1, r.2)
    let r1 := run (fn == 1)
    let r2 := if fn = 2 then run true else []
    let vs := ⟨f.vd.toNat, cx.f.exec, r1.map (·.1)⟩ ::
      (if fn = 2 then [⟨f.vd.toNat + 1, cx.f.exec, r2.map (·.1)⟩] else [])
    s.floatDone cx vs fun l => (r1.getD l (0, 0)).2 ||| (r2.getD l (0, 0)).2

/-- VFRND's element (R422). -/
def frndEl (f : Fmt) (rm a : Nat) : Nat × FFlags :=
  match FVal.decode f a with
  | .nan q => (f.defNaN, if q then fNV else 0)
  | .inf _ => (a, 0)
  | .fin n m e =>
    let (i, nx) := roundInt rm n m 1 e
    if nx then (if i = 0 then f.signBit n else (roundVal f 0 (.ofInt i)).1, fNX) else (a, 0)

/-- VFRND (R422). -/
def execVfrnd (f : VR) (s : State) : Host.Outcome State Fault Refusal :=
  s.floatOp f false false fun m rm a _ _ => frndEl m rm a

/-- VFRACT's element (R422): a − ⌊a⌋, rounded once towards zero. -/
def fractEl (f : Fmt) (a : Nat) : Nat × FFlags :=
  match FVal.decode f a with
  | .nan q => (f.defNaN, if q then fNV else 0)
  | .inf _ => (f.defNaN, fNV)
  | .fin n m e =>
    if 0 ≤ e then (0, 0)
    else
      let one := 2 ^ (-e).toNat
      let r := m % one
      roundRat f 1 false ⟨false, if n && r != 0 then one - r else r, 1, e⟩

/-- VFRACT (R422). -/
def execVfract (f : VR) (s : State) : Host.Outcome State Fault Refusal :=
  s.floatOp f false false fun m _ a _ _ => fractEl m a

/-- VFDOT2's lane (R421, R422): two products of 16-bit elements plus an F32, rounded once. -/
def fdot2Lane (f : Fmt) (rm a b c : Nat) : Nat × FFlags :=
  let p (e : Nat) := mulVal (.decode f (a / 2 ^ (16 * e) % 2 ^ 16)) (.decode f (b / 2 ^ (16 * e) % 2 ^ 16))
  let p0 := p 0
  let p1 := p 1
  let z := FVal.decode .f32 c
  let ts := [p0.1, p1.1, z]
  let both := if ts.contains (.inf false) && ts.contains (.inf true) then fNV else 0
  let t := addVal rm p0.1 p1.1
  let u := addVal rm t.1 z
  roundTo .f32 rm (u.1, p0.2 ||| p1.2 ||| t.2 ||| u.2 ||| both)

/-- VFDOT2 (R421). -/
def execVfdot2 (f : VR) (s : State) : Host.Outcome State Fault Refusal :=
  s.issue (vrInfo f true true) fun cx =>
    let a := (s.srcA cx f).map (negElems (vty f) (f.na == 1))
    let b := s.srcB cx f
    let c := (s.srcC cx f).map (negElems 4 (f.nc == 1))
    let rs := lanes.map fun l =>
      let r := fdot2Lane (fmtOf (vty f)) f.rm.toNat (a.getD l 0) (b.getD l 0) (c.getD l 0)
      (if vsat f then clamp01 .f32 r.1 else r.1, r.2)
    s.floatDone cx (vresOf false f.vd.toNat cx.f.exec (rs.map (·.1))) fun l => (rs.getD l (0, 0)).2

/-- An immediate floating-point form (R420): RNE, no SAT. -/
def State.floatImm (s : State) (f : VI) (op : Fmt → Nat → Nat → Nat → Nat × FFlags) : Host.Outcome State Fault Refusal :=
  s.issue (viInfo f) fun cx =>
    let ty := f.ty.toNat
    let rs := (s.viA cx f).map fun a => floatElems ty fun e => op (fmtOf ty) 0 (elemOf ty a e) (elemOf ty (viValue f) e)
    s.floatDone cx (vresOf (viWide f) f.vd.toNat cx.f.exec (rs.map (·.1))) fun l => (rs.getD l (0, 0)).2 ||| viFlags f

/-- VFADD with an immediate (R420). -/
def execVfaddImm (f : VI) (s : State) : Host.Outcome State Fault Refusal := s.floatImm f faddEl
/-- VFMUL with an immediate (R420). -/
def execVfmulImm (f : VI) (s : State) : Host.Outcome State Fault Refusal := s.floatImm f fmulEl

end Sys2Proof.Machine
end

