-- ==== Sys2Proof/Machine/Convert.lean ====
section
/-! DEFINITION. Conversions (R424, R425), block quantisation (R182, R426 to R428) and DECODE (R173, R355, R356). -/

namespace Sys2Proof.Machine

open Sys2Proof

/-! ## VCVT -/

/-- A floating-point type (R64). -/
def isFloatTy (ty : Nat) : Bool := (4 ≤ ty && ty ≤ 7) || (12 ≤ ty && ty ≤ 14)

/-- The bounds of an integer type (R62). -/
def intBounds (ty : Nat) : Int × Int :=
  let w := elemBits ty
  if isSigned ty then (-(2 ^ (w - 1) : Nat), (2 ^ (w - 1) : Nat) - 1) else (0, (2 ^ w : Nat) - 1)

/-- The conversion of one element from type `src` to type `dst` (R70). An integer that overflows E4M3 or E2M1, which have no
infinity, takes the value and flags of the rows from float with SAT = 0 (DESIGN CHOICE, log entry 99). -/
def cvtEl (dst src rm : Nat) (sat : Bool) (x : Nat) : Nat × FFlags :=
  if isFloatTy src then
    if isFloatTy dst then convFloat (fmtOf dst) rm sat (.decode (fmtOf src) x)
    else
      let r := convInt (intBounds dst).1 (intBounds dst).2 rm (.decode (fmtOf src) x)
      (wrap (elemBits dst) r.1, r.2)
  else convFloat (fmtOf dst) rm false (.ofInt (intElem src x))

/-- Element `i` of a block of lane values, each one unit of a type (R425). -/
def blockElem (ty : Nat) (us : List Nat) (i : Nat) : Nat := elemOf ty (us.getD (i / elemsPer ty) 0) (i % elemsPer ty)

/-- Registers of a unit of a type. -/
def unitRegs (ty : Nat) : Nat := if isWide ty then 2 else 1

/-- VCVT (R424, R425). -/
def execVcvt (f : VR) (s : State) : Host.Outcome State Fault Refusal :=
  let dst := f.ty.toNat
  let src := f.fn.toNat
  let n := max (elemsPer src) (elemsPer dst)
  let su := n / elemsPer src
  let du := n / elemsPer dst
  let ks := f.ks.getLsbD 2
  let i : WInfo :=
    { reads := if ks then [sReg f.va.toNat] else vRegs f.va.toNat (su * unitRegs src),
      writes := vRegs f.vd.toNat (du * unitRegs dst), tr := f.tr == 1,
      oc := if f.oc.getLsbD 2 && !ks then vRegs f.va.toNat (su * unitRegs src) else [] }
  s.issue i fun cx =>
    let units := (List.range su).map fun u => s.readSrc cx (isWide src) ks (f.va.toNat + u * unitRegs src)
    let lane (l : Nat) : List (Nat × FFlags) :=
      let us := units.map fun vs => negElems src (f.na == 1) (vs.getD l 0)
      (List.range n).map fun e => cvtEl dst src f.rm.toNat (f.sat == 1) (blockElem src us e)
    let rs := lanes.map lane
    let out (u : Nat) : List Nat := rs.map fun es =>
      packElems dst (((es.drop (u * elemsPer dst)).take (elemsPer dst)).map (·.1))
    let vs := (List.range du).flatMap fun u =>
      vresOf (isWide dst) (f.vd.toNat + u * unitRegs dst) cx.f.exec (out u)
    s.floatDone cx vs fun l => (rs.getD l []).foldl (fun a r => a ||| r.2) 0

/-! ## Block quantisation -/

/-- A quantised block (R182): the scale code, the element codes, and the residuals as F32. -/
structure QBlock where
  scale : Nat
  codes : List Nat
  res : List W32
  deriving DecidableEq, Repr

/-- EMAX of an element format (R182, R427). -/
def emaxOf (f : Fmt) : Int := if f.top = .e2m1 then 2 else if f.top = .e4m3 then 8 else 15

/-- One element of QuantiseBlock under a scale: its code and residual; `sr` is the random word of SR = 1. -/
def quantEl (f : Fmt) (scale : Nat) (sr : Option Nat) (x : W32) : Nat × W32 :=
  let k : Int := 127 - (scale : Int)
  let y := (f32Val x).scale k
  let q := match sr with
    | some rnd => (roundSR f y rnd).1
    | none => (convFloat f 0 true y).1
  let q := if f.top = .e2m1 && q == 8 then 0 else q
  (q, f32Of (addVal 0 (f32Val x) ((FVal.decode f q).scale (-k)).neg).1)

/-- QuantiseBlock (R182) of 32 F32 inputs, already accumulated; `sr` gives the random word of an element. -/
def quantBlock (f : Fmt) (sr : Nat → Option Nat) (xs : List W32) : QBlock :=
  if xs.any fun x => !(f32Val x).isFin then
    { scale := 0xFF, codes := xs.map fun _ => 0, res := xs.map fun x => if (f32Val x).isFin then x else f32NaN }
  else
    let es := (xs.filter fun x => !(f32Val x).isZero).map fun x => expOf (f32Val x)
    let scale := match es with
      | [] => 127
      | e :: t => (max 0 (min 254 (t.foldl max e - emaxOf f + 127))).toNat
    let rs := (List.range xs.length).map fun k => quantEl f scale (sr k) (xs.getD k 0)
    { scale := scale, codes := rs.map (·.1), res := rs.map (·.2) }

/-- The element bytes of a block (R74): two codes a byte for E2M1, one otherwise. -/
def codeBytes (f : Fmt) (cs : List Nat) : List Byte :=
  if f.top = .e2m1 then
    (List.range (cs.length / 2)).map fun i => BitVec.ofNat 8 (cs.getD (2 * i) 0 + 16 * cs.getD (2 * i + 1) 0)
  else cs.map (BitVec.ofNat 8)

/-- VQMX (R426, R427). -/
def execVqmx (f : VR) (s : State) : Host.Outcome State Fault Refusal :=
  let res := f.fn == 1
  let sx := f.vc.toNat % 64
  let i : WInfo :=
    { reads := [f.va.toNat], writes := f.vd.toNat :: sReg sx :: (if res then [f.vb.toNat] else []),
      oc := if f.oc.getLsbD 2 then [f.va.toNat] else [] }
  s.issue i fun cx =>
    let a := s.readV cx f.va.toNat
    let q := quantBlock (fmtOf f.ty.toNat) (fun _ => none)
      (lanes.map fun l => if cx.live.getLsbD l then w32 (a.getD l 0) else 0)
    let img := codeBytes (fmtOf f.ty.toNat) q.codes
    let m := maskOf fun l => cx.f.exec.getLsbD l && 4 * l < img.length
    let vs : List VRes := ⟨f.vd.toNat, m, lanes.map fun l => leNat ((img.drop (4 * l)).take 4)⟩ ::
      (if res then [⟨f.vb.toNat, cx.f.exec, q.res.map (·.toNat)⟩] else [])
    .done (s.setS cx sx (w64 q.scale)) vs 0

/-- VDQMX's element (R428): a code under a scale as F32; a NaN raises nothing. -/
def dequantEl (f : Fmt) (rm scale c : Nat) : Nat × FFlags :=
  let v := FVal.decode f c
  if scale = 0xFF || v.isNaN then (Fmt.f32.defNaN, 0) else roundVal .f32 rm (v.scale ((scale : Int) - 127))

/-- VDQMX (R428). -/
def execVdqmx (f : VR) (s : State) : Host.Outcome State Fault Refusal :=
  s.issue { (vrInfo f true false) with cross := [f.va.toNat] } fun cx =>
    s.readAcross cx (lanesOf cx.f.exec) (fun l => [(f.va.toNat, if f.ty = 14 then l / 8 else l / 4)]) <|
    let a := s.readV cx f.va.toNat
    let img := a.flatMap (leBytes 4)
    let scale := (cx.w.sreg f.vb.toNat).toNat % 256
    let code (l : Nat) : Nat :=
      if f.ty = 14 then (img.getD (l / 2) 0).toNat / 16 ^ (l % 2) % 16 else (img.getD l 0).toNat
    let rs := lanes.map fun l => dequantEl (fmtOf f.ty.toNat) f.rm.toNat scale (code l)
    s.floatDone cx [⟨f.vd.toNat, cx.f.exec, rs.map (·.1)⟩] fun l => (rs.getD l (0, 0)).2

/-! ## DECODE -/

/-- The variant that FN names (R355). -/
def Variant.ofFn : Nat → Variant
  | 0 => .bf16
  | 1 => .e4m3
  | 2 => .e5m2
  | 3 => .rlz
  | _ => .trit

/-- Bytes of a group's scratch from an address; a byte past it reads as 0, and the caller refuses a chunk that uses one. -/
def State.scratchBytes (s : State) (cx : Wcx) (a n : Nat) : List Byte :=
  (List.range n).map fun i =>
    if cx.g.scratch ≤ a + i then 0 else Mem.get s.mem (storePa cx.b (cx.g.scratchAddr (a + i)))

/-- The poison that a read of group scratch meets (R113, R218). -/
def State.scratchPoison (s : State) (cx : Wcx) (a n : Nat) : Option Raise :=
  if s.poisoned = [] then none else
  (List.range n).findSome? fun i =>
    if cx.g.scratch ≤ a + i then none else
    (s.readPoison (storePa cx.b (cx.g.scratchAddr (a + i))) 1).map fun r => { r with va := a + i }

/-- DECODE (R173, R356). A chunk takes at most 202 bytes of stream. -/
def execDecode (f : VR) (s : State) : Host.Outcome State Fault Refusal :=
  let sa := f.va.toNat % 64
  let v := Variant.ofFn f.fn.toNat
  s.issue { reads := [sReg sa], writes := [f.vd.toNat, sReg sa], barred := true } fun cx =>
    let b := (cx.w.sreg sa).toNat % 2 ^ 40
    if v = .trit && b % 8 != 0 then .raise s { cause := Cause.align, va := b / 8, access := accessByte 1 1 false }
    else
      let c := decodeChunk v (s.scratchBytes cx (b / 8) 202) (b % 8)
      let e := 8 * (b / 8) + c.next
      if 8 * cx.g.scratch < e then .raise s { cause := Cause.perm, va := b / 8, access := accessByte 1 1 false }
      else
        match s.scratchPoison cx (b / 8) ((e + 7) / 8 - b / 8) with
        | some r => .raise s r
        | none =>
          let out := lanes.map fun l => leNat ((c.out.drop (4 * l)).take 4)
          let bad := if v = .trit then c.bad else 0
          .done (s.setS cx sa (w64 ((if c.malformed then 2 ^ 63 else 0) + bad * 2 ^ 40 + e)))
            [⟨f.vd.toNat, cx.f.exec, out⟩] 0

end Sys2Proof.Machine
end

