-- ==== Sys2Proof/Machine/Memory.lean ====
section
/-! DEFINITION. Loads and stores of waves (R368, R369, R403), buffer records (R166 to R169), scratch (R370, R371, R404),
LDT (R372, R373), PREF (R389), SAMPLE (R170, R171, R398), scalar accesses (R396) and SXLAT (R397). -/

namespace Sys2Proof.Machine

open Sys2Proof

/-! ## Lane accesses -/

/-- The translated pieces of a lane's accesses. -/
abbrev Accs := List (List Piece)

/-- Each access of a lane is read: its bytes. -/
def Mu.readAccs (m : Mu) (l1 : Option (Nat × Nat × Nat)) (strong : Bool) : Accs → Except Raise (List (List Byte) × Mu)
  | [] => .ok ([], m)
  | ps :: rest =>
    match m.readAll l1 strong ps with
    | .error r => .error r
    | .ok (bs, m) =>
      match m.readAccs l1 strong rest with
      | .error r => .error r
      | .ok (bss, m) => .ok (bs :: bss, m)

/-- Each access of a lane is written. -/
def Mu.writeAccs (m : Mu) (l1 : Option (Nat × Nat × Nat)) (strong : Bool) (whole : List Nat) :
    Accs → List (List Byte) → Except Raise Mu
  | [], _ => .ok m
  | ps :: rest, bss =>
    match m.writeAll l1 strong whole ps (bss.headD []) with
    | .error r => .error r
    | .ok m => m.writeAccs l1 strong whole rest bss.tail

/-- The lanes' accesses are checked and translated (R212): the state, the pieces of the lanes that pass, and the causes of
those that fail. -/
def State.xlateLanes (s : State) (ls : List Nat) (xl : Nat → State → Except Raise (Accs × State)) :
    (State × List (Nat × Accs)) × List (Nat × Raise) :=
  laneLoop (fun l a => match xl l a.1 with
    | .error r => .error r
    | .ok (ps, s) => .ok (s, a.2 ++ [(l, ps)])) ls (s, [])

/-- A lane's pieces, or its cause. -/
def lanePlan (ok : List (Nat × Accs)) (errs : List (Nat × Raise)) (l : Nat) : Except Raise Accs :=
  match errs.find? fun e => e.1 == l with
  | some e => .error e.2
  | none => .ok (((ok.find? fun p => p.1 == l).map (·.2)).getD [])

/-- A lane load (R369): every lane of EXEC is checked, then read; `val` turns a lane's bytes into its components. `go` has
the state, whether an access fell on an RC or SO page (R141), and the lanes' components. -/
def State.loadForm (s : State) (cx : Wcx) (strong : Bool) (ch trec access : Nat)
    (xl : Nat → State → Except Raise (Accs × State)) (val : Nat → List (List Byte) → List Nat)
    (go : State → Bool → List (Nat × List Nat) → WRes) : WRes :=
  let ((s1, ok), errs) := s.xlateLanes (lanesOf cx.f.exec) xl
  let read (l : Nat) (m : Mu) : Except Raise (List Nat × Mu) :=
    match lanePlan ok errs l with
    | .error r => .error r
    | .ok ps =>
      match m.readAccs (some (cx.b, cx.g.part, ch)) strong ps with
      | .error r => .error r
      | .ok (bss, m) => .ok (val l bss, m)
  let ((m, vs), es) := cx.loadLanes (cx.mu s1) read
  m.settle cx s1 es trec access fun s => go s m.sync vs

/-- The sectors that the lanes' pieces cover whole together (R113). -/
def wholeSectors (ps : List Piece) : List Nat :=
  let secs := (ps.flatMap fun p => sectorsOf p.pa p.n).eraseDups
  secs.filter fun k => (List.range 64).all fun i => ps.any fun p => p.pa ≤ 64 * k + i && 64 * k + i < p.pa + p.n

/-- A lane store (R403): the lanes of EXEC that are no helper lanes are checked, then Release(`rel`) when it is a release
that R141 does not relax, then the writes in ascending lane order. `data` are a lane's bytes for each access, `term` its
store-hash terms (R163). -/
def State.storeForm (s : State) (cx : Wcx) (strong : Bool) (rel : Option Nat) (ch trec access : Nat)
    (xl : Nat → State → Except Raise (Accs × State)) (data : Nat → List (List Byte)) (term : Nat → W64) : WRes :=
  let ls := lanesOf cx.live
  let ((s1, ok), errs) := s.xlateLanes ls xl
  let all := ok.flatMap fun p => p.2.flatten
  let whole := if s.poisoned = [] then [] else wholeSectors all
  let s2 := match rel with
    | some sc => if errs = [] && all.any fun p => p.ord != 2 then s1.release cx.b sc else s1
    | none => s1
  let write (l : Nat) (m : Mu) : Except Raise Mu :=
    match lanePlan ok errs l with
    | .error r => .error r
    | .ok ps => m.writeAccs (some (cx.b, cx.g.part, ch)) strong whole ps (data l)
  let (m, es) := laneLoop write ls (cx.mu s2)
  m.settle cx s2 es trec access fun s => .done s [] (ls.foldl (fun a l => a + term l) 0)

/-! ## Buffer records -/

/-- A field of a buffer record (R166). -/
def brF (r : BitVec 320) (hi lo : Nat) : Nat := bitsOf r.toNat hi lo

/-- ENC of a record. -/
def brEnc (r : BitVec 320) : Nat := brF r 259 256
/-- Components of a record's element. -/
def brNc (r : BitVec 320) : Nat := 2 ^ brF r 261 260
/-- NX of a record. -/
def brNx (r : BitVec 320) : Nat := brF r 159 128

/-- The fields that every use of a record checks (R166). -/
def brOk (r : BitVec 320) : Bool :=
  brF r 261 260 != 3 && (!bitOf r.toNat 263 || brEnc r == 9) && brF r 265 264 ≤ 1 && brF r 271 268 == 0
    && brF r 319 304 == 0 && brEnc r ≤ 11 && (brEnc r < 9 || brF r 261 260 == 0)

/-- The record of an instruction, when its number is below the table's count and its fields hold (R166). -/
def Wcx.record (cx : Wcx) (n : Nat) : Option (BitVec 320) :=
  if cx.g.brn ≤ n then none else let r := cx.g.brecs.get n 0; if brOk r then some r else none

/-- Bytes of a code of an encoding; 1 stands for the nibble and the trit. -/
def encSize (enc : Nat) : Nat :=
  match enc with
  | 1 => 4
  | 2 => 2
  | 3 => 2
  | 8 => 2
  | _ => 1

/-- The format of a floating-point encoding. -/
def encFmt (enc : Nat) : Fmt :=
  match enc with
  | 2 => .f16
  | 3 => .bf16
  | 4 => .e4m3
  | _ => .e5m2

/-- A code as F32 (R168), for the encodings 1 to 8. -/
def encLoad (enc c : Nat) : Nat :=
  match enc with
  | 1 => c
  | 6 => (roundF32 ⟨false, c, 255, 0⟩).toNat
  | 7 => let i := sext 8 c
         if i < -127 then 0xBF800000 else (roundF32 ⟨i < 0, i.natAbs, 127, 0⟩).toNat
  | 8 => (roundF32 ⟨false, c, 65535, 0⟩).toNat
  | e => (convFloat .f32 0 false (.decode (encFmt e) c)).1

/-- RoundInt(Clamp(x, lo, 1) × k) of an F32 word, 0 for a NaN (R168): `signed` takes lo = −1. -/
def encUnit (signed : Bool) (k : Nat) (w : W32) : Int :=
  match f32Val w with
  | .nan _ => 0
  | v =>
    let one : FVal := .fin false 1 0
    let v := if ltVal one v then one else if signed then (if ltVal v one.neg then one.neg else v)
      else if v.sgn then .fin false 0 0 else v
    rneInt (mulVal v (.ofInt k)).1

/-- An F32 word as a code (R168), for the encodings 1 to 8. -/
def encStore (enc : Nat) (w : W32) : Nat :=
  match enc with
  | 1 => w.toNat
  | 6 => (encUnit false 255 w).toNat
  | 7 => wrap 8 (encUnit true 127 w)
  | 8 => (encUnit false 65535 w).toNat
  | e => (convFloat (encFmt e) 0 true (f32Val w)).1

/-- An element of an MXFP4 block (R72, R74, R168): `codes` are its 16 bytes, `side` its side list when it has one. -/
def mxfp4Elem (codes : List Byte) (scale : Nat) (side : Option (List Byte)) (e : Nat) : W32 :=
  let code (k : Nat) : Nat := (codes.getD (k / 2) 0).toNat / 16 ^ (k % 2) % 16
  let c := code e
  if scale = 0xFF then f32NaN
  else
    match side with
    | some bs =>
      if c = 8 then
        let n := ((List.range e).filter fun k => code k == 8).length
        if n < 4 then f32Of (.decode .bf16 (leNat ((bs.drop (2 * n)).take 2))) else 0
      else f32Of ((e2m1Val c).scale ((scale : Int) - 127))
    | none => f32Of ((e2m1Val c).scale ((scale : Int) - 127))

/-- An element of an MXFP8 block (R74, R168). -/
def mxfp8Elem (c scale : Nat) : W32 :=
  if scale = 0xFF then f32NaN else f32Of ((FVal.decode .e4m3 c).scale ((scale : Int) - 127))

/-- A weight of a T5 group under its BF16 scale (R75, R168); of a trit 0 under a negative scale −0 (DESIGN CHOICE, log entry
98). -/
def t5Elem (bs : List Byte) (scale e : Nat) : W32 :=
  f32Of (mulVal (.ofInt ((t5Group bs).1.getD e 0)) (.decode .bf16 scale)).1

/-- Bytes read one by one. -/
def byteAccs (a n : Nat) : List (Nat × Nat) := (List.range n).map fun k => (a + k, 1)

/-- The index that a record's bounds give on one axis of `n` (R169): none for no access; the cause of FAULT is the
caller's. A negative index, which R169 does not name, is out of bounds; CLAMP then takes an open index of the axis
(DESIGN CHOICE, log entry 25). -/
def boundIx (oob n : Nat) (i : Int) : Option Nat :=
  if 0 ≤ i && i < n then some i.toNat
  else if n = 0 then none
  else
    match oob with
    | 1 => some (if 0 ≤ i then n - 1 else Config.freeOf 1 i.natAbs n % n)
    | 2 => some (i % (n : Int)).toNat
    | _ => none

/-- What a lane of a record load or store does: no access and zeros, or accesses (address and length). -/
inductive RecPlan where
  | zero
  | at_ (i : Nat) (accs : List (Nat × Nat))

/-- The byte offset of element `i` (R169). -/
def brOffset (r : BitVec 320) (size : Nat) (i : Int) : Int :=
  match brEnc r with
  | 0 => i * size
  | 9 => i / 2
  | 11 => i / 64 * 13 + i % 64 / 5
  | e => if bitOf r.toNat 262 then i * encSize e else i * (brNc r * encSize e : Nat)

/-- The accesses of element `i` of a record (R168, R169): `size` is SZ in bytes, for RAW. -/
def brAccs (r : BitVec 320) (size i : Nat) : List (Nat × Nat) :=
  let base := brF r 63 0
  let sbase := brF r 127 64
  match brEnc r with
  | 0 => [(base + i * size, size)]
  | 9 => byteAccs (base + 16 * (i / 32)) 16 ++ byteAccs (sbase + i / 32) 1
      ++ (if bitOf r.toNat 263 then byteAccs (sbase + brF r 303 272 + 8 * (i / 32)) 8 else [])
  | 10 => byteAccs (base + 32 * (i / 32)) 32 ++ byteAccs (sbase + i / 32) 1
  | 11 => byteAccs (base + 13 * (i / 64)) 13 ++ byteAccs (sbase + 2 * (i / 64)) 2
  | e =>
    if bitOf r.toNat 262 then (List.range (brNc r)).map fun c => (base + c * brF r 255 224 + i * encSize e, encSize e)
    else [(base + i * brNc r * encSize e, brNc r * encSize e)]

/-- The plan of lane `l` of a record access (R167, R169). -/
def State.recPlan (s : State) (cx : Wcx) (f : FM) (r : BitVec 320) (l : Nat) (store : Bool) : Except Raise RecPlan :=
  let size := szBytes f.sz.toNat
  let i : Int := (s.readV cx f.va.toNat).getD l 0 + f.off.toInt
  let oob := brF r 267 266
  if 0 ≤ i && i < brNx r then .ok (.at_ i.toNat (brAccs r size i.toNat))
  else if oob = 3 then
    .error { cause := Cause.perm, va := wrap 64 (brF r 63 0 + brOffset r size i) }
  else if store then .ok .zero
  else
    match boundIx oob (brNx r) i with
    | some k => .ok (.at_ k (brAccs r size k))
    | none => .ok .zero

/-- The accesses of a plan translated (R167: weak, by virtual address). -/
def State.planAccs (s : State) (cx : Wcx) (acc : Acc) : RecPlan → Except Raise (Accs × State)
  | .zero => .ok ([], s)
  | .at_ _ as =>
    foldE (fun (p : Accs × State) a =>
      match p.2.vaPieces cx a.1 a.2 false acc with
      | .error r => .error r
      | .ok (ps, s) => .ok (p.1 ++ [ps], s)) as ([], s)

/-- The components of element `i` from the bytes of its accesses (R168). -/
def brVals (r : BitVec 320) (sx : Bool) (size i : Nat) (bss : List (List Byte)) : List Nat :=
  let bs := bss.flatten
  match brEnc r with
  | 0 => [loadExt sx size (leNat bs)]
  | 9 => [(mxfp4Elem (bs.take 16) ((bs.getD 16 0).toNat)
      (if bitOf r.toNat 263 then some (bs.drop 17) else none) (i % 32)).toNat]
  | 10 => [(mxfp8Elem ((bs.getD (i % 32) 0).toNat) ((bs.getD 32 0).toNat)).toNat]
  | 11 => [(t5Elem (bs.take 13) (leNat (bs.drop 13)) (i % 64)).toNat]
  | e => (List.range (brNc r)).map fun c => encLoad e (leNat ((bs.drop (c * encSize e)).take (encSize e)))

/-- The value of lane `l` of a record load, from its plan. -/
def State.recVals (s : State) (cx : Wcx) (f : FM) (r : BitVec 320) (l : Nat) (bss : List (List Byte)) : List Nat :=
  match s.recPlan cx f r l false with
  | .ok (.at_ i _) => brVals r (f.fn.getLsbD 0) (szBytes f.sz.toNat) i bss
  | _ => []

/-- The bytes of lane `l` of a record store (R168), for each access: components in VD and the registers after it. -/
def State.recData (s : State) (cx : Wcx) (f : FM) (r : BitVec 320) (l : Nat) : List (List Byte) :=
  if brEnc r = 0 then
    let n := szBytes f.sz.toNat
    [leBytes n (s.laneData cx f.vd.toNat n l)]
  else
    let cs := (List.range (brNc r)).map fun c =>
      leBytes (encSize (brEnc r)) (encStore (brEnc r) (w32 ((s.readV cx (f.vd.toNat + c)).getD l 0)))
    if bitOf r.toNat 262 then cs else [cs.flatten]

/-- A record may be used by a load or store with a size code (R167, R168). -/
def recUsable (r : BitVec 320) (sz : Nat) (store : Bool) : Bool :=
  (brEnc r == 0 || szBytes sz == 4 * brNc r) && !(store && 9 ≤ brEnc r)

/-- The ILLEGAL of a record access (R166 to R168, R305), which comes before what its registers hold. -/
def State.recRefused (s : State) (f : FM) (ok : Wcx → BitVec 320 → Bool) : Bool :=
  s.wcx.any fun cx => !(cx.record f.brx.toNat).any (ok cx)

/-! ## LD and ST -/

/-- Registers that VD names by SZ (R313). -/
def szRegsOf (sz : Nat) : Nat := if sz = 3 then 2 else if sz = 4 then 4 else 1

/-- The registers of the address operand of format M. -/
def fmAddr (f : FM) : List Nat :=
  if f.am = 1 then vRegs f.va.toNat 2 else f.va.toNat :: (if f.brx = 0xFF then [bReg f.tb.toNat] else [])

/-- LD (R368, R369). -/
def execLd (f : FM) (s : State) : Host.Outcome State Fault Refusal :=
  let n := szBytes f.sz.toNat
  let strong := f.st != 0
  let trec := f.brx.toNat
  let i : WInfo :=
    { reads := fmAddr f, writes := vRegs f.vd.toNat (szRegsOf f.sz.toNat), barred := strong,
      illegal := trec != 0xFF && s.recRefused f fun _ r => recUsable r f.sz.toNat false }
  let access := accessByte 1 n strong
  s.issue i fun cx =>
    let go (s : State) (sync : Bool) (vs : List (Nat × List Nat)) : WRes :=
      let s := if f.st = 2 && sync then s.acquire cx.b f.sc.toNat else s
      .done s (laneRes f.vd.toNat cx.f.exec n (lanes.map fun l => laneVal vs 0 l)) 0
    if trec = 0xFF then
      let xl (l : Nat) (s : State) : Except Raise (Accs × State) := (s.lanePieces cx f l strong .read).map fun p => ([p.1], p.2)
      let val (_ : Nat) (bss : List (List Byte)) : List Nat := [loadExt (f.fn.getLsbD 0) n (leNat bss.flatten)]
      s.loadForm cx strong f.ch.toNat trec access xl val go
    else
      match cx.record trec with
      | none => .raise s (raiseOf Cause.illegal)
      | some r =>
        let xl (l : Nat) (t : State) : Except Raise (Accs × State) :=
          match s.recPlan cx f r l false with
          | .error e => .error e
          | .ok p => t.planAccs cx .read p
        s.loadForm cx false f.ch.toNat trec access xl (fun l bss => s.recVals cx f r l bss) fun s' _ vs =>
          if brEnc r = 0 then .done s' (laneRes f.vd.toNat cx.f.exec n (lanes.map fun l => laneVal vs 0 l)) 0
          else .done s' ((List.range (brNc r)).map fun c =>
            ⟨f.vd.toNat + c, cx.f.exec, lanes.map fun l => laneVal vs c l⟩) 0

/-- ST (R403). -/
def execSt (f : FM) (s : State) : Host.Outcome State Fault Refusal :=
  let n := szBytes f.sz.toNat
  let strong := f.st != 0
  let trec := f.brx.toNat
  let i : WInfo :=
    { reads := fmAddr f ++ vRegs f.vd.toNat (szRegsOf f.sz.toNat), barred := strong,
      illegal := trec != 0xFF && s.recRefused f fun _ r => recUsable r f.sz.toNat true }
  let access := accessByte 2 n strong
  let rel := if f.st = 3 then some f.sc.toNat else none
  s.issue i fun cx =>
    if trec = 0xFF then
      let bytes (l : Nat) : List Byte := leBytes n (s.laneData cx f.vd.toNat n l)
      s.storeForm cx strong rel f.ch.toNat trec access
        (fun l t => (t.lanePieces cx f l strong .write).map fun p => ([p.1], p.2))
        (fun l => [bytes l]) (fun l => storeTerms cx.g.seed (s.laneVa cx f l) (bytes l))
    else
      match cx.record trec with
      | none => .raise s (raiseOf Cause.illegal)
      | some r =>
        let plan (l : Nat) := s.recPlan cx f r l true
        let xl (l : Nat) (t : State) : Except Raise (Accs × State) :=
          match plan l with
          | .error e => .error e
          | .ok p => t.planAccs cx .write p
        let term (l : Nat) : W64 := match plan l with
          | .ok (.at_ _ as) => ((as.zip (s.recData cx f r l)).foldl
              (fun a p => a + storeTerms cx.g.seed (p.1.1 % 2 ^ 64) p.2) 0)
          | _ => 0
        s.storeForm cx false none f.ch.toNat trec access xl (fun l => s.recData cx f r l) term

/-! ## Scratch -/

/-- The space of LDS and STS (R56). -/
def fmSpace (f : FM) : Nat := f.fn.toNat / 2

/-- A lane's bench-store address (R56) and its poison: the cause when it may not be reached. -/
def State.scratchLane (s : State) (cx : Wcx) (f : FM) (l : Nat) (write : Bool) : Except Raise Nat :=
  let n := szBytes f.sz.toNat
  let a := s.spaceLane cx f l
  match s.spaceAddr cx (fmSpace f) a n with
  | .error r => .error r
  | .ok x =>
    match if write then s.writePoison (storePa cx.b x) n else s.readPoison (storePa cx.b x) n with
    | some r => .error { r with va := a + r.va }
    | none => .ok x

/-- The registers that LDS reads in REG space: the rows that its lanes address (R57), but for lanes that read none. -/
def State.ldsRows (s : State) (f : FM) : List Nat :=
  match s.wcx with
  | none => []
  | some cx =>
    if fmSpace f = 1 then (lanesOf cx.f.exec).filterMap fun l => match s.scratchLane cx f l false with
      | .ok _ => some (s.spaceLane cx f l / 128)
      | .error _ => none
    else []

/-- LDS (R370, R371). -/
def execLds (f : FM) (s : State) : Host.Outcome State Fault Refusal :=
  let n := szBytes f.sz.toNat
  let strong := f.st != 0
  let i : WInfo :=
    { reads := [f.va.toNat], writes := vRegs f.vd.toNat (szRegsOf f.sz.toNat), barred := strong, rows := s.ldsRows f }
  s.issue i fun cx =>
    let read (l : Nat) (vs : List (Nat × Nat)) : Except Raise (List (Nat × Nat)) :=
      match s.scratchLane cx f l false with
      | .ok x => .ok (vs ++ [(l, loadExt (f.fn.getLsbD 0) n (leNat (Mem.read s.mem (storePa cx.b x) n)))])
      | .error r => if cx.w.helper.getLsbD l then .ok vs else .error r
    let (vs, errs) := laneLoop read (lanesOf cx.f.exec) []
    match laneRaise errs 0xFF (accessByte 1 n strong) with
    | some r => .raise s r
    | none =>
      let s := if f.st = 2 then s.acquire cx.b f.sc.toNat else s
      .done s (laneRes f.vd.toNat cx.f.exec n
        (lanes.map fun l => ((vs.find? fun p => p.1 == l).map (·.2)).getD 0)) 0

/-- STS (R404): its terms are those of GROUP and BENCH space (R163). -/
def execSts (f : FM) (s : State) : Host.Outcome State Fault Refusal :=
  let n := szBytes f.sz.toNat
  let strong := f.st != 0
  let reg := fmSpace f == 1
  s.issue { reads := f.va.toNat :: vRegs f.vd.toNat (szRegsOf f.sz.toNat), barred := strong || reg } fun cx =>
    let check (l : Nat) (as : List (Nat × Nat)) : Except Raise (List (Nat × Nat)) :=
      (s.scratchLane cx f l true).map fun x => as ++ [(l, x)]
    let (as, errs) := laneLoop check (lanesOf cx.live) []
    match laneRaise errs 0xFF (accessByte 2 n strong) with
    | some r => .raise s r
    | none =>
      let s1 := if f.st = 3 then s.release cx.b f.sc.toNat else s
      let bytes (l : Nat) : List Byte := leBytes n (s.laneData cx f.vd.toNat n l)
      let s2 := as.foldl (fun t p =>
        { t with mem := Mem.write t.mem (storePa cx.b p.2) (bytes p.1) }) s1
      let s3 := if reg then s2.modWave cx.b cx.slot fun w =>
          { w with oc := w.oc.filter fun r => !as.any fun p => s.spaceLane cx f p.1 / 128 == r } else s2
      let terms := if reg then 0 else
        as.foldl (fun a p => a + storeTerms cx.g.seed (s.spaceLane cx f p.1) (bytes p.1)) 0
      .done s3 [] terms

/-- LDT (R172, R372, R373). -/
def execLdt (f : FM) (s : State) : Host.Outcome State Fault Refusal :=
  let n := szBytes f.sz.toNat
  let sn := f.tb.toNat
  s.issue { reads := [sReg sn], writes := vRegs f.vd.toNat (if n = 4 then 2 else 1) } fun cx =>
    let v := (cx.w.sreg sn).toNat
    let a := v % 2 ^ 32
    let p := v / 2 ^ 32
    let access := accessByte 1 n false
    if a % (4 * n) != 0 || p % (4 * n) != 0 then .raise s { cause := Cause.align, va := a, access := access }
    else
      match (List.range 16).find? fun r => cx.g.past (a + r * p) (4 * n) with
      | some r => .raise s { cause := Cause.perm, va := a + r * p, access := access }
      | none =>
        match (List.range 16).findSome? fun r => s.scratchPoison cx (a + r * p) (4 * n) with
        | some r => .raise s { r with access := access }
        | none =>
          let el (t : Nat) : Nat := leNat (s.scratchBytes cx (a + t % 16 * p + t / 16 * n) n)
          let k := 4 / n
          let reg (j : Nat) : List Nat := lanes.map fun l =>
            (List.range k).foldl (fun x e => x + el (k * (32 * j + l) + e) * 2 ^ (8 * n * e)) 0
          let m := if n = 1 then cx.f.exec &&& 0xFFFF else cx.f.exec
          .done s ((List.range (if n = 4 then 2 else 1)).map fun j => ⟨f.vd.toNat + j, m, reg j⟩) 0

/-! ## Prefetch, sampling -/

/-- A lane's prefetch (R389): the sector that holds its address is requested; a lane that cannot is dropped. -/
def State.prefetchLane (s : State) (cx : Wcx) (f : FM) (l : Nat) : State :=
  let off : Int := f.off.toInt * szBytes f.sz.toNat
  let ps := if f.am = 1 then s.vaPieces cx (wrap 64 ((s.readPair cx f.va.toNat).getD l 0 + off)) 1 false .read
    else s.trPieces cx f.tb.toNat (wrap 32 ((s.readV cx f.va.toNat).getD l 0 + off)) 1 false .read
  match ps with
  | .error _ => s
  | .ok ([p], t) =>
    let sec := p.pa / 64 * 64
    if f.fn = 1 then
      match t.place p.pa with
      | .view _ => t.fillViews sec [sec % 2 ^ 44 / 64]
      | _ => t
    else if p.ord = 1 || !t.cacheable p.pa then t
    else
      match t.l1Read cx.b cx.g.part f.ch.toNat sec 64 p.nc with
      | .ok (_, u) => u
      | .error r => t.notePoison r.cause
  | .ok (_, t) => t

/-- PREF (R389). -/
def execPref (f : FM) (s : State) : Host.Outcome State Fault Refusal :=
  s.issue { reads := fmAddr f } fun cx =>
    .done ((lanesOf cx.live).foldl (fun t l => t.prefetchLane cx f l) s) [] 0

/-- The texel indices of one axis of SAMPLE with their weights (R171): `v` is a finite coordinate. -/
def axisTaps (bilinear : Bool) (v : FVal) : List (Int × Nat) :=
  match v with
  | .fin n m e =>
    let k := max 1 (-e).toNat
    let x : Int := (if n then -1 else 1) * (m * 2 ^ (e + k).toNat : Nat)
    let one : Int := (2 ^ k : Nat)
    if !bilinear then [(x / one, 1)]
    else
      let y := x - (2 ^ (k - 1) : Nat)
      let i0 := y / one
      let w := (y % one * 256 / one).toNat
      ([(i0, 256 - w), (i0 + 1, w)]).filter fun t => t.2 != 0
  | _ => []

/-- The accesses of a texel (R170): none for one that OOB makes zero; the cause of OOB = FAULT. -/
def texelAccs (r : BitVec 320) (i j : Int) : Except Raise (Option (List (Nat × Nat))) :=
  let size := encSize (brEnc r)
  let ilv := bitOf r.toNat 262
  let nc := brNc r
  let base := brF r 63 0
  let nx := brNx r
  let ny := brF r 191 160
  let oob := brF r 267 266
  let outside := !(0 ≤ i && i < nx && 0 ≤ j && j < ny)
  if outside && oob = 3 then
    .error { cause := Cause.perm,
             va := wrap 64 (base + j * brF r 223 192 + i * ((if ilv then 1 else nc) * size : Nat)) }
  else
    match boundIx oob nx i, boundIx oob ny j with
    | some i, some j =>
      .ok (some (if ilv then (List.range nc).map fun c => (base + c * brF r 255 224 + j * brF r 223 192 + i * size, size)
        else [(base + j * brF r 223 192 + i * nc * size, nc * size)]))
    | _, _ => .ok none

/-- The weighted taps of a lane of SAMPLE (R171): texel and weight. -/
def sampleTaps (r : BitVec 320) (x y : FVal) : List (Int × Int × Nat) :=
  let bil := brF r 265 264 == 1
  (axisTaps bil y).flatMap fun ty => (axisTaps bil x).map fun tx => (tx.1, ty.1, tx.2 * ty.2)

/-- The accesses of a lane of SAMPLE, tap by tap; a texel that counts as 0 has none. -/
def tapAccs (r : BitVec 320) : List (Int × Int × Nat) → Except Raise (List (Nat × List (Nat × Nat)))
  | [] => .ok []
  | t :: ts =>
    match texelAccs r t.1 t.2.1 with
    | .error e => .error e
    | .ok as =>
      match tapAccs r ts with
      | .error e => .error e
      | .ok rest => .ok ((t.2.2, as.getD []) :: rest)

/-- The weighted sum of one component (R171), before its rounding: texel values with their weights. -/
def weigh (bilinear : Bool) (ts : List (Nat × FVal)) : FVal :=
  let term (t : Nat × FVal) : FVal := (mulVal (.ofInt t.1) t.2).1
  match ts with
  | [] => .fin false 0 0
  | t :: rest =>
    if !bilinear then t.2
    else (rest.foldl (fun a u => (addVal 0 a (term u)).1) (term t)).scale (-16)

/-- The components of a lane of SAMPLE from the bytes of its taps' accesses. -/
def sampleVals (r : BitVec 320) (taps : List (Nat × List (Nat × Nat))) (bss : List (List Byte)) : List Nat :=
  let bil := brF r 265 264 == 1
  let size := encSize (brEnc r)
  -- each tap's bytes, in the order of its accesses
  let rec split : List (Nat × List (Nat × Nat)) → List (List Byte) → List (Nat × List Byte)
    | [], _ => []
    | t :: ts, bss => (t.1, (bss.take t.2.length).flatten) :: split ts (bss.drop t.2.length)
  let parts := split taps bss
  (List.range (brNc r)).map fun c =>
    let vals := parts.map fun p =>
      (p.1, if p.2 = [] then FVal.fin false 0 0
        else f32Val (w32 (encLoad (brEnc r) (leNat ((p.2.drop (c * size)).take size)))))
    (f32Of (weigh bil vals)).toNat

/-- The ILLEGALs of SAMPLE that its record shows (R170, R48, R61): its encoding, and the registers of VD. -/
def Wcx.sampleOk (cx : Wcx) (f : FM) (r : BitVec 320) : Bool :=
  let nc := brNc r
  brEnc r != 0 && brEnc r ≤ 8 && f.vd.toNat % nc == 0 && f.vd.toNat + nc ≤ cx.w.regs
    && !(cx.f.win.left != 0 && (vRegs f.vd.toNat nc).any fun n => cx.f.win.reads.contains n)

/-- SAMPLE (R170, R171, R398). -/
def execSample (f : FM) (s : State) : Host.Outcome State Fault Refusal :=
  let trec := f.brx.toNat
  s.issue { reads := vRegs f.va.toNat 2, illegal := s.recRefused f fun cx r => cx.sampleOk f r } fun cx =>
    match cx.record trec with
    | none => .raise s (raiseOf Cause.illegal)
    | some r =>
      let nc := brNc r
      let xs := s.readV cx f.va.toNat
      let ys := s.readV cx (f.va.toNat + 1)
      let coord (l : Nat) : FVal × FVal := (f32Val (w32 (xs.getD l 0)), f32Val (w32 (ys.getD l 0)))
      let taps (l : Nat) : Except Raise (List (Nat × List (Nat × Nat))) :=
        let (x, y) := coord l
        if x.isFin && y.isFin then tapAccs r (sampleTaps r x y) else .ok []
      let xl (l : Nat) (t : State) : Except Raise (Accs × State) :=
        match taps l with
        | .error e => .error e
        | .ok ts => t.planAccs cx .read (.at_ 0 (ts.flatMap (·.2)))
      let val (l : Nat) (bss : List (List Byte)) : List Nat :=
        let (x, y) := coord l
        if !(x.isFin && y.isFin) then List.replicate nc Fmt.f32.defNaN
        else match taps l with
          | .ok ts => sampleVals r ts bss
          | .error _ => []
      s.loadForm cx false f.ch.toNat trec (accessByte 1 (encSize (brEnc r)) false) xl val fun s' _ vs =>
        .done s' ((List.range nc).map fun c =>
          ⟨f.vd.toNat + c, cx.f.exec, lanes.map fun l => laneVal vs c l⟩) 0

/-! ## Scalar accesses -/

/-- The address, size, kind and scope of SLD and SST (R396). -/
def Wcx.scalarVa (cx : Wcx) (f : FS) : Nat := (cx.w.sreg f.sa.toNat + f.imm.signExtend 64).toNat
/-- The size of SLD and SST (R396). -/
def smSize (f : FS) : Nat := 2 ^ (f.fn.toNat % 4)
/-- ST of SLD and SST (R396). -/
def smKind (f : FS) : Nat := f.fn.toNat / 4

/-- What the one access of SLD and SST comes to: a fault has LANEMASK 0. -/
def Wcx.scalarRaise (cx : Wcx) (s : State) (kind : Nat) (f : FS) (r : Raise) : WRes :=
  .raise ((cx.mu s).ended cx s)
    { r with lanes := 0, access := accessByte kind (smSize f) (smKind f != 0) }

/-- SLD (R396). -/
def execSld (f : FS) (s : State) : Host.Outcome State Fault Refusal :=
  let n := smSize f
  let strong := smKind f != 0
  s.issue { reads := [sReg f.sa.toNat], writes := [sReg f.sd.toNat], barred := strong } fun cx =>
    let va := cx.scalarVa f
    if va % n != 0 then cx.scalarRaise s 1 f { cause := Cause.align, va := va }
    else
      match s.vaPieces cx va n strong .read with
      | .error r => cx.scalarRaise s 1 f r
      | .ok (ps, s1) =>
        match (cx.mu s1).readAll (some (cx.b, cx.g.part, 0)) strong ps with
        | .error r => cx.scalarRaise s1 1 f r
        | .ok (bs, m) =>
          m.settle cx s1 [] 0xFF 0 fun s2 =>
            let s2 := s2.setS cx f.sd.toNat (w64 (leNat bs))
            .done (if smKind f = 2 && m.sync then s2.acquire cx.b f.sb.toNat else s2) [] 0

/-- SST (R396): it adds no store-hash term (R163). -/
def execSst (f : FS) (s : State) : Host.Outcome State Fault Refusal :=
  let n := smSize f
  let strong := smKind f != 0
  s.issue { reads := [sReg f.sa.toNat, sReg f.sd.toNat], barred := strong } fun cx =>
    let va := cx.scalarVa f
    if va % n != 0 then cx.scalarRaise s 2 f { cause := Cause.align, va := va }
    else
      match s.vaPieces cx va n strong .write with
      | .error r => cx.scalarRaise s 2 f r
      | .ok (ps, s1) =>
        let s2 := if smKind f = 3 && ps.any fun p => p.ord != 2 then s1.release cx.b f.sb.toNat else s1
        match (cx.mu s2).writeAll (some (cx.b, cx.g.part, 0)) strong [] ps (leBytes n (cx.w.sreg f.sd.toNat).toNat) with
        | .error r => cx.scalarRaise s2 2 f r
        | .ok m => m.settle cx s2 [] 0xFF 0 fun s3 => .done s3 [] 0

/-- What SXLAT finds (R397, R50): the register, whether its page is NC (R126), and its page. -/
structure Sxlat where
  reg : BitVec 192
  nc : Bool := false
  page : Nat × Nat := (0, 0)

/-- The translation register that SXLAT writes for an address (R397, R50), and the state with the walk's A and D bits. -/
def State.sxlat (s : State) (cx : Wcx) (va : Nat) : Sxlat × State :=
  let d := s.desc cx.g.ctx
  let none_ : Sxlat × State := ({ reg := BitVec.ofNat 192 va }, s)
  if !canonical va then none_
  else
    match s.walk (dieOf cx.b) (va % 2 ^ 57) 5 d.root with
    | .error _ => none_
    | .ok (pte, pa, lv) =>
      let x := leafXlat s.pageAttr pte lv (va % 2 ^ 57)
      if s.place x.pa = .nowhere then none_
      else
        let wr := permits true pte .write
        let pte' := pte ||| 64 ||| (if wr then 128 else 0)
        let (pte', s) := if pte' = pte then (pte, s) else match s.setAD pa pte' with
          | .ok s => (pte', s)
          | .error _ => (pte, s)
        -- an access through the register needs A, and D for a write, set (R127)
        let rd := permits true pte .read && bitOf pte' 6
        let wr := wr && bitOf pte' 6 && bitOf pte' 7
        let n := (leafPages lv (bitOf pte 63) (ptePpn pte)).getD 1
        -- device registers are strongly ordered whatever the mapping states (R107)
        let ord := if deviceBase ≤ x.pa % 2 ^ 44 then 1 else x.ord
        let size := 2 ^ d.pvsl
        let base := d.pvbase + (32 * cx.b + cx.slot) * size
        let inPriv := base ≤ va && va < base + size
        let o := va - base
        let hwm := 4096 * d.hwmp
        let lim := min x.left 0xFFFFFFFF
        let lim := if inPriv && o < hwm then min lim (hwm - o) else lim
        let v := !(inPriv && hwm ≤ o)
        let bit (b : Bool) (k : Nat) : Nat := if b then 2 ^ k else 0
        ({ reg := BitVec.ofNat 192 (va + x.pa % 2 ^ 56 * 2 ^ 64 + bit v 120 + bit rd 121 + bit wr 122
             + ord * 2 ^ 123 + bit x.pz 125 + lim * 2 ^ 128),
           nc := x.nc, page := (va % 2 ^ 57 / 4096 / n * n, n) }, s)

/-- SXLAT (R397). -/
def execSxlat (f : FS) (s : State) : Host.Outcome State Fault Refusal :=
  s.issue { reads := sReads f, writes := [bReg f.sd.toNat] } fun cx =>
    let va := (cx.w.sreg f.sa.toNat + cx.sB f).toNat
    let (x, s1) := s.sxlat cx va
    let n := f.sd.toNat
    let put (g : Group) : Group :=
      { g with trans := g.trans.set n x.reg, transNc := g.transNc.filter (· != n) ++ (if x.nc then [n] else []),
               transPages := g.transPages.set n x.page }
    .done (s1.modGroup cx.b cx.w.group put) [] 0

end Sys2Proof.Machine
end

