-- ==== Sys2Proof/Machine/Atomic.lean ====
section
/-! DEFINITION. Atomics of waves (R333 to R336, with the gate of R162 and remote targets of R269), semaphores (R399,
R400), FENCE (R149, R362), timelines (R408, R409) and TRIG (R411). -/

namespace Sys2Proof.Machine

open Sys2Proof

/-! ## ATOM and ATOMS

While an ATOM is not complete, its fragment's `codes` hold, by number: 0 to 31 the old value of a lane that was performed
and has not written VD; 64 the RIDX of a gate that failed; 65 that the instruction was issued; 66 that a lane lies on an RC
or SO page, and 67 that one lies on an SO page; 96 + l that lane l was performed and wrote VD before the instruction faulted;
128 + l the physical address of lane l, which has not started. -/

/-- Bytes of an atomic (R333). -/
def faBytes (f : FA) : Nat := 4 * 2 ^ f.sz.toNat

/-- The registers of an operand of an atomic (R334). -/
def faRegs (f : FA) (n : Nat) : List Nat := vRegs n (faBytes f / 4)

/-- The operand b and compare value c of lane `l`. -/
def State.faOps (s : State) (cx : Wcx) (f : FA) (l : Nat) : Nat × Nat :=
  (s.laneData cx f.vb.toNat (faBytes f) l, if f.fn = 1 then s.laneData cx f.vc.toNat (faBytes f) l else 0)

/-- The address of lane `l` (AtomAddr, R335), as its store term names it (R163). -/
def State.atomVa (s : State) (cx : Wcx) (f : FA) (l : Nat) : Nat :=
  if f.am = 1 then (s.readPair cx f.va.toNat).getD l 0
  else ((cx.g.trans.get f.tb.toNat 0).toNat % 2 ^ 64 + (s.readV cx f.va.toNat).getD l 0) % 2 ^ 64

/-- The checks of R158 and R336 for lane `l` of ATOM: its piece. -/
def State.atomPiece (s : State) (cx : Wcx) (f : FA) (l : Nat) : Except Raise (Piece × State) :=
  let n := faBytes f
  let r := if f.am = 1 then s.vaPieces cx ((s.readPair cx f.va.toNat).getD l 0) n true .atomic
    else s.trPieces cx f.tb.toNat ((s.readV cx f.va.toNat).getD l 0) n true .atomic
  match r with
  | .error e => .error e
  | .ok ([p], s) =>
    let bad (c : Nat) : Except Raise (Piece × State) := .error { cause := c, va := p.va }
    match s.place p.pa with
    | .device => bad Cause.perm
    | .store _ _ => bad Cause.perm
    | .remote pkg =>
      match s.linkTo (dieOf cx.b) pkg with
      | some c => bad c
      | none => .ok (p, s)
    | _ =>
      match s.reachAll (dieOf cx.b) p.pa n with
      | some c => bad c
      | none =>
        let ks := sectorsOf (p.pa % 2 ^ 44) n
        let t := s.fillViews p.pa ks
        match t.readPoison (p.pa % 2 ^ 44) n with
        | some r => .error { s.fillRaise t ks r with va := p.va + r.va }
        | none => .ok (p, t)
  | .ok (_, _) => .error { cause := Cause.align, va := s.atomVa cx f l }

/-- The terms of a lane that was performed with old value `x` (R163): none when it wrote nothing. -/
def State.atomTerm (s : State) (cx : Wcx) (f : FA) (a l x : Nat) : W64 :=
  let (b, c) := s.faOps cx f l
  match atomNew f.fn.toNat (faBytes f) x b c with
  | some v => storeTerms cx.g.seed a (leBytes (faBytes f) v)
  | none => 0

/-- Lanes grouped by the line of their target, in order of each line's first lane (R335); in lane order when one lies on
an SO page (R141). -/
def requestOrder (ps : List (Nat × Piece)) : List (Nat × Piece) :=
  if ps.any fun p => p.2.ord == 1 then ps
  else ((ps.map fun p => p.2.pa / 256).eraseDups).flatMap fun k => ps.filter fun p => p.2.pa / 256 == k

/-- One lane of ATOM starts (R335): performed and perhaps recorded (R161), held by the gate (R162), or sent to another
package (R269). -/
def State.atomStart (s : State) (cx : Wcx) (f : FA) (l : Nat) (p : Piece) : State :=
  let n := faBytes f
  let (b, c) := s.faOps cx f l
  let who : Agent := .frag cx.b cx.slot cx.e
  match s.place p.pa with
  | .remote pkg =>
    s.ask who l { requestFlit flitAT 0 pkg s.dev.fabric.pkgid
      (if f.fn = 1 then 2 * n else n) f.fn.toNat f.sz.toNat p.pa
      (leBytes n b ++ (if f.fn = 1 then leBytes n c else [])) with tag := 0 }
  | _ =>
    let s := s.strongL1 cx.b p.pa n
    let die := (s.homeDie p.pa).getD 0
    let a := (s.die die).arb
    if a.mode = 2 && a.ctx = cx.g.ctx then
      s.modArb die fun a => { a with held := a.held ++
        [{ who := who, grid := cx.g.launch, group := cx.g.groupId, wave := cx.w.index, pc := cx.f.pc, lane := l,
           pa := p.pa, va := w64 p.va, op := f.fn.toNat, size := n, b := b, c := c, aq := f.st.toNat,
           since := s.dev.ptc.ptc }] }
    else
      let (x, s) := s.atomAt p.pa n f.fn.toNat b c
      let s := if a.mode = 1 && a.ctx = cx.g.ctx then
        s.recordAtomic die cx.b cx.g.ctx p.pa cx.g.launch cx.g.groupId cx.w.index else s
      s.modFrag cx.b cx.slot cx.e fun f => { f with codes := f.codes.set l x }

/-- What became of a lane of an issued ATOM. -/
inductive LaneState where
  | later (pa : Nat)
  | performed (x : Nat)
  | pending (gate : Bool)
  | failed (r : Raise)

/-- What became of lane `l`. -/
def State.laneState (s : State) (cx : Wcx) (f : FA) (fr : Frag) (l : Nat) : LaneState :=
  let who : Agent := .frag cx.b cx.slot cx.e
  match fr.codes.get? (128 + l), fr.codes.get? l with
  | some pa, _ => .later pa
  | none, some x => .performed x
  | none, none =>
    match s.asked who l with
    | some r =>
      match r.resp with
      | none => .pending false
      | some (0, bs) => .performed (leNat bs)
      | some (sts, _) => .failed { cause := stsCause sts, va := s.atomVa cx f l }
    | none =>
      if (List.range 2).any fun d => (s.die d).arb.held.any fun h => h.who == who && h.lane == l then .pending true
      else .failed { cause := Cause.orderGate, va := s.atomVa cx f l, aux := fr.codes.get 64 0 }

/-- A lane that another package refused (R269): one of the causes that R336 gives no effect in any lane. -/
def LaneState.refused (x : LaneState) : Bool :=
  match x with
  | .failed r => [Cause.perm, Cause.poison, Cause.align].contains r.cause
  | _ => false

/-- A lane whose atomic is out: asked for, or held. -/
def LaneState.isOut (x : LaneState) : Bool :=
  match x with
  | .pending _ => true
  | _ => false

/-- Whether a lane that has not started may start now, those of the instruction being as `st` says (R158, R335, R336,
R269; log entry 14): with a lane on an SO page when every lane before it was performed (R141); otherwise a lane of another
package when no lane before it is out at the same location, and a local lane when every lane of another package has its
response. None once another package has refused a lane. -/
def State.mayStart (s : State) (so : Bool) (st : List (Nat × LaneState × Nat)) (l pa : Nat) : Bool :=
  let away (a : Nat) : Bool := match s.place a with
    | .remote _ => true
    | _ => false
  let waits (x : LaneState) : Bool := x.isOut || match x with
    | .later _ => true
    | _ => false
  !st.any (fun p => p.2.1.refused) &&
    (if so then st.all fun p => l ≤ p.1 || match p.2.1 with
        | .performed _ => true
        | _ => false
     else if away pa then st.all fun p => l ≤ p.1 || p.2.2 != pa || !waits p.2.1
     else st.all fun p => !away p.2.2 || !waits p.2.1)

/-- The lanes of an issued ATOM that may start do, each as those before it have left things: lanes of other packages first,
then local ones by the line of their target; with a lane on an SO page all in ascending order. -/
def State.atomGo (s : State) (cx : Wcx) (f : FA) (ps : List (Nat × Piece)) : State :=
  let so := ps.any fun p => p.2.ord == 1
  let away (p : Nat × Piece) : Bool := match s.place p.2.pa with
    | .remote _ => true
    | _ => false
  let order := if so then ps else ps.filter away ++ requestOrder (ps.filter fun p => !away p)
  order.foldl (fun s p =>
    match s.frag? cx.b cx.slot cx.e with
    | none => s
    | some fr =>
      let st := ps.map fun q => (q.1, s.laneState cx f fr q.1, q.2.pa)
      match fr.codes.get? (128 + p.1) with
      | some _ =>
        if s.mayStart so st p.1 p.2.pa then
          (s.modFrag cx.b cx.slot cx.e fun x => { x with codes := x.codes.erase (128 + p.1) }).atomStart cx f p.1 p.2
        else s
      | none => s) s

/-- An issued ATOM goes on (R335, R336): it waits, completes, or raises. For a cause that R336 gives no effect in any lane it
writes no VD element and adds no term: what lanes of other packages gave is kept, so that none is performed again. For
ORDERGATE and FABTIMEOUT the lanes performed are written. -/
def State.atomFinish (s : State) (cx : Wcx) (f : FA) (ls : List Nat) : WRes :=
  match s.frag? cx.b cx.slot cx.e with
  | none => .own s
  | some fr =>
    let n := faBytes f
    let st := ls.map fun l => (l, s.laneState cx f fr l)
    let isPend (g : Bool) (p : Nat × LaneState) : Bool := match p.2 with
      | .pending k => k == g
      | _ => false
    let wait (w : Wait) : WRes := .stay (s.modFrag cx.b cx.slot cx.e fun f => { f with wait := some w })
    if st.any (isPend true) then wait .gate
    else if st.any (isPend false) then wait .remote
    else
      let good := st.filterMap fun p => match p.2 with
        | .performed x => some (p.1, x)
        | _ => none
      let refused := st.any fun p => p.2.refused
      let errs := st.filterMap fun p => match p.2 with
        | .failed r => if refused && !p.2.refused then none else some (p.1, r)
        | _ => none
      -- lanes that wait for one that failed are not performed either, and are executed again with it
      let late := st.filterMap fun p => match p.2 with
        | .later _ => some p.1
        | _ => none
      let errs := match errs with
        | [] => []
        | (_, r) :: _ => errs ++ (if refused then [] else late.map fun l => (l, { r with va := s.atomVa cx f l }))
      let sync := fr.codes.get 66 0 != 0
      let s := s.dropRemotes (.frag cx.b cx.slot cx.e)
      let wrote := fr.codes.filter fun p => 96 ≤ p.1 && p.1 < 128
      let terms := good.foldl (fun a p => a + s.atomTerm cx f (s.atomVa cx f p.1) p.1 p.2) 0
      let m := maskOf fun l => good.any fun p => p.1 == l
      let vs := laneRes f.vd.toNat m n (lanes.map fun l => ((good.find? fun p => p.1 == l).map (·.2)).getD 0)
      match laneRaise errs 0xFF (accessByte 11 n true) with
      | none =>
        let s := s.modFrag cx.b cx.slot cx.e fun f => { f with codes := [] }
        .done (if (f.st = 1 || f.st = 3) && sync then s.acquire cx.b f.sc.toNat else s) vs terms
      | some r =>
        if refused then
          .raise (s.modFrag cx.b cx.slot cx.e fun f =>
            { f with codes := good.foldl (fun t p => t.set p.1 p.2) wrote }) r
        else
          let s := vs.foldl (fun s v => s.putV cx v) s
          let s := s.modGroup cx.b cx.w.group fun g => { g with sum := g.sum + terms }
          .raise (s.modFrag cx.b cx.slot cx.e fun f =>
            { f with codes := good.foldl (fun t p => t.set (96 + p.1) 1) wrote }) r

/-- An issued ATOM is looked at again: lanes that have not started start when they may. -/
def State.atomAgain (s : State) (cx : Wcx) (f : FA) (ls : List Nat) : WRes :=
  let so := cx.f.codes.get 67 0 = 1
  let ps := ls.map fun l => (l,
    { va := s.atomVa cx f l, pa := cx.f.codes.get (128 + l) (((s.asked (.frag cx.b cx.slot cx.e) l).map fun r =>
        r.req.dst * 2 ^ 44 + r.req.addr).getD 0), n := faBytes f, ord := if so then 1 else 0 : Piece })
  (s.atomGo cx f ps).atomFinish cx f ls

/-- ATOM (R333 to R336). While an access of a sibling is outstanding it waits, as R147 orders atomics, unless every lane lies on
a UO page, where nothing does (R141). -/
def execAtom (f : FA) (s : State) : Host.Outcome State Fault Refusal :=
  let i : WInfo :=
    { reads := (if f.am = 1 then vRegs f.va.toNat 2 else [f.va.toNat, bReg f.tb.toNat]) ++ faRegs f f.vb.toNat
        ++ (if f.fn = 1 then faRegs f f.vc.toNat else []),
      writes := faRegs f f.vd.toNat, barred := true }
  s.issue i fun cx =>
    let ls := (lanesOf cx.live).filter fun l => (cx.f.codes.get? (96 + l)).isNone
    if (cx.f.codes.get? 65).isSome then s.atomAgain cx f ls
    else
      let check (l : Nat) (a : State × List (Nat × Piece)) : Except Raise (State × List (Nat × Piece)) :=
        match a.1.atomPiece cx f l with
        | .error r => .error r
        | .ok (p, s) => .ok (s, a.2 ++ [(l, p)])
      let ((s1, ps), errs) := laneLoop check (ls.filter fun l => (cx.f.codes.get? l).isNone) (s, [])
      match laneRaise errs 0xFF (accessByte 11 (faBytes f) true) with
      | some r => .raise s1 r
      | none =>
        let sync := ps.any fun p => p.2.ord != 2
        let so := ps.any fun p => p.2.ord == 1
        if sync && cx.w.frags.any (fun p => p.1 != cx.e && p.2.outFor false) then .stay (s.parkAt cx .order)
        else
          let s2 := if (f.st = 2 || f.st = 3) && sync then s1.release cx.b f.sc.toNat else s1
          let marks (t : Tbl Nat) : Tbl Nat :=
            ((t.set 65 1).set 66 (if sync then 1 else 0)).set 67 (if so then 1 else 0)
          let s3 := s2.modFrag cx.b cx.slot cx.e fun f =>
            { f with codes := ps.foldl (fun t p => t.set (128 + p.1) p.2.pa) (marks f.codes) }
          (s3.atomGo cx f ps).atomFinish cx f ls

/-- ATOMS (R333 to R336). -/
def execAtoms (f : FA) (s : State) : Host.Outcome State Fault Refusal :=
  let i : WInfo :=
    { reads := f.va.toNat :: f.vb.toNat :: (if f.fn = 1 then [f.vc.toNat] else []), writes := [f.vd.toNat], barred := true }
  s.issue i fun cx =>
    let ls := lanesOf cx.live
    let addr (l : Nat) : Nat := (s.readV cx f.va.toNat).getD l 0
    let space := if f.tb = 1 then 2 else 0
    let check (l : Nat) (as : List (Nat × Nat)) : Except Raise (List (Nat × Nat)) :=
      match s.spaceAddr cx space (addr l) 4 with
      | .error r => .error r
      | .ok x =>
        match s.readPoison (storePa cx.b x) 4 with
        | some r => .error { r with va := addr l }
        | none => .ok (as ++ [(l, storePa cx.b x)])
    let (as, errs) := laneLoop check ls []
    match laneRaise errs 0xFF (accessByte 11 4 true) with
    | some r => .raise s r
    | none =>
      let s1 := if f.st = 2 || f.st = 3 then s.release cx.b f.sc.toNat else s
      let step (a : State × List (Nat × Nat)) (p : Nat × Nat) : State × List (Nat × Nat) :=
        let (b, c) := s.faOps cx f p.1
        let x := leNat (Mem.read a.1.mem p.2 4)
        (match atomNew f.fn.toNat 4 x b c with
         | some v => { a.1 with mem := Mem.write a.1.mem p.2 (leBytes 4 v) }
         | none => a.1, a.2 ++ [(p.1, x)])
      let (s2, old) := as.foldl step (s1, [])
      let s3 := if f.st = 1 || f.st = 3 then s2.acquire cx.b f.sc.toNat else s2
      let terms := old.foldl (fun a p => a + s.atomTerm cx f (addr p.1) p.1 p.2) 0
      .done s3 (laneRes f.vd.toNat cx.live 4 (lanes.map fun l => ((old.find? fun p => p.1 == l).map (·.2)).getD 0)) terms

/-! ## Semaphores -/

/-- The physical counter of a semaphore instruction (R151). -/
def State.semOf (s : State) (cx : Wcx) (f : FS) : Nat := (s.bench cx.b).physical cx.g.ctx (f.imm.toNat % 256)

/-- SEMP (R399, R400): granted at once, or parked until SEMAPHORE_GRANT. -/
def execSemp (f : FS) (s : State) : Host.Outcome State Fault Refusal :=
  s.issue { barred := true } fun cx =>
    if cx.live = 0 then .done s [] 0
    else
      let k := s.semOf cx f
      let (ok, s1) := s.semTake cx.b k (.frag cx.slot cx.e)
      if ok then .done s1 [] 0 else .stay (s1.parkAt cx (.sem k))

/-- SEMV (R399, R400). -/
def execSemv (f : FS) (s : State) : Host.Outcome State Fault Refusal :=
  s.issue { reads := if f.fn = 1 then [sReg f.sa.toNat] else [], barred := true } fun cx =>
    if cx.live = 0 then .done s [] 0
    else
      let n := if f.fn = 1 then (cx.w.sreg f.sa.toNat).toNat % 2 ^ 32 else 1
      if n = 0 then .raise s (raiseOf Cause.illegal)
      else
        let s1 := s.release cx.b 2
        match s1.semAdd cx.b (s.semOf cx f) n with
        | some s2 => .done s2 [] 0
        | none => .raise s1 (raiseOf Cause.semOvf)

/-- SEMRD (R399, R400). -/
def execSemrd (f : FS) (s : State) : Host.Outcome State Fault Refusal :=
  s.issue { writes := [sReg f.sd.toNat], barred := true } fun cx =>
    .done (s.setS cx f.sd.toNat (w64 ((s.bench cx.b).sem (s.semOf cx f)))) [] 0

/-! ## Fences, timelines, TRIG -/

/-- The actions of a fence (R149): kinds 0 ACQ, 1 REL, 2 AR, 3 SC. -/
def State.fence (s : State) (b kind sc : Nat) : State :=
  let s := if kind = 0 then s else s.release b sc
  if kind = 1 then s else s.acquire b sc

/-- FENCE (R149, R362). -/
def execFence (f : FC) (s : State) : Host.Outcome State Fault Refusal :=
  s.issue {} fun cx => .done (s.fence cx.b f.fn.toNat f.cnd.toNat) [] 0

/-- The selector of TLRD and TLWAIT (R408). -/
def Wcx.tlSel (cx : Wcx) (f : FS) : Nat := (if f.fn = 1 then (cx.w.sreg f.sb.toNat).toNat else f.imm.toNat) % 2 ^ 13

/-- The check of a selector at issue (R409): the cause. -/
def State.tlRefused (s : State) (ctx sel : Nat) : Option Nat :=
  match Timeline.ofSel sel with
  | .nothing => some Cause.illegal
  | .reserved => some Cause.illegal
  | _ => if s.ofCtx ctx sel then none else some Cause.perm

/-- TLRD (R408, R409). -/
def execTlrd (f : FS) (s : State) : Host.Outcome State Fault Refusal :=
  s.issue { reads := if f.fn = 1 then [sReg f.sb.toNat] else [], writes := [sReg f.sd.toNat], barred := true } fun cx =>
    match s.tlRefused cx.g.ctx (cx.tlSel f) with
    | some c => .raise s (raiseOf c)
    | none => .done (s.setS cx f.sd.toNat (w64 (s.tl (.ofSel (cx.tlSel f))))) [] 0

/-- A timeline is that of an ABORTED ring (R38). -/
def State.tlAborted (s : State) : Timeline → Bool
  | .ring b slot => (s.ring b slot).state == .aborted
  | _ => false

/-- TLWAIT (R408, R409): met at once, or parked until TIMELINE_WAIT_MET. On the timeline of an ABORTED ring, which advances no
more, it gets ABORTED as the waiters of the reset did (R38; DEDUCED, log entry 107). -/
def execTlwait (f : FS) (s : State) : Host.Outcome State Fault Refusal :=
  s.issue { reads := sReg f.sa.toNat :: (if f.fn = 1 then [sReg f.sb.toNat] else []), writes := [sReg f.sd.toNat],
            barred := true } fun cx =>
    let sel := cx.tlSel f
    match s.tlRefused cx.g.ctx sel with
    | some c => .raise s (raiseOf c)
    | none =>
      let v := (cx.w.sreg f.sa.toNat).toNat % 2 ^ 32
      let t := Timeline.ofSel sel
      if tlMet (s.tl t) v then .done ((s.setS cx f.sd.toNat (w64 (s.tl t))).acquire cx.b (tlScope cx.b t)) [] 0
      else if s.tlAborted t then .raise s (raiseOf Cause.aborted)
      else .stay (s.parkAt cx (.timeline sel v f.sd.toNat))

/-- TRIG (R153, R411). -/
def execTrig (_f : FC) (s : State) : Host.Outcome State Fault Refusal :=
  s.issue {} fun cx => .done ((s.release cx.b 5).modWave cx.b cx.slot fun w => { w with trig := true }) [] 0

end Sys2Proof.Machine
end

