-- ==== Sys2Proof/Machine/Batch.lean ====
section
/-! DEFINITION. Asynchronous lane copies (R181, R345, R351 to R354) and VXM (R433 to R436). -/

namespace Sys2Proof.Machine

open Sys2Proof

/-! ## CPYA, CBATCH, CWAIT -/

/-- Every copy of a wave's batches up to `n` is complete (R181). -/
def Bench.batchDone (b : Bench) (slot ctx n : Nat) : Bool :=
  b.copies.all fun c => c.gone || c.slot != slot || c.ctx != ctx || n < c.batch

/-- Whether a memory side lies where a lane copy may not go (R353), as far as it translates now. -/
def State.copyBarred (s : State) (cx : Wcx) (f : FM) (l n : Nat) (acc : Acc) : Bool :=
  let va := s.laneVa cx f l
  let t := (cx.g.trans.get f.tb.toNat 0)
  let off := va - t.toNat % 2 ^ 64
  let pa : Option Nat :=
    if f.am = 0 && trV t && off + n ≤ bitsOf t.toNat 159 128 then some (bitsOf t.toNat 119 64 + off)
    else match s.translateCtx [.bench cx.b] cx.b cx.g.ctx va acc with
      | .ok (x, _) => some x.pa
      | .error _ => none
  match pa.map s.place with
  | some (.store _ _) => true
  | some .device => true
  | some (.remote _) => true
  | _ => false

/-- The checks of CPYA for lane `l` (R353): its bench-store address. -/
def State.copyLane (s : State) (cx : Wcx) (f : FM) (l : Nat) : Except Raise Nat :=
  let n := szBytes f.sz.toNat
  let out := f.fn.getLsbD 2
  let va := s.laneVa cx f l
  let a := (s.readV cx f.vd.toNat).getD l 0
  match s.spaceAddr cx (if f.fn.getLsbD 1 then 2 else 0) a n with
  | .error r => .error r
  | .ok x =>
    if va % n != 0 then .error { cause := Cause.align, va := va }
    else if s.copyBarred cx f l n (if out then .write else .read) then .error { cause := Cause.perm, va := va }
    else .ok x

/-- CPYA (R351 to R353). At the limit of copies in flight it waits for room (R181). -/
def execCpya (f : FM) (s : State) : Host.Outcome State Fault Refusal :=
  let n := szBytes f.sz.toNat
  s.issue { reads := f.vd.toNat :: fmAddr f, barred := true } fun cx =>
    let ls := lanesOf cx.live
    let check (l : Nat) (as : List (Nat × Nat)) : Except Raise (List (Nat × Nat)) :=
      (s.copyLane cx f l).map fun x => as ++ [(l, x)]
    let (as, errs) := laneLoop check ls []
    match laneRaise errs 0xFF (accessByte (if f.fn.getLsbD 2 then 2 else 1) n false) with
    | some r => .raise s r
    | none =>
      if 128 < (s.bench cx.b).inFlight + ls.length then .stay (s.parkAt cx (.room ls.length))
      else
        let s1 := s.release cx.b 2
        let first := (s.bench cx.b).nextCopy
        let copies := (List.range as.length).map fun i =>
          let p := as.getD i (0, 0)
          { id := first + i, op := first, slot := cx.slot, lane := p.1, ctx := cx.g.ctx, part := cx.g.part,
            batch := cx.w.bn + 1, pc := cx.f.pc, out := f.fn.getLsbD 2, va := w64 (s.laneVa cx f p.1), scr := p.2,
            size := n : LaneCopy }
        .done (s1.modBench cx.b fun x =>
          { x with copies := x.copies ++ copies, nextCopy := first + as.length }) [] 0

/-- CBATCH (R181, R345). -/
def execCbatch (f : FS) (s : State) : Host.Outcome State Fault Refusal :=
  s.issue { writes := [sReg f.sd.toNat] } fun cx =>
    let bn := (cx.w.bn + 1) % 2 ^ 64
    .done (s.modWave cx.b cx.slot fun w => { w with bn := bn, s := w.s.set f.sd.toNat (w64 bn) }) [] 0

/-- CWAIT (R181, R354). -/
def execCwait (f : FS) (s : State) : Host.Outcome State Fault Refusal :=
  s.issue { reads := if f.ib = 1 then [] else [sReg f.sb.toNat], barred := true } fun cx =>
    let n := (cx.sB f).toNat
    if cx.w.bn < n then .raise s (raiseOf Cause.illegal)
    else if (s.bench cx.b).batchDone cx.slot cx.g.ctx n then .done (s.acquire cx.b 2) [] 0
    else .stay (s.parkAt cx (.batch n))

/-- The CWAITs of a wave that are satisfied now go on, with Acquire(BENCH) (R354). -/
def State.wakeBatches (s : State) (b slot ctx : Nat) : State :=
  match s.wave? b slot with
  | none => s
  | some w =>
    if (s.group? b w.group).any fun g => g.ctx != ctx then s
    else
      w.frags.foldl (fun s p =>
        match p.2.wait with
        | some (.batch n) =>
          if (s.bench b).batchDone slot ctx n then (s.resumeFrag b slot p.1).acquire b 2 else s
        | _ => s) s

/-- A lane copy is complete, or is abandoned (R181, R214). -/
def State.copyDone (s : State) (b : Nat) (c : LaneCopy) : State :=
  let s := s.modBench b fun x => { x with copies := x.copies.filter fun k => k.id != c.id }
  if c.gone then s else s.wakeBatches b c.slot c.ctx

/-- One lane copy performed (R352): weak accesses of the engine, the memory side by its virtual address. A page that has come
to lie where a lane copy may not go raises PERM (R353). -/
def State.performCopy (s : State) (b : Nat) (c : LaneCopy) : Except Raise State :=
  let die := dieOf b
  let va := c.va.toNat
  match s.translateCtx [.bench b] b c.ctx va (if c.out then .write else .read) with
  | .error e => .error { cause := e, va := va }
  | .ok (x, s) =>
    let at_ (r : Raise) : Raise := { r with va := va + r.va }
    let scr := storePa b c.scr
    match s.place x.pa with
    | .store _ _ => .error { cause := Cause.perm, va := va }
    | .device => .error { cause := Cause.perm, va := va }
    | .remote _ => .error { cause := Cause.perm, va := va }
    | _ =>
      if c.out then
        match s.readPoison scr c.size with
        | some r => .error (at_ r)
        | none =>
          match s.pointWrite die x.pa (Mem.read s.mem scr c.size) with
          | .error r => .error (at_ r)
          | .ok s => .ok s
      else
        match s.pointRead die x.pa c.size with
        | .error r => .error (at_ r)
        | .ok (bs, s) =>
          match s.writePoison scr c.size with
          | some r => .error (at_ r)
          | none => .ok ({ s with mem := Mem.write s.mem scr bs }.clearPoison scr c.size)

/-- LANE_COPY (R352, R353): one copy is performed, or faults; the copies of one CPYA that fault on one page share one
record and park together. -/
def execLaneCopy (b id : Nat) (s : State) : Host.Outcome State Fault Refusal :=
  match (s.bench b).copies.find? fun c => c.id == id with
  | none => .next s
  | some c =>
    let k := (s.bench b).ctx c.ctx
    if c.parked || k.draining || k.drained || k.saved then .next s
    else
      match s.performCopy b c with
      | .ok s => .next (s.copyDone b c)
      | .error r =>
        let same (d : LaneCopy) : Bool := d.op == c.op && !d.parked &&
          match s.performCopy b d with
          | .error q => q.cause == r.cause && q.va % 2 ^ 57 / 4096 == r.va % 2 ^ 57 / 4096
          | .ok _ => false
        let ds := (s.bench b).copies.filter same
        let cause := Cause.shown r.cause
        let (token, s) := (s.noteCause r.cause).park b c.ctx cause r.va (ds.map fun d => .copy d.id)
        let s := s.modBench b fun x =>
          { x with copies := x.copies.map fun d => if ds.any fun e => e.id == d.id then { d with parked := true } else d }
        .next (s.report b
          { cause := cause, unit := 2, ring := c.slot, bench := b, ctx := c.ctx, pc := c.pc,
            va := w64 ((ds.head?.map (·.va.toNat)).getD r.va), timeline := w64 c.batch,
            lanes := maskOf fun l => ds.any fun d => d.lane == l, token := w32 token, trec := 0xFF,
            access := accessByte (if c.out then 2 else 1) c.size false, aux := w64 r.aux })

/-! ## VXM -/

/-- Bytes of a column of a weight matrix (R434). -/
def vxmCol (ty : Nat) : Nat := if ty = 7 then 64 else if ty = 14 then 16 else 32

/-- The bytes of a matrix: 32 columns, then the scales of TY 12 to 14 (R434). -/
def vxmRuns (ty p : Nat) : List (Nat × Nat) :=
  ((List.range 32).map fun j => (p + j * vxmCol ty, vxmCol ty))
    ++ (if 12 ≤ ty then [(p + 32 * vxmCol ty, 32)] else [])

/-- Element `k` of column `j` as a value (R434). -/
def vxmElem (ty : Nat) (bss : List (List Byte)) (j k : Nat) : FVal :=
  let col := bss.getD j []
  let byte (i : Nat) : Nat := (col.getD i 0).toNat
  let c := if ty = 7 then byte (2 * k) + 256 * byte (2 * k + 1)
    else if ty = 14 then byte (k / 2) / 16 ^ (k % 2) % 16 else byte k
  if ty = 10 then .ofInt (sext 8 c)
  else if ty = 7 then .decode .bf16 c
  else
    let x := ((bss.getD 32 []).getD j 0).toNat
    if x = 0xFF then .nan false else (FVal.decode (fmtOf ty) c).scale ((x : Int) - 127)

/-- The float result of a lane of VXM (R435): `xs` are the vector's values, `c` the lane's C. -/
def vxmFloat (rm : Nat) (sat : Bool) (ws xs : List FVal) (c : FVal) : Nat × FFlags :=
  let ps := (xs.zip ws).map fun p => mulVal p.1 p.2
  let fl := ps.foldl (fun a p => a ||| p.2) (if c.isSNaN then fNV else 0)
  let ts := ps.map (·.1) ++ [c]
  let both := if ts.contains (.inf false) && ts.contains (.inf true) then fNV else 0
  let sum := match ts with
    | [] => FVal.fin false 0 0
    | t :: rest => rest.foldl (fun a t => (addVal rm a t).1) t
  let r := roundTo .f32 rm (sum, fl ||| both)
  (if sat then clamp01 .f32 r.1 else r.1, r.2)

/-- The result of lane `j` of VXM (R435). -/
def State.vxmLane (s : State) (cx : Wcx) (f : VR) (bss : List (List Byte)) (j : Nat) : Nat × FFlags :=
  let ty := f.ty.toNat
  let xs := s.readV cx f.vb.toNat
  let c := (s.readSrc cx false (f.ks.getLsbD 0) f.vc.toNat).getD j 0
  if ty = 10 then
    let prod (k : Nat) : Int := sext 32 (xs.getD k 0) *
      (match vxmElem ty bss j k with | .fin n m _ => if n then -(m : Int) else m | _ => 0)
    (narrow 0 (f.sat == 1) ((List.range 32).foldl (fun a k => a + prod k) (sext 32 c)), 0)
  else
    let cv := f32Val (w32 c)
    vxmFloat f.rm.toNat (f.sat == 1) ((List.range 32).map (vxmElem ty bss j))
      (xs.map fun x => f32Val (w32 x)) (if f.nc = 1 then cv.neg else cv)

/-- What one group of VXM comes to (R436). -/
inductive VxmStep where
  | done (s : State) (v : VRes)
  | wait (s : State)
  | fault (s : State) (r : Raise)

/-- One group of equal pointers (R436): its lanes and its pointer. A group of helper lanes alone receives 0. -/
def State.vxmGroup (s : State) (cx : Wcx) (f : VR) (g : W32) (p : Nat) : VxmStep :=
  let live := g &&& ~~~cx.w.helper
  let put (s : State) (vals : List Nat) : VxmStep :=
    let v : VRes := ⟨f.vd.toNat, g, vals⟩
    match s.putPoison cx false [v] with
    | some r => .fault s r
    | none => .done ((s.clearRows cx [v]).putV cx v) v
  let bad (s : State) (r : Raise) : VxmStep := .fault ((cx.mu s).ended cx s) r
  if live = 0 then put s (List.replicate 32 0)
  else if p = 0 then bad s { cause := Cause.perm, va := 0 }
  else if p % 64 != 0 then bad s { cause := Cause.align, va := p }
  else
    let xl (a : Accs × State) (r : Nat × Nat) : Except Raise (Accs × State) :=
      match a.2.vaPieces cx r.1 r.2 false .read with
      | .error e => .error e
      | .ok (ps, s) => .ok (a.1 ++ [ps], s)
    match foldE xl (vxmRuns f.ty.toNat p) ([], s) with
    | .error r => bad s r
    | .ok (accs, s1) =>
      match (cx.mu s1).readAccs (some (cx.b, cx.g.part, 0)) false accs with
      | .error r => bad s1 r
      | .ok (bss, m) =>
        if m.waits then .wait (m.await cx s1)
        else
          let s2 := m.ended cx m.s
          let rs := lanes.map fun j => if g.getLsbD j then s2.vxmLane cx f bss j else (0, 0)
          let fl := (lanesOf live).foldl (fun a l => a ||| (rs.getD l (0, 0)).2) 0
          let s3 := s2.orFlags cx.b cx.slot fl
          if fl &&& cx.w.fptrap.toNat != 0 then .fault s3 { cause := Cause.fpTrap }
          else put s3 (rs.map (·.1))

/-- The groups of VXM from its lanes left (R436), each by its lowest lane. The record of a group that faults is that of R436
for FPTRAP too, not that of R68 (DEDUCED, log entry 80). -/
def State.vxmRun (f : VR) (ptrs : List Nat) : Nat → Wcx → W32 → W32 → State → WRes
  | 0, _, _, _, s => .done s [] 0
  | fuel + 1, cx, left, done, s =>
    match lanesOf left with
    | [] => .done (s.modFrag cx.b cx.slot cx.e fun f => { f with vxm := 0 }) [] 0
    | l :: _ =>
      let p := ptrs.getD l 0
      let g := maskOf fun k => left.getLsbD k && ptrs.getD k 0 == p
      let mark (s : State) : State := s.modFrag cx.b cx.slot cx.e fun f => { f with vxm := done }
      match s.vxmGroup cx f g p with
      | .done s _ =>
        State.vxmRun f ptrs fuel { cx with f := { cx.f with codes := [] } } (left &&& ~~~g) (done ||| g) s
      | .wait s => .stay (mark s)
      | .fault s r =>
        let acc := if r.cause = Cause.fpTrap then noAccess else accessByte 1 (vxmCol f.ty.toNat) false
        .raise (mark s) { r with lanes := g &&& ~~~cx.w.helper, aux := done.toNat, access := acc }

/-- VXM (R433 to R436). -/
def execVxm (f : VR) (s : State) : Host.Outcome State Fault Refusal :=
  let ks := f.ks.getLsbD 0
  let c := if ks then [sReg f.vc.toNat] else [f.vc.toNat]
  s.issue { reads := vRegs f.va.toNat 2 ++ f.vb.toNat :: c, writes := [f.vd.toNat], barred := true,
            cross := [f.vb.toNat],
            oc := (if f.oc.getLsbD 2 then vRegs f.va.toNat 2 else []) ++ (if f.oc.getLsbD 1 then [f.vb.toNat] else [])
              ++ (if f.oc.getLsbD 0 && !ks then c else []) } fun cx =>
    s.readAcross cx (lanesOf cx.live) (fun _ => lanes.map fun k => (f.vb.toNat, k)) <|
    State.vxmRun f (s.readPair cx f.va.toNat) 33 cx (cx.f.exec &&& ~~~cx.f.vxm) cx.f.vxm s

end Sys2Proof.Machine
end

