-- ==== Sys2Proof/Machine/Hart.lean ====
section
/-! DEFINITION. Gaffers and host cores (R247 to R249, R262): translation and memory accesses of their code, their
exceptions and interrupt 24 (R253), and issuing an X instruction. -/

namespace Sys2Proof.Machine

open Sys2Proof

/-- The exception codes of the cited RISC-V architecture. -/
def excIllegal : Nat := 2
/-- Instruction access fault. -/
def excFetchAccess : Nat := 1
/-- Load address misaligned. -/
def excLoadAlign : Nat := 4
/-- Load access fault. -/
def excLoadAccess : Nat := 5
/-- Store or AMO address misaligned. -/
def excStoreAlign : Nat := 6
/-- Store or AMO access fault. -/
def excStoreAccess : Nat := 7
/-- Instruction page fault. -/
def excFetchPage : Nat := 12
/-- Load page fault. -/
def excLoadPage : Nat := 13
/-- Store or AMO page fault. -/
def excStorePage : Nat := 15

/-- The hart whose turn it is: its issuer and its state, its die, its TLB and its name as an agent; `bench` is the bench of
a gaffer. -/
structure Hcx where
  at_ : Issuer
  h : Hart
  die : Nat
  tlb : TlbUnit
  who : Agent
  bench : Option Nat
  host : Option Nat
  deriving DecidableEq, Repr

/-- The issuing hart (R247). -/
def State.hcx (s : State) : Option Hcx :=
  match s.cur with
  | .gaffer b => some ⟨s.cur, (s.bench b).gaffer, dieOf b, .gaffer b, .gaffer b, some b, none⟩
  | .host h => some ⟨s.cur, s.host h, h / 16, .host h, .host h, none, some h⟩
  | _ => none

/-- The hart of an issuer changed. -/
def State.modHart (s : State) (i : Issuer) (f : Hart → Hart) : State :=
  match i with
  | .gaffer b => s.modBench b fun x => { x with gaffer := f x.gaffer }
  | .host h => s.modHost h f
  | _ => s

/-- An exception of a hart: its code and stval (R206, R247), and the cause of the access that led to it as a bench would have
it, 0 for none. -/
structure Exc where
  code : Nat
  tval : Nat
  raw : Nat := 0
  deriving DecidableEq, Repr

/-- The exceptions of an access by its kind: page fault and access fault. -/
def excOf (acc : Acc) : Nat × Nat :=
  match acc with
  | .fetch => (excFetchPage, excFetchAccess)
  | .read => (excLoadPage, excLoadAccess)
  | _ => (excStorePage, excStoreAccess)

/-- The mode under which a hart's loads and stores are made: that of MPP while MPRV is set. -/
def Hart.dataMode (h : Hart) : Mode := if h.csr.mstatus.getLsbD 17 then h.mpp else h.mode

/-- Translation of a hart's address (R125): bare in M mode or with satp.MODE = 0, else Sv57. A page fault for what a walk
refuses, an access fault for what its reads meet (PRESUMED, log entry 23). SUM lets S mode reach U pages, and MXR lets a
load read pages that only permit execution. -/
def State.hartXlat (s : State) (cx : Hcx) (va : Nat) (acc : Acc) : Except Exc (Xlat × State) :=
  let satp := cx.h.csr.satp.toNat
  let mode := if acc = .fetch then cx.h.mode else cx.h.dataMode
  if mode = .m || satp / 2 ^ 60 = 0 then
    if 2 ^ 56 ≤ va then .error ⟨(excOf acc).2, va, 0⟩ else .ok ({ pa := va, left := 2 ^ 56 - va }, s)
  else
    let go (t : Bool × Acc) := s.translate [cx.tlb] cx.die (satp % 2 ^ 44) (bitsOf satp 59 44) t.1 va t.2
    let sum := mode == .s && cx.h.csr.mstatus.getLsbD 18 && acc != .fetch
    let ways := (mode == .u, acc) :: (if sum then [(true, acc)] else [])
    let ways := ways ++ (if acc = .read && cx.h.csr.mstatus.getLsbD 19 then ways.map fun t => (t.1, .fetch) else [])
    match ways.findSome? fun t => (go t).toOption with
    | some p => .ok p
    | none =>
      match go (ways.getLast?.getD (true, acc)) with
      | .ok p => .ok p
      | .error c => .error ⟨if c = Cause.notPresent || c = Cause.perm then (excOf acc).1 else (excOf acc).2, va, c⟩

/-- Pieces of a hart's access (R146: strong, at the point). -/
def State.hartPieces (s : State) (cx : Hcx) (va n : Nat) (acc : Acc) : Except Exc (List Piece × State) :=
  let step (a : List Piece × State) (c : Nat × Nat) : Except Exc (List Piece × State) :=
    match a.2.hartXlat cx (c.1 % 2 ^ 64) acc with
    | .error e => .error e
    | .ok (x, s) => .ok (a.1 ++ [{ va := c.1 % 2 ^ 64, pa := x.pa, n := c.2, ord := x.ord, nc := x.nc }], s)
  foldE step (cutLines va n) ([], s)

/-- The accumulator of a hart's instruction. -/
def Hcx.mu (cx : Hcx) (s : State) : Mu :=
  { s := s, who := cx.who, die := cx.die, port := if cx.host.isSome then 1 else 0 }

/-- A hart reads bytes for an X instruction (R146, R247): an access-fault exception for what a bench would call PERM,
POISON or FABTIMEOUT. -/
def State.hartRead (s : State) (cx : Hcx) (m : Mu) (va n : Nat) : Except Exc (List Byte × Mu) :=
  match s.hartPieces cx va n .read with
  | .error e => .error e
  | .ok (ps, s) =>
    match ({ m with s := s } : Mu).readAll none true ps with
    | .ok r => .ok r
    | .error r => .error ⟨excLoadAccess, r.va, r.cause⟩

/-- A hart writes bytes for an X instruction (R146, R247). -/
def State.hartWrite (s : State) (cx : Hcx) (m : Mu) (va : Nat) (bs : List Byte) : Except Exc Mu :=
  match s.hartPieces cx va bs.length .write with
  | .error e => .error e
  | .ok (ps, s) =>
    match ({ m with s := s } : Mu).writeAll none true [] ps bs with
    | .ok m => .ok m
    | .error r => .error ⟨excStoreAccess, r.va, r.cause⟩

/-- Two bytes of an instruction word (R247: RV64GC words are 2-byte aligned), at their point; on another package by an RD flit
(R269). -/
def Hcx.fetch2 (cx : Hcx) (m : Mu) (va : Nat) : Except Exc (Nat × Mu) :=
  match m.s.hartXlat cx va .fetch with
  | .error e => .error e
  | .ok (x, s) =>
    let m := { m with s := s }
    let res : Except Raise (List Byte × Mu) := match s.place x.pa with
      | .remote pkg => m.request pkg va (List.replicate 2 0) (requestFlit flitRD 0 0 0 2 1 0 x.pa [])
      | _ => (s.pointRead cx.die x.pa 2).map fun r => (r.1, { m with s := r.2 })
    match res with
    | .error r => .error ⟨excFetchAccess, va, r.cause⟩
    | .ok (bs, m) => .ok (leNat bs, m)

/-- The word at a hart's pc, or none while its halves are awaited from another package; its requests have keys above those of
an instruction's own accesses. -/
def State.hartFetch (s : State) (cx : Hcx) : Except Exc (Option W32 × State) :=
  let pc := cx.h.pc.toNat
  match cx.fetch2 { (cx.mu s) with keys := 1000 } pc with
  | .error e => .error e
  | .ok (lo, m) =>
    let rest : Except Exc (Nat × Mu) := if m.waits || lo % 4 != 3 then .ok (0, m) else cx.fetch2 m ((pc + 2) % 2 ^ 64)
    match rest with
    | .error e => .error e
    | .ok (hi, m) =>
      if m.waits then .ok (none, m.send m.s)
      else .ok (some (w32 (lo + hi * 2 ^ 16)), if m.keys = 1000 then m.s else m.s.modFabric fun x =>
        { x with remotes := x.remotes.filter fun r => !(r.who == cx.who && 1000 ≤ r.key) })

/-- What an X instruction comes to. -/
inductive XRes where
  /-- It completes: rd takes the value and pc advances by 4. -/
  | done (s : State) (v : W64)
  /-- It blocks, or waits for another package. -/
  | stay (s : State)
  /-- It raises an exception and has no effect. -/
  | raise (e : Exc)

/-- The refusal value of a cause (R248). -/
def refusal (cause : Nat) : W64 := w64 (2 ^ 63 + cause)

/-- A hart takes an exception (R206, R247): a wait of its is withdrawn and takes nothing (R249). -/
def State.hartExc (s : State) (cx : Hcx) (cause : W64) (tval : Nat) : State :=
  let s := match cx.bench, cx.h.blocked with
    | some b, some (.sem _ _) => s.semWithdraw b .gaffer
    | some b, some (.tick _ _) => s.modDie (s.domain (dieOf b)) fun d => { d with tkbars := d.tkbars.filter (·.1 != b) }
    | _, _ => s
  (s.dropRemotes cx.who).modHart cx.at_ fun h => { h.trap cause (w64 tval) with blocked := none, aborted := false, words := none }

/-- An exception of a hart is taken, and what stays of the access that led to it stays (R113, R265). -/
def State.hartRaise (s : State) (cx : Hcx) (e : Exc) : State := (s.noteCause e.raw).hartExc cx (w64 e.code) e.tval

/-- A hart's instruction has retired: minstret counts it (R2; the cited RISC-V architecture). -/
def Hart.retired (h : Hart) : Hart := { h with csr := { h.csr with minstret := h.csr.minstret + 1 } }

/-- An X instruction issues (R247, R248, R262): illegal in U mode, and on a host core unless it is one of the five that host
cores implement. An illegal-instruction exception's stval is the address of the instruction (DEDUCED, R247). -/
def State.xIssue (s : State) (onHost : Bool) (f : XR) (body : Hcx → XRes) : Host.Outcome State Fault Refusal :=
  match s.hcx with
  | none => .fault .noIssuer
  | some cx =>
    if cx.h.mode = .u || (cx.host.isSome && !onHost) then
      .next (s.hartExc cx (w64 excIllegal) cx.h.pc.toNat)
    else
      match body cx with
      | .done s v => .next (s.modHart cx.at_ fun h =>
          { (h.set f.rd.toNat v).retired with pc := cx.h.pc + 4, blocked := none, aborted := false, words := none })
      | .stay s => .next s
      | .raise e => .next (s.hartRaise cx e)

/-- Source rs1 (R248). -/
def Hcx.rs1 (cx : Hcx) (f : XR) : Nat := (cx.h.get f.rs1.toNat).toNat
/-- Source rs2 (R248). -/
def Hcx.rs2 (cx : Hcx) (f : XR) : Nat := (cx.h.get f.rs2.toNat).toNat

/-- An illegal-instruction exception of an X instruction. -/
def Hcx.illegal (cx : Hcx) : XRes := .raise { code := excIllegal, tval := cx.h.pc.toNat }

/-- XIP (R253): its stored bits, and MBX. -/
def Bench.xip (b : Bench) : Nat :=
  b.csr.wmk.toNat + (if b.csr.flt then 2 ^ 16 else 0) + (if b.mailbox = [] then 0 else 2 ^ 17)
    + (if b.csr.hlt then 2 ^ 18 else 0) + (if b.csr.mgt then 2 ^ 19 else 0)

/-- The interrupts that are pending in a hart: those that software has set, and 24 of a gaffer while XIP AND XIE is not 0
(R253). -/
def State.pendingInts (s : State) (cx : Hcx) : Nat :=
  let x := match cx.bench with
    | some b => if ((s.bench b).xip &&& (s.bench b).csr.xie.toNat) != 0 then 2 ^ 24 else 0
    | none => 0
  cx.h.csr.mip.toNat ||| x

/-- The interrupt that a hart takes before its next instruction, of those pending (R253; the cited RISC-V architecture,
PRESUMED, log entry 23): enabled by mie, and by MIE or SIE in the mode whose handler takes it; the machine's first, then in
the order of the architecture, with 24 last. -/
def Hart.takes (h : Hart) (pend : Nat) : Option Nat :=
  let on (k : Nat) : Bool := bitOf pend k && h.csr.mie.getLsbD k
  let mOk : Bool := h.mode != .m || h.csr.mstatus.getLsbD 3
  let sOk : Bool := h.mode == .u || (h.mode == .s && h.csr.mstatus.getLsbD 1)
  let order := [11, 3, 7, 9, 1, 5, 24]
  let m := if mOk then order.find? fun k => on k && !h.csr.mideleg.getLsbD k else none
  m.or (if sOk then order.find? fun k => on k && h.csr.mideleg.getLsbD k else none)

/-- The interrupt that a hart takes at its turn: none while an access of its instruction is under way. -/
def State.interrupt (s : State) (cx : Hcx) : Option Nat :=
  if s.dev.fabric.remotes.any fun r => r.who == cx.who then none else cx.h.takes (s.pendingInts cx)

end Sys2Proof.Machine
end

