-- ==== Sys2Proof/Machine/Passes.lean ====
section
/-! DEFINITION. Passes (R225 to R228, R234, R245): the fields of a pass record, the tiling engine's writes, the status
block, and faults of a pass. -/

namespace Sys2Proof.Machine

open Sys2Proof

/-- Tiles across less one (R225). -/
def passTwm (r : BitVec 512) : Nat := recF r 107 96
/-- The tile count T (R225). -/
def passTiles (r : BitVec 512) : Nat := (passTwm r + 1) * (recF r 119 108 + 1)
/-- C0 (R225). -/
def passC0 (r : BitVec 512) : Nat := cdiv (16 * passTiles r) 256
/-- PBBASE (R225). -/
def passPb (r : BitVec 512) : Nat := recF r 63 0
/-- PBSZ (R225). -/
def passSize (r : BitVec 512) : Nat := recF r 95 64
/-- POL (R225): 0 SPLIT, 1 DROP, 2 FAULT. -/
def passPol (r : BitVec 512) : Nat := recF r 121 120
/-- STBASE (R225). -/
def passSt (r : BitVec 512) : Nat := recF r 191 128
/-- MLR (R225). -/
def passMlr (r : BitVec 512) : Nat := recF r 255 192
/-- A pass is open in a cell (R225). -/
def passIn (r : BitVec 512) (cell : Nat) : Bool := r.getLsbD (256 + cell)

/-- The agent of a pass's writes: its TBEGIN. -/
def Pass.who (p : Pass) : Agent := .ring p.bench p.slot p.num

/-- A write of the tiling engine of a cell for a pass (R227, R234): weak, at its point. A write to another package is sent,
under a key that carries its address; the pass ends only when every response has come (R227). -/
def State.tileWrite (s : State) (p : Pass) (cell va : Nat) (bs : List Byte) : Except Raise State :=
  let va := va % 2 ^ 64
  match s.translateCtx [.tiling cell] (8 * cell) p.ctx va .write with
  | .error c => .error { cause := c, va := va }
  | .ok (x, s) =>
    let key := (va + 1) * 2 ^ 64 + s.dev.fabric.nextTag
    let m : Mu := { s := s, who := p.who, die := cell / 16, keys := key }
    (m.write none false [] { va := va, pa := x.pa, n := bs.length, ord := x.ord, nc := x.nc } bs).map fun m => m.send m.s

/-- Writes of the tiling engine in order, addresses and bytes: the first that faults is left, with those after it (R245). -/
def State.tileRun (s : State) (p : Pass) (cell : Nat) : List (Nat × List Byte) → State × Option (Raise × List (Nat × List Byte))
  | [] => (s, none)
  | w :: ws =>
    match s.tileWrite p cell w.1 w.2 with
    | .error r => (s, some (r, w :: ws))
    | .ok s => s.tileRun p cell ws

/-- Writes for an open pass (R245): where one faults, the pass stops, and owes that one and those after it. -/
def State.passWrites (s : State) (ctx pn cell : Nat) (ws : List (Nat × List Byte)) : Bool × State :=
  match s.pass? ctx pn with
  | none => (true, s)
  | some p =>
    match s.tileRun p cell ws with
    | (s, none) => (true, s)
    | (s, some (r, rest)) =>
      (false, (s.modPass ctx pn fun p => { p with owed := rest.map fun w => (cell, w.1, w.2) }).passFault ctx pn r)

/-- The 64 bytes of the status block of a pass (R228). -/
def Pass.status (p : Pass) (isOpen : Bool) : List Byte :=
  let c (v i : Nat) : Nat := sat32 v * 2 ^ (32 * i)
  leBytes 64 (c p.nextch 0 + c p.prims 1 + c p.culled 2 + c p.discard 3 + c p.dropl 4 + c p.dropm 5 + c p.meshg 6
    + c p.segs 7 + (if isOpen then 2 ^ 256 else 0))

/-- The write of the status block of a pass (R228). -/
def Pass.statusWrite (p : Pass) (isOpen : Bool) : Nat × List Byte := (passSt p.record, p.status isOpen)

/-- A request of a pass to another package whose response is an error. -/
def Remote.failed (r : Remote) : Bool :=
  match r.resp with
  | some (sts, _) => sts != 0
  | none => false

/-- The failed write of a pass on another package, as the fault it is (R245, R269). -/
def State.passBad (s : State) (p : Pass) : Option Raise :=
  (s.dev.fabric.remotes.find? fun r => r.who == p.who && r.failed).map fun r =>
    { cause := stsCause ((r.resp.map (·.1)).getD 0), va := r.key / 2 ^ 64 - 1 }

/-- The home bench and context of a pass go on (R200): until they are drained, so that lanes that a drain waits for are binned
(R246). -/
def State.passRuns (s : State) (p : Pass) : Bool :=
  let x := s.bench p.bench
  let r := x.ring p.slot
  !p.halted && (!(x.ctx p.ctx).drained || (r.bound && r.ctx == p.ctx && r.state == .running))

/-- The mark in the `codes` of a TEMIT whose offer is parked (R233): its pass. -/
def offerMark : Nat := 200

/-- Offers to a pass that are parked, resident or saved (R233). -/
def State.offersOn (s : State) (ctx pn : Nat) : Bool :=
  let has (gs : Tbl Group) (ws : Tbl Wave) : Bool := ws.any fun w =>
    ((gs.get? w.2.group).any fun g => g.ctx == ctx) && w.2.frags.any fun f => f.2.codes.get? offerMark == some pn
  s.benches.any fun x => has x.2.groups x.2.waves || x.2.ctxs.any fun c => has c.2.groups c.2.waves

/-- The fragments that wait on a pass look again, resident or saved (R233, R245). -/
def State.wakePass (s : State) (ctx pn : Nat) : State :=
  let wakes (now : Nat) (gs : Tbl Group) (ws : Tbl Wave) : Tbl Wave := ws.mapVal fun _ w =>
    if (gs.get? w.group).any fun g => g.ctx == ctx then
      { w with frags := w.frags.mapVal fun _ f => if f.wait = some (.pass pn) then { f with wait := some .back, since := now } else f }
    else w
  let parkers (gs : Tbl Group) (ws : Tbl Wave) : List Parker := ws.flatMap fun w =>
    if (gs.get? w.2.group).any fun g => g.ctx == ctx then
      (w.2.frags.filter fun f => f.2.wait == some (.pass pn)).map fun f => .frag ctx w.1 f.1
    else []
  { s with benches := s.benches.mapVal fun b x =>
      let ps := parkers x.groups x.waves ++ x.ctxs.flatMap fun c => parkers c.2.groups c.2.waves
      let x := if ps = [] then x else x.unpark ps
      { x with waves := wakes (s.cycle b) x.groups x.waves,
               ctxs := x.ctxs.mapVal fun _ c => { c with waves := wakes (s.cycle b) c.groups c.waves } } }

/-- The passes of a ring slot go on when the ring is resumed (R245): failed writes to other packages are sent again, and
those that are owed are made, from the one that faulted on. A pass whose home slot has been unbound has no ring to resume
(DEDUCED, log entry 72). -/
def State.resumePasses (s : State) (b slot : Nat) : State :=
  s.passes.foldl (fun s q =>
    let p := q.2
    if p.bench != b || p.slot != slot || !p.halted || p.homeless then s
    else
      let pn := q.1 % 16
      let mine (r : Remote) : Bool := r.who == p.who && r.failed
      let again := s.dev.fabric.remotes.filter mine
      let s := s.modFabric fun f => { f with remotes := f.remotes.filter fun r => !mine r }
      let s := again.foldl (fun s r => s.ask r.who r.key r.req) s
      let s := s.modPass p.ctx pn fun p => { p with halted := false, owed := [] }
      match s.passWrites p.ctx pn ((p.owed.head?.map (·.1)).getD 0) (p.owed.map (·.2)) with
      | (true, s) => s.wakePass p.ctx pn
      | (false, s) => s) s

end Sys2Proof.Machine
end

