-- ==== Sys2Proof/Machine/Sched.lean ====
section
/-! DEFINITION. The work distributor: acceptance of launches (R189, R192), the head's dependences and predicate (R191,
R193, R194, R196), the fit and the placement of groups (R195, R198, R199, R19). -/

namespace Sys2Proof.Machine

open Sys2Proof

/-! ## The launch record -/

/-- Waves of a group of a launch record (R190, R19). -/
def recWaves (r : BitVec 512) : Nat := cdiv (recF r 62 54 + 1) 32
/-- Groups of a cluster (R190). -/
def recCl (r : BitVec 512) : Nat := recF r 119 117 + 1
/-- PART of a launch record (R190). -/
def recPart (r : BitVec 512) : Nat := recF r 122 120
/-- Register granules of a wave (R190). -/
def recRg (r : BitVec 512) : Nat := recF r 255 250 + 1
/-- Scratch granules of a group (R190). -/
def recScg (r : BitVec 512) : Nat := recF r 329 320

/-- The one die that a group may be placed on (R199), none for either. -/
def groupDie (r : BitVec 512) (id : Nat) : Option Nat :=
  let gx := recF r 303 288 + 1
  let gy := recF r 311 304 + 1
  match recF r 127 126 with
  | 1 => some (id / gx % gy % 2)
  | 2 => some (if id % gx < cdiv gx 2 then 0 else 1)
  | _ => none

/-- The dies that some group of a launch may be placed on. -/
def launchDies (r : BitVec 512) : List Nat :=
  match recF r 127 126 with
  | 1 => if recF r 311 304 = 0 then [0] else [0, 1]
  | 2 => if recF r 303 288 = 0 then [0] else [0, 1]
  | _ => [0, 1]

/-- Whether a partition's quota could hold one group with nothing resident (R192). -/
def Part.couldHold (p : Part) (r : BitVec 512) : Bool :=
  recWaves r ≤ p.wq && 1 ≤ p.gq && recWaves r * recRg r ≤ p.rq && recScg r ≤ p.sq

/-- The benches of the allowed dies whose quota could hold one group. -/
def State.quotaBenches (s : State) (r : BitVec 512) : List Nat :=
  (s.benches.filter fun p =>
    (launchDies r).contains (dieOf p.1) && (p.2.parts.get (recPart r) {}).couldHold r).map (·.1)

/-- The named timelines of a dependence are those of the queue's context (R192). -/
def State.depAllowed (s : State) (ctx sel : Nat) : Bool :=
  match Timeline.ofSel sel with
  | .nothing => true
  | .reserved => true
  | _ => s.ofCtx ctx sel

/-- Why a launch is refused (R189, R192), with the checks in the order of the table. While a context is being reset its
launches are refused as of a descriptor that is not valid (DESIGN CHOICE, log entry 28). -/
def State.launchRefusal (s : State) (q : Nat) (r : BitVec 512) : Option Nat :=
  let k := s.queue q
  let d := s.desc k.ctx
  let deps := (List.range 4).map (depSel r)
  if !k.v || !d.v || (s.ctxBlock k.ctx).rstbusy then some Cause.perm
  else if deps.any fun x => !s.depAllowed k.ctx x then some Cause.perm
  else if recF r 191 187 != 0 || recF r 383 382 != 0 || recF r 127 126 = 3 || recF r 249 247 = 7
      || (deps.any fun x => Timeline.ofSel x = .reserved) || 2 ^ 24 < gridGroups r || d.bad then some Cause.cmdIllegal
  else if gridGroups r % recCl r != 0
      || (recF r 127 126 != 0 && (List.range (gridGroups r)).any fun i =>
            i % recCl r != 0 && groupDie r i != groupDie r (i - 1)) then some Cause.cmdIllegal
  else
    let bs := s.quotaBenches r
    let ok := if recCl r = 1 then bs != [] else (List.range 32).any fun c =>
      recCl r ≤ (bs.filter fun b => cellOf b == c).length
    if !ok then some Cause.quota
    else if k.acc - k.tl = 256 then some Cause.ringFull
    else none

/-- A launch is accepted (R188, R192): the grid number. -/
def State.acceptLaunch (s : State) (q : Nat) (r : BitVec 512) (sys : Bool) : Except Nat (Nat × State) :=
  match s.launchRefusal q r with
  | some c => .error c
  | none =>
    let k := s.queue q
    let n := k.acc + 1
    let s := s.modQueue q fun x =>
      { x with acc := n, launches := x.launches ++
          [{ num := n, record := r, launch := (s.ctxBlock k.ctx).launches, sys := sys }] }
    .ok (n, s.modCtxBlock k.ctx fun c => { c with launches := c.launches + 1 })

/-! ## Dependences and the predicate -/

/-- The waves of a grid, resident or saved. -/
def State.gridWaves (s : State) (q num : Nat) : List Wave :=
  s.benches.flatMap fun p =>
    let mine (gs : Tbl Group) (ws : Tbl Wave) : List Wave := gs.flatMap fun g =>
      if g.2.origin = .grid q num then (ws.filter fun w => g.2.waves.contains w.1).map (·.2) else []
    mine p.2.groups p.2.waves ++ p.2.ctxs.flatMap fun c => mine c.2.groups c.2.waves

/-- A queue dependence is met early (R196): each of its grids has started and has completed or triggered. -/
def State.metEarly (s : State) (q v : Nat) : Bool :=
  let k := s.queue q
  tlMet k.sta v && k.launches.all fun l =>
    !tlMet v l.num || (s.gridWaves q l.num).all fun w => w.trig || w.frags == []

/-- Dependence `i` of a launch is met (R191, R196). -/
def State.depMet (s : State) (l : Launch) (i : Nat) : Bool :=
  let sel := depSel l.record i
  let v := depVal l.record i
  match Timeline.ofSel sel with
  | .ring b k => tlMet (s.ring b k).tl v
  | .queue q => tlMet (s.queue q).tl v || (recF l.record 63 63 = 1 && s.metEarly q v)
  | _ => true

/-- The head of a queue (R189): the launch after the last that started. -/
def Queue.head (k : Queue) : Option Launch := k.launches.find? fun l => l.num == k.sta + 1

/-- The distributor's read of a predicate word (R194): in the queue's context, at its point. -/
def State.predicateWord (s : State) (ctx va : Nat) : Except Nat (Nat × State) :=
  let d := s.desc ctx
  if !canonical va then .error Cause.perm
  else
    match s.walk 0 (va % 2 ^ 57) 5 d.root with
    | .error c => .error c
    | .ok (pte, pa, lv) =>
      if !permits true pte .read then .error Cause.perm
      else
        match if bitOf pte 6 then .ok s else s.setAD pa (pte ||| 64) with
        | .error c => .error c
        | .ok s =>
          match s.pointRead 0 (leafXlat s.pageAttr pte lv (va % 2 ^ 57)).pa 4 with
          | .error r => .error r.cause
          | .ok (bs, s) => .ok (leNat bs, s)

/-- A 57-bit address as the canonical 64-bit address. -/
def sextVa (a : Nat) : Nat := wrap 64 (sext 57 a)

/-- The comparison of a predicate (R190, R194). -/
def predHolds (cmp w v : Nat) : Bool :=
  match cmp with
  | 1 => w == v
  | 2 => w != v
  | 3 => v < w
  | 4 => v ≤ w
  | 5 => w < v
  | 6 => w ≤ v
  | _ => true

/-- A ring whose context has been reset (R38). -/
def State.ringAborted (s : State) (b k : Nat) : Bool := (s.ring b k).state == .aborted

/-- LAUNCH_PREDICATE (R193, R194): the head of a queue whose dependences are met evaluates its predicate once; one that
names a ring that has been reset is discarded. -/
def execLaunchPredicate (q : Nat) (s : State) : Host.Outcome State Fault Refusal :=
  let k := s.queue q
  match k.head with
  | none => .next s
  | some l =>
    if l.stage != 1 then .next s
    else if s.names s.ringAborted [] l then .next (s.discard s.ringAborted [])
    else if !(List.range 4).all (s.depMet l) then .next s
    else
      let go (s : State) : State := s.modLaunch q l.num fun l => { l with stage := 3, since := s.dev.ptc.ptc }
      let cmp := recF l.record 249 247
      if cmp = 0 then .next (go s)
      else
        -- PADDR is VA[56:2]
        let va := sextVa (recF l.record 246 192 * 4)
        match s.predicateWord k.ctx va with
        | .error c => .next (go (s.distRecord k.ctx q l.num c va (accessByte 1 4 true)))
        | .ok (w, s) =>
          if predHolds cmp w (recF l.record 287 256) then .next (go s) else .next (s.skipLaunch q l.num)

/-! ## Fit and placement -/

/-- Granules whose KIND is FREE (R52): only listed entries can be. -/
def Bench.freeGranules (b : Bench) : List Nat := (b.regionMap.filter fun p => p.2.toNat % 8 == 0).map (·.1)

/-- `w` runs of `n` contiguous granules, lowest-addressed first, and the granules left (R198, R199). -/
def takeRuns (n : Nat) : Nat → List Nat → Option (List Nat × List Nat)
  | 0, free => some ([], free)
  | w + 1, free =>
    match free.find? fun g => (List.range n).all fun k => free.contains (g + k) with
    | none => none
    | some g =>
      match takeRuns n w (free.filter fun x => !(g ≤ x && x < g + n)) with
      | none => none
      | some (gs, rest) => some (g :: gs, rest)

/-- Where a group goes on a bench: its wave slots, group slot, the first granule of each wave's run, and its scratch. -/
structure Fit where
  waves : List Nat
  gslot : Nat
  runs : List Nat
  scratch : List Nat
  deriving DecidableEq, Repr

/-- The fit of a group of a record on a bench (R198), when it fits. -/
def State.fit (s : State) (b ctx : Nat) (r : BitVec 512) (early : Bool) : Option Fit :=
  let x := s.bench b
  let p := x.parts.get (recPart r) {}
  let c := x.ctx ctx
  let w := recWaves r
  if c.draining || c.drained || c.saved || !s.cellOn (cellOf b) then none
  else if !(p.wuse + w ≤ p.wq && p.guse + 1 ≤ p.gq && p.ruse + w * recRg r ≤ p.rq && p.suse + recScg r ≤ p.sq) then none
  else if early && !(1 ≤ p.gres && p.gearly + 1 ≤ p.gq - p.gres) then none
  else
    let slots := ((List.range 32).filter fun k => (x.waves.get? k).isNone && !(x.groups.any fun g => g.2.waves.contains k)).take w
    if slots.length < w then none
    else
      match x.groups.lowestFree 32, takeRuns (recRg r) w x.freeGranules with
      | some g, some (runs, rest) =>
        if rest.length < recScg r then none
        else some { waves := slots, gslot := g, runs := runs, scratch := rest.take (recScg r) }
      | _, _ => none

/-- The start and helper masks of wave `w` of a group of `l` lanes (R19). -/
def startMasks (l w : Nat) : W32 × W32 :=
  let n := l - 32 * w
  if 32 ≤ n then (0xFFFFFFFF, 0)
  else
    let q := cdiv n 4 * 4
    (w32 (2 ^ q - 1), w32 (2 ^ q - 2 ^ n))

/-- A wave as it starts (R19, R30, R67, R181). The spec gives no start value for s, m and SCC: they hold open values, the
n-th of the model's (log entry 29). `sregs` are those that a mesh group sets (R230). -/
def startWave (r : BitVec 512) (gslot w run n now : Nat) (sregs : List (Nat × W64)) : Wave :=
  let (mask, helper) := startMasks (recF r 62 54 + 1) w
  let f : Frag := { mask := mask, pc := w64 (sextVa (recF r 53 0 * 8)), since := now }
  let open_ (i : Nat) : Nat := Config.freeOf n i w
  { group := gslot, index := w,
    s := sregs.foldl (fun t p => t.set p.1 p.2) ((List.range 64).map fun i => (i, w64 (open_ i))),
    m := (List.range 16).map fun i => (i, w32 (open_ (64 + i))),
    scc := BitVec.ofNat 4 (open_ 80), helper := helper, frags := [(0, f)], made := 1, b0 := run * 1024, g0 := recRg r }

/-- A group is placed on a bench (R19, R52, R150, R163, R166, R197): its record table is loaded before its first
instruction, which the low bit of `brt` marks. -/
def State.startGroup (s : State) (b ctx : Nat) (r : BitVec 512) (ft : Fit) (origin : Origin) (launch id cid : Nat)
    (cluster : List (Nat × Nat)) (early : Bool) (sregs : List (Nat × W64)) : State :=
  let s := s.acquire b 5
  let (n, s) := (s.free, { s with free := s.free + 1 })
  let part := recPart r
  let now := s.cycle b
  let brn := recF r 186 179
  let g : Group :=
    { ctx := ctx, part := part, origin := origin, launch := launch, groupId := id, clusterId := cid, cluster := cluster,
      waves := ft.waves, nwaves := recWaves r, granules := ft.scratch, scratch := 1024 * recScg r, early := early,
      param := w64 (sextVa (recF r 116 64 * 16)),
      brt := w64 (sextVa (recF r 178 128 * 64)) + (if brn = 0 then 0 else 1), brn := brn,
      text := some s.mem }
  s.modBench b fun x =>
    let x := (List.range ft.waves.length).foldl (fun (x : Bench) i =>
      let slot := ft.waves.getD i 0
      let run := ft.runs.getD i 0
      let x := x.setGranules ((List.range (recRg r)).map (run + ·)) (granuleWord 1 slot part 0)
      { x with waves := x.waves.set slot (startWave r ft.gslot i run n now sregs) }) x
    let x := x.setGranules ft.scratch (granuleWord 2 0 part ft.gslot)
    { x with
      groups := x.groups.set ft.gslot g,
      parts := x.parts.upd part {} fun p =>
        { p with wuse := p.wuse + recWaves r, guse := p.guse + 1, gearly := p.gearly + (if early then 1 else 0),
                 ruse := p.ruse + recWaves r * recRg r, suse := p.suse + recScg r } }

/-- The best bench of some for a group (R199): the most free wave slots in PART, then the lowest number. -/
def State.bestBench (s : State) (ctx : Nat) (r : BitVec 512) (early : Bool) (bs : List Nat) : Option (Nat × Fit) :=
  let room (b : Nat) : Nat := let p := (s.bench b).parts.get (recPart r) {}; p.wq - p.wuse
  bs.foldl (fun a b =>
    match s.fit b ctx r early with
    | none => a
    | some f =>
      match a with
      | none => some (b, f)
      | some (c, g) => if room c < room b then some (b, f) else some (c, g)) none

/-- Where the next group or cluster of a launch goes on a die (R199): each group's bench and fit. -/
def State.placement (s : State) (ctx die : Nat) (l : Launch) (early : Bool) : Option (List (Nat × Fit)) :=
  let r := l.record
  if (groupDie r l.placed).any fun d => d != die then none
  else
    let mine := (s.benches.filter fun p => dieOf p.1 == die).map (·.1)
    if recCl r = 1 then (s.bestBench ctx r early mine).map fun x => [x]
    else (List.range 32).findSome? fun c =>
      let fits := (mine.filter fun b => cellOf b == c).filterMap fun b => (s.fit b ctx r early).map fun f => (b, f)
      if fits.length < recCl r then none else some (fits.take (recCl r))

/-- A launch's groups placed now would be early groups (R196). -/
def State.placesEarly (s : State) (l : Launch) : Bool :=
  recF l.record 63 63 = 1 && (List.range 4).any fun i =>
    match Timeline.ofSel (depSel l.record i) with
    | .queue q => !tlMet (s.queue q).tl (depVal l.record i)
    | _ => false

/-- A group or cluster of a launch is placed (R19, R193). -/
def State.placeNext (s : State) (q : Nat) (l : Launch) (where_ : List (Nat × Fit)) (early : Bool) : State :=
  let ctx := (s.queue q).ctx
  let cl := where_.length
  let members := if cl = 1 then [] else where_.map fun p => (p.1, p.2.gslot)
  let s := (List.range cl).foldl (fun s i =>
    match where_[i]? with
    | none => s
    | some (b, f) => s.startGroup b ctx l.record f (.grid q l.num) l.launch (l.placed + i) i members early []) s
  let placed := l.placed + cl
  let s := s.modLaunch q l.num fun l => { l with placed := placed, live := l.live + cl, started := placed == gridGroups l.record }
  if placed = gridGroups l.record then s.modQueue q Queue.advanceSta else s

/-- The effective priority of a head (R195): `since` and package time are in nanoseconds. The clock of its waiting time is PTC,
so that a write or a step of PTC moves it too (DESIGN CHOICE, log entry 107). -/
def State.effPri (s : State) (k : Queue) (l : Launch) : Nat := min 7 (k.pri + (s.dev.ptc.ptc - l.since) / 50000)

/-- The eligible heads of a die (R195): queue, priority, launch, placement. -/
def State.eligible (s : State) (die : Nat) : List (Nat × Nat × Launch × List (Nat × Fit)) :=
  s.dev.queues.filterMap fun p =>
    match p.2.head with
    | none => none
    | some l =>
      if l.stage != 3 then none
      else (s.placement p.2.ctx die l (s.placesEarly l)).map fun w => (p.1, s.effPri p.2 l, l, w)

/-- Where the next mesh group of a pass would go on a die (R230): none when it fits nowhere there. -/
def State.meshFit (s : State) (p : Pass) (die : Nat) : Option (Nat × Fit) :=
  if p.queue = [] then none
  else
    let bs := (s.benches.map (·.1)).filter fun b => dieOf b == die && passIn p.record (cellOf b)
    s.bestBench p.ctx p.mrec false bs

/-- Some mesh group is eligible on a die at effective priority 7 (R195, R230). -/
def State.meshEligible (s : State) (die : Nat) : Bool := s.passes.any fun p => (s.meshFit p.2 die).isSome

/-- PLACE_GROUP (R195): the die places one group or cluster of the eligible head of highest effective priority, round-robin
among equals, the last queue served being kept for each die and level (DESIGN CHOICE, log entry 107); a mesh group that fits
comes before a grid below priority 7 (R230). -/
def execPlaceGroup (die : Nat) (s : State) : Host.Outcome State Fault Refusal :=
  let es := s.eligible die
  let top := maxList (es.map fun e => e.2.1)
  let cands : List (Nat × Nat × Launch × List (Nat × Fit)) := es.filter fun e => e.2.1 == top
  let last := (s.die die).served.get? top
  let pick := match last with
    | none => cands.head?
    | some q =>
      let later : List (Nat × Nat × Launch × List (Nat × Fit)) := cands.filter fun e => q < e.1
      later.head?.or cands.head?
  match pick with
  | none => .next s
  | some (q, _, l, w) =>
    if top < 7 && s.meshEligible die then .next s
    else .next ((s.placeNext q l w (s.placesEarly l)).modDie die fun d => { d with served := d.served.set top q })

end Sys2Proof.Machine
end

