-- ==== Sys2Proof/Machine/Push.lean ====
section
/-! DEFINITION. What waves hand to other units: launches (R366, R367), pushes of engine commands (R376 to R378, R386 to
R388, R315), and register granules (R55, R391). -/

namespace Sys2Proof.Machine

open Sys2Proof

/-- A 64-byte block at a virtual address, read once for the wave in its context (R367, R388): a fault is precise. -/
def State.readBlock (s : State) (cx : Wcx) (va : Nat) (go : List Byte → State → WRes) : WRes :=
  let bad (s : State) (r : Raise) : WRes :=
    .raise ((cx.mu s).ended cx s) { r with lanes := 0, access := accessByte 1 64 false }
  match s.vaPieces cx va 64 false .read with
  | .error r => bad s r
  | .ok (ps, s) =>
    match (cx.mu s).readAll none false ps with
    | .error r => bad s r
    | .ok (bs, m) => m.settle cx s [] 0xFF 0 (go bs)

/-- A scalar destination written as the instruction's result. -/
def Wcx.result (cx : Wcx) (s : State) (sd : Nat) (v : W64) : WRes := .done (s.setS cx sd v) [] 0

/-- The value of a refusal (R367, R377, R388). -/
def refused (cause : Nat) : W64 := w64 (2 ^ 63 + cause)

/-- LAUNCH (R366, R367). -/
def execLaunch (f : FS) (s : State) : Host.Outcome State Fault Refusal :=
  s.issue { reads := sReads f, writes := [sReg f.sd.toNat], barred := true } fun cx =>
    let r := (cx.w.sreg f.sa.toNat).toNat
    let q := (cx.sB f).toNat
    if 64 ≤ q then .raise s (raiseOf Cause.illegal)
    else if r % 64 != 0 then .raise s { cause := Cause.align, va := r }
    else
      (s.release cx.b 5).readBlock cx r fun bs s =>
        if (s.queue q).ctx != cx.g.ctx then cx.result s f.sd.toNat (refused Cause.perm)
        else
          match s.acceptLaunch q (BitVec.ofNat 512 (leNat bs)) false with
          | .error c => cx.result s f.sd.toNat (refused c)
          | .ok (n, s) => cx.result s f.sd.toNat (w64 n)

/-- MENQ (R376, R377). -/
def execMenq (f : FS) (s : State) : Host.Outcome State Fault Refusal :=
  s.issue { reads := [sReg f.sa.toNat], writes := [sReg f.sd.toNat], barred := true } fun cx =>
    let slot := f.imm.toNat % 16
    let r := s.ring cx.b slot
    let sd := f.sd.toNat
    if !r.bound || r.state = .aborted || r.timed then cx.result s sd (refused Cause.cmdIllegal)
    else if r.ctx != cx.g.ctx then cx.result s sd (refused Cause.perm)
    else if r.wp - r.tl = r.size then cx.result s sd (refused Cause.ringFull)
    else
      let s := (s.release cx.b 2).pushWord cx.b slot (cx.w.sreg f.sa.toNat)
        { pc := cx.f.pc, kind := 1, slot := cx.slot, bench := cx.b }
      cx.result s sd (w64 (r.wp + 1))

/-- The slot that MLOOP pushes to (R315): the lowest-numbered dynamic one bound to the matrix engine for the context. -/
def State.mloopSlot (s : State) (b ctx : Nat) : Option Nat :=
  (List.range 16).find? fun k =>
    let r := s.ring b k
    r.bound && r.state != .aborted && !r.timed && r.eng == .matrix && r.ctx == ctx

/-- The word that MLOOP pushes (R315). -/
def mloopWord (f : FE) : W64 := f.ws ++ f.sg ++ (0x11 : BitVec 8) ++ f.f

/-- MLOOP (R315, R378). -/
def execMloop (f : FE) (s : State) : Host.Outcome State Fault Refusal :=
  s.issue { barred := true } fun cx =>
    match s.mloopSlot cx.b cx.g.ctx with
    | none => .raise s { cause := Cause.cmdIllegal, aux := 0xFF }
    | some k =>
      let r := s.ring cx.b k
      if r.wp - r.tl = r.size then .raise s { cause := Cause.ringFull, aux := k }
      else
        .done ((s.release cx.b 2).pushWord cx.b k (mloopWord f)
          { pc := cx.f.pc, kind := 1, slot := cx.slot, bench := cx.b }) [] 0

/-- NQ (R386 to R388). -/
def execNq (f : FS) (s : State) : Host.Outcome State Fault Refusal :=
  s.issue { reads := [sReg f.sa.toNat], writes := [sReg f.sd.toNat], barred := true } fun cx =>
    let a := (cx.w.sreg f.sa.toNat).toNat
    let sd := f.sd.toNat
    if a % 64 != 0 then .raise s { cause := Cause.align, va := a }
    else
      (s.release cx.b 5).readBlock cx a fun bs s =>
        let w := leNat bs
        let slot := bitsOf w 3 0
        let b := bitsOf w 11 4
        let n := bitsOf w 15 13 + 1
        let r := s.ring b slot
        if bitOf w 12 || bitsOf w 63 16 != 0 || n = 8 then cx.result s sd (refused Cause.cmdIllegal)
        else if !s.cellOn (cellOf b) then cx.result s sd (refused Cause.perm)
        else if !r.bound || r.state = .aborted || r.timed then cx.result s sd (refused Cause.cmdIllegal)
        else if r.ctx != cx.g.ctx then cx.result s sd (refused Cause.perm)
        else if r.size < r.wp - r.tl + n then cx.result s sd (refused Cause.ringFull)
        else
          let p : Pusher := { pc := cx.f.pc, kind := 3, slot := cx.slot, bench := cx.b }
          let s := (List.range n).foldl (fun s k =>
            s.pushWord b slot (w64 (bitsOf w (64 * k + 127) (64 * k + 64))) p) s
          cx.result s sd (w64 (r.wp + n))

/-! ## RQXFER -/

/-- The donor's window without its top `g` granules (R55), with the base of what it gives: none when they do not come from
one segment or too few granules would stay. -/
def Wave.give (w : Wave) (g : Nat) : Option (Wave × Nat) :=
  if w.g0 + w.g1 ≤ g then none
  else if w.g1 = 0 then some ({ w with g0 := w.g0 - g }, w.b0 + 1024 * (w.g0 - g))
  else if w.g1 < g then none
  else
    let k := w.g1 - g
    some ({ w with g1 := k, b1 := if k = 0 then 0 else w.b1 }, w.b1 + 1024 * k)

/-- The receiver's window with `g` granules at a base above its top register (R55): none when its segments cannot take
them or it would hold more than 512 registers. -/
def Wave.take (w : Wave) (base g : Nat) : Option Wave :=
  if 64 < w.g0 + w.g1 + g then none
  else if w.g1 = 0 then
    if base = w.b0 + 1024 * w.g0 then some { w with g0 := w.g0 + g } else some { w with b1 := base, g1 := g }
  else if base = w.b1 + 1024 * w.g1 then some { w with g1 := w.g1 + g }
  else none

/-- RQXFER (R55, R391). -/
def execRqxfer (f : FS) (s : State) : Host.Outcome State Fault Refusal :=
  s.issue { reads := sReads f, barred := true } fun cx =>
    let rx := (cx.w.sreg f.sa.toNat).toNat
    let g := (cx.sB f).toNat
    if cx.g.nwaves ≤ rx then .raise s (raiseOf Cause.illegal)
    else if g = 0 || rx = cx.w.index then .done s [] 0
    else
      let quota : WRes := .raise s (raiseOf Cause.quota)
      let slot := cx.g.waves.getD rx 0
      match s.wave? cx.b slot, cx.w.give g with
      | some r, some (donor, base) =>
        if r.frags = [] then quota
        else
          match r.take base g with
          | none => quota
          | some r =>
            let top := 8 * (donor.g0 + donor.g1)
            let s := s.modWave cx.b cx.slot fun _ => { donor with oc := donor.oc.filter (· < top) }
            let s := s.modWave cx.b slot fun _ => r
            let gs := (List.range g).map (base / 1024 + ·)
            .done (s.modBench cx.b fun x => x.setGranules gs (granuleWord 1 slot cx.g.part 0)) [] 0
      | _, _ => quota

end Sys2Proof.Machine
end

