-- ==== Sys2Proof/Machine/Blowpipe.lean ====
section
/-! DEFINITION. The blowpipe instructions of gaffers and host cores (R247 to R249, R254 to R257, R262, R437 to R444). -/

namespace Sys2Proof.Machine

open Sys2Proof

/-- Unassigned custom-0 words (R332): an illegal-instruction exception. -/
def execUnassignedCustom0 (_w : W32) (s : State) : Host.Outcome State Fault Refusal :=
  match s.hcx with
  | none => .fault .noIssuer
  | some cx => .next (s.hartExc cx (w64 excIllegal) cx.h.pc.toNat)

/-- The instruction that blocks a hart completes with a value (R249). -/
def Hart.unblock (h : Hart) (rd : Nat) (v : W64) : Hart :=
  { h.set rd v with pc := h.pc + 4, blocked := none, aborted := false }

/-- Who pushes for an instruction of a gaffer (R35): KIND 0, or 2 for a macro step. -/
def Hcx.pusher (cx : Hcx) (kind micro : Nat) : Pusher :=
  { pc := cx.h.pc, micro := micro, kind := kind, bench := cx.bench.getD 0 }

/-! ## Rings -/

/-- XPUSH (R248, R438). -/
def execXpush (f : XR) (s : State) : Host.Outcome State Fault Refusal :=
  s.xIssue false f fun cx =>
    let b := cx.bench.getD 0
    match (s.release b 2).push b (cx.rs1 f % 16) (w64 (cx.rs2 f)) (cx.pusher 0 0) with
    | .error c => .done s (refusal c)
    | .ok (k, s) => .done s (w64 k)

/-- A step of a macro (R255): the index of its control word, and for an EMIT its slot, ARGI, FMASK and template. -/
structure MacroStep where
  index : Nat
  slot : Nat
  argi : Nat
  fmask : Nat
  template : Nat
  deriving DecidableEq, Repr

/-- The EMIT steps of a macro in a control store, up to END, and whether it is well formed (R255, R256): not when a reserved
KIND or field is set, an index would pass 4,095, or no END appears within the steps left. A step of a reserved KIND has no
length, so that none is read from it on (DEDUCED, log entry 107). -/
def macroSteps (cs : Tbl W64) : Nat → Nat → List MacroStep × Bool
  | 0, _ => ([], false)
  | n + 1, i =>
    if 4095 < i then ([], false)
    else
      let c := (cs.get i 0).toNat
      let clean := bitsOf c 51 40 == 0
      match bitsOf c 63 62 with
      | 1 => ([], clean)
      | 0 =>
        if 4095 < i + 1 then ([], false)
        else
          let st : MacroStep := ⟨i, bitsOf c 61 58, bitsOf c 57 52, bitsOf c 39 0, (cs.get (i + 1) 0).toNat⟩
          let (rest, ok) := macroSteps cs n (i + 2)
          (st :: rest, ok && clean)
      | _ => ([], false)

/-- The command of an EMIT step from its argument word (R255). -/
def MacroStep.word (m : MacroStep) (arg : Nat) : W64 :=
  let t := bitsOf m.template 39 0
  w64 (setBits m.template 39 0 ((t - (t &&& m.fmask)) ||| (bitsOf arg 39 0 &&& m.fmask)))

/-- The argument words of steps, each read in the gaffer's address space (R256). -/
def State.macroArgs (s : State) (cx : Hcx) (base : Nat) : List MacroStep → Mu → Except Exc (List Nat × Mu)
  | [], m => .ok ([], m)
  | st :: rest, m =>
    match m.s.hartRead cx m ((base + 8 * st.argi) % 2 ^ 64) 8 with
    | .error e => .error e
    | .ok (bs, m) =>
      match s.macroArgs cx base rest m with
      | .error e => .error e
      | .ok (as, m) => .ok (leNat bs :: as, m)

/-- Why the pushes of a macro are refused (R256): CMDILLEGAL for a slot that takes none, else RINGFULL when a ring lacks
room for all of its own. -/
def State.macroRefusal (s : State) (b : Nat) (steps : List MacroStep) : Option Nat :=
  let cs := steps.map fun st => (s.ring b st.slot).pushRefusal (steps.filter fun x => x.slot == st.slot).length
  if cs.contains (some Cause.cmdIllegal) then some Cause.cmdIllegal
  else if cs.contains (some Cause.ringFull) then some Cause.ringFull
  else none

/-- XPUSHM (R254, R255, R256): its steps, as the control store held them when it began, and their argument words are read;
then the whole expansion is pushed, or nothing. -/
def execXpushm (f : XR) (s : State) : Host.Outcome State Fault Refusal :=
  s.xIssue false f fun cx =>
    let b := cx.bench.getD 0
    let arg := cx.rs2 f
    if arg % 8 != 0 then .raise ⟨excLoadAlign, arg, 0⟩
    else
      let cs := cx.h.words.getD (s.bench b).cstore
      let (steps, ok) := macroSteps cs 128 (cx.rs1 f % 4096)
      match s.macroArgs cx arg steps (cx.mu s) with
      | .error e => .raise e
      | .ok (as, m) =>
        if m.waits then .stay ((m.send s).modHart cx.at_ fun h => { h with words := some cs })
        else
          let s := m.s.dropRemotes cx.who
          if !ok then .done s (refusal Cause.cmdIllegal)
          else
            match s.macroRefusal b steps with
            | some c => .done s (refusal c)
            | none =>
              let s := (steps.zip as).foldl
                (fun s p => s.pushWord b p.1.slot (p.1.word p.2) (cx.pusher 2 p.1.index)) (s.release b 2)
              .done s (w64 steps.length)

/-- XWMARK (R444): ignored for an UNBOUND slot. -/
def execXwmark (f : XR) (s : State) : Host.Outcome State Fault Refusal :=
  s.xIssue false f fun cx =>
    let b := cx.bench.getD 0
    let k := cx.rs1 f % 16
    .done (if (s.ring b k).bound then s.modRing b k fun r => { r with wm := min 4096 (cx.rs2 f % 8192) } else s) 0

/-! ## Fences and timelines -/

/-- XFENCE (R149, R444): SC = 7 is illegal. A gaffer that names WAVE or GROUP acts at BENCH (R143). A host core has no L1. -/
def execXfence (f : XR) (s : State) : Host.Outcome State Fault Refusal :=
  s.xIssue true f fun cx =>
    let v := cx.rs1 f
    if v % 8 = 7 then cx.illegal
    else
      match cx.bench with
      | some b => .done (s.fence b (bitsOf v 4 3) (max 2 (v % 8))) 0
      | none => .done s 0

/-- A selector that XTLRD and XTLWAIT refuse (R437). -/
def selIllegal (sel : Nat) : Bool :=
  match Timeline.ofSel sel with
  | .nothing => true
  | .reserved => true
  | _ => false

/-- XTLRD (R442). -/
def execXtlrd (f : XR) (s : State) : Host.Outcome State Fault Refusal :=
  s.xIssue true f fun cx =>
    let sel := cx.rs1 f % 2 ^ 13
    if selIllegal sel then cx.illegal else .done s (w64 (s.tl (.ofSel sel)))

/-- A wait on the timeline can no longer be met (R442): its ring is unbound or reset. -/
def State.tlGone (s : State) (sel : Nat) : Bool :=
  match Timeline.ofSel sel with
  | .ring b k => !(s.ring b k).bound || (s.ring b k).state == .aborted
  | _ => false

/-- The acquire of a hart's timeline wait (R150, R442): none is needed on a host core, which has no L1. -/
def State.hartAcquire (s : State) (cx : Hcx) (sel : Nat) : State :=
  match cx.bench with
  | some b => s.acquire b (tlScope b (.ofSel sel))
  | none => s

/-- XTLWAIT (R442). -/
def execXtlwait (f : XR) (s : State) : Host.Outcome State Fault Refusal :=
  s.xIssue true f fun cx =>
    let sel := cx.rs1 f % 2 ^ 13
    let v := cx.rs2 f
    if selIllegal sel then cx.illegal
    else if cx.h.aborted then .done s (refusal Cause.aborted)
    else if v ≤ s.tl (.ofSel sel) then .done (s.hartAcquire cx sel) (w64 (s.tl (.ofSel sel)))
    else if s.tlGone sel then .done s (refusal Cause.aborted)
    else .stay (s.modHart cx.at_ fun h => { h with blocked := some (.timeline sel v f.rd.toNat) })

/-! ## Semaphores and package time -/

/-- XSEMP (R151, R444): granted at once, or blocked until SEMAPHORE_GRANT. -/
def execXsemp (f : XR) (s : State) : Host.Outcome State Fault Refusal :=
  s.xIssue false f fun cx =>
    let b := cx.bench.getD 0
    let k := cx.rs1 f % 256
    let (ok, s) := s.semTake b k .gaffer
    if ok then .done s 0
    else .stay (s.modHart cx.at_ fun h => { h with blocked := some (.sem k f.rd.toNat) })

/-- XSEMV (R248, R437). -/
def execXsemv (f : XR) (s : State) : Host.Outcome State Fault Refusal :=
  s.xIssue false f fun cx =>
    let b := cx.bench.getD 0
    let n := cx.rs2 f
    if n = 0 || 2 ^ 32 ≤ n then cx.illegal
    else
      match (s.release b 2).semAdd b (cx.rs1 f % 256) n with
      | some s => .done s 0
      | none => .done s (refusal Cause.semOvf)

/-- XSEMRD (R248). -/
def execXsemrd (f : XR) (s : State) : Host.Outcome State Fault Refusal :=
  s.xIssue false f fun cx => .done s (w64 ((s.bench (cx.bench.getD 0)).sem (cx.rs1 f % 256)))

/-- XSEMWR (R444): waits that it lets go are granted by SEMAPHORE_GRANT. -/
def execXsemwr (f : XR) (s : State) : Host.Outcome State Fault Refusal :=
  s.xIssue false f fun cx => .done (s.setSem (cx.bench.getD 0) (cx.rs1 f % 256) (cx.rs2 f % 2 ^ 32)) 0

/-- XTICK (R444). -/
def execXtick (f : XR) (s : State) : Host.Outcome State Fault Refusal :=
  s.xIssue false f fun _ => .done s (w64 s.dev.ptc.ptc)

/-- Bench-clock cycles of a die between now and a tick of package time (R292: step k runs at 2.4 − 0.2k GHz). -/
def State.cyclesTo (s : State) (die tick : Nat) : Nat :=
  let step := if die = 0 then s.dev.power.step0 else s.dev.power.step1
  (tick - s.dev.ptc.ptc) * (24 - 2 * step) / 10

/-- The slots of a mask. -/
def maskSlots (m : Nat) : List Nat := (List.range 16).filter fun k => bitOf m k

/-- XTKBAR (R40, R439): refused, blocked until the tick, or refused with TIMING when the tick has passed or lies fewer than
64 cycles ahead, with every named ring halted at its first command. -/
def execXtkbar (f : XR) (s : State) : Host.Outcome State Fault Refusal :=
  s.xIssue false f fun cx =>
    let b := cx.bench.getD 0
    let tick := cx.rs1 f
    let ks := maskSlots (cx.rs2 f % 2 ^ 16)
    let die := s.domain (dieOf b)
    let waiting := match cx.h.blocked with
      | some (.tick _ _) => true
      | _ => false
    if waiting then .stay s
    else if ks = [] || ks.any fun k => !((s.ring b k).bound && (s.ring b k).timed && (s.ring b k).armed) then
      .done s (refusal Cause.cmdIllegal)
    else if tick < s.dev.ptc.ptc || s.cyclesTo die tick < 64 then
      .done (ks.foldl (fun s k => s.haltRing b k ((s.ring b k).rp + 1) (raiseOf Cause.timing)) s) (refusal Cause.timing)
    else
      let s := s.modDie die fun d => { d with tkbars := d.tkbars ++ [(b, tick, cx.rs2 f % 2 ^ 16)] }
      .stay (s.modHart cx.at_ fun h => { h with blocked := some (.tick tick f.rd.toNat) })

/-- TIMED_RING_RENDEZVOUS (R40): at the tick every named ring of the domain takes the same T(0), and each XTKBAR of that
tick writes 0. Where package time has stepped past the tick (R276), the named rings halt with TIMING at their first command
and XTKBAR gets the refusal. -/
def execTimedRingRendezvous (die tick : Nat) (s : State) : Host.Outcome State Fault Refusal :=
  if s.domain die != die || s.dev.ptc.ptc < tick then .next s
  else
    let hits := (s.die die).tkbars.filter fun x => x.2.1 == tick
    let now := (s.die die).cycle
    let met := s.dev.ptc.ptc == tick
    let s := s.modDie die fun d => { d with tkbars := d.tkbars.filter fun x => x.2.1 != tick }
    let start (r : Ring) : Ring :=
      if r.timed && r.armed && r.state == .running then
        { r with armed := false, begun := true, first := true, lastT := now, slip := 0 } else r
    .next (hits.foldl (fun s x =>
      let s := (maskSlots x.2.2).foldl (fun s k =>
        if met then s.modRing x.1 k start else s.haltRing x.1 k ((s.ring x.1 k).rp + 1) (raiseOf Cause.timing)) s
      s.modBench x.1 fun y => match y.gaffer.blocked with
        | some (.tick _ rd) => { y with gaffer := y.gaffer.unblock rd (if met then 0 else refusal Cause.timing) }
        | _ => y) s)

/-! ## Messages and launches -/

/-- XMSEND (R257, R441). -/
def execXmsend (f : XR) (s : State) : Host.Outcome State Fault Refusal :=
  s.xIssue true f fun cx =>
    let va := cx.rs2 f
    let dst := cx.rs1 f % 1024
    let src := match cx.bench, cx.host with
      | some b, _ => b
      | none, some h => 0x100 + h
      | none, none => 0
    if va % 64 != 0 then .raise ⟨excLoadAlign, va, 0⟩
    else
      match s.hartRead cx (cx.mu s) va 64 with
      | .error e => .raise e
      | .ok (bs, m) =>
        if m.waits then .stay (m.send s)
        else
          let s := m.s.dropRemotes cx.who
          if 0xFF < dst || !s.cellOn (cellOf dst) then .done s (refusal Cause.perm)
          else if 16 ≤ (s.bench dst).mailbox.length then .done s (refusal Cause.ringFull)
          else
            let s := match cx.bench with
              | some b => s.release b 5
              | none => s
            .done (s.modBench dst fun x => { x with mailbox := x.mailbox ++ [(src, bs)] }) 0

/-- XMRECV (R257, R441): blocked until a message is present. -/
def execXmrecv (f : XR) (s : State) : Host.Outcome State Fault Refusal :=
  s.xIssue false f fun cx =>
    let b := cx.bench.getD 0
    let va := cx.rs1 f
    if va % 64 != 0 then .raise ⟨excStoreAlign, va, 0⟩
    else
      match (s.bench b).mailbox with
      | [] => .stay s
      | (tag, bs) :: rest =>
        match s.hartWrite cx (cx.mu s) va bs with
        | .error e => .raise e
        | .ok m =>
          if m.waits then .stay (m.send s)
          else
            let s := (m.s.dropRemotes cx.who).modBench b fun x => { x with mailbox := rest }
            .done (s.acquire b 5) (w64 tag)

/-- XHLAUNCH (R192, R262, R443): a fault of its read is a page-fault exception. -/
def execXhlaunch (f : XR) (s : State) : Host.Outcome State Fault Refusal :=
  s.xIssue true f fun cx =>
    let va := cx.rs1 f
    if va % 64 != 0 then .raise ⟨excLoadAlign, va, 0⟩
    else
      match s.hartRead cx (cx.mu s) va 64 with
      | .error e => .raise (if e.code = excLoadAccess then { e with code := excLoadPage } else e)
      | .ok (bs, m) =>
        if m.waits then .stay (m.send s)
        else
          let s := m.s.dropRemotes cx.who
          let s := match cx.bench with
            | some b => s.release b 5
            | none => s
          match s.acceptLaunch (cx.rs2 f % 64) (BitVec.ofNat 512 (leNat bs)) cx.host.isSome with
          | .error c => .done s (refusal c)
          | .ok (n, s) => .done s (w64 n)

/-! ## Draining -/

/-- A context has a wave, group or bound ring on a bench (R440). -/
def Bench.holds (b : Bench) (ctx : Nat) : Bool :=
  b.groups.any (fun p => p.2.ctx == ctx) || b.rings.any fun p => p.2.bound && p.2.ctx == ctx

/-- A drain of a context starts on a bench (R200): semaphore waits that are not granted are withdrawn and arrive again
after the resume. -/
def State.startDrain (s : State) (b ctx : Nat) : State :=
  let s := s.modCtxBench b ctx fun c => { c with draining := true }
  s.modBench b fun x =>
    let mine (slot : Nat) : Bool := match x.waves.get? slot with
      | some w => (x.groups.get? w.group).any fun g => g.ctx == ctx
      | none => false
    let x := x.unpark (x.semWaits.filterMap fun p => match p.2 with
      | .frag slot e => if mine slot then some (.frag ctx slot e) else none
      | _ => none)
    { x with
      semWaits := x.semWaits.filter fun p => match p.2 with
        | .frag slot _ => !mine slot
        | .ring k => (x.ring k).ctx != ctx
        | _ => true
      waves := x.waves.mapVal fun slot w => if mine slot then
        { w with frags := w.frags.mapVal fun _ f => match f.wait with
          | some (.sem _) => { f with wait := none }
          | _ => f } else w }

/-- XDRAIN (R200, R440): blocked until every unit of the context on the bench has stopped. -/
def execXdrain (f : XR) (s : State) : Host.Outcome State Fault Refusal :=
  s.xIssue false f fun cx =>
    let b := cx.bench.getD 0
    let ctx := cx.rs1 f % 65536
    let c := (s.bench b).ctx ctx
    if c.drained || c.saved || !(s.bench b).holds ctx then .done s 0
    else if c.draining then .stay s
    else .stay (s.startDrain b ctx)

/-- A fragment has an instruction under way that a drain waits for (R200, R246). Lanes of a MEMIT that wait for a split are
awaited as long as the split can go on; an offer that waits is a fragment parked at its TEMIT. -/
def State.drainWaits (s : State) (g : Group) (f : Frag) : Bool :=
  match f.wait, g.origin with
  | some (.pass pn), .mesh _ _ => (s.pass? g.ctx pn).any s.passRuns
  | some (.pass _), .grid _ _ => false
  | _, _ => f.underWay

/-- Every unit of a draining context has stopped (R200): no fragment of its is inside a bypass window or has an instruction
under way, and no command stands inside a unit of its work. -/
def State.stopped (s : State) (b ctx : Nat) : Bool :=
  let x := s.bench b
  (x.waves.all fun p => match x.groups.get? p.2.group with
    | some g => g.ctx != ctx || p.2.frags.all fun f => f.2.win.left == 0 && !s.drainWaits g f.2
    | none => true)
  && x.rings.all fun p => p.2.ctx != ctx || p.2.active.all fun a => !a.midStep

/-- A command as a drain has stopped it (R102, R448): off the array, and a K-step of it that had not all its operands is
fetched anew. -/
def Active.drained (e : Engine) (a : Active) : Active :=
  let a := if e = .matrix then { a with sub := 0, fetched := [] } else a
  { a with off := a.begun && !a.worked }

/-- DRAIN_COMPLETE (R38, R440): CXSTAT.DRAINED is set, and the context's running rings are DRAINED, a timed one with FIN
clear (R42); a split's wait for its semaphore is withdrawn. The blocked XDRAIN completes when its gaffer executes it next. -/
def execDrainComplete (b ctx : Nat) (s : State) : Host.Outcome State Fault Refusal :=
  let x := s.bench b
  if !(x.ctx ctx).draining || !s.stopped b ctx then .next s
  else
    let s := s.modCtxBench b ctx fun c => { c with draining := false, drained := true }
    let stop (r : Ring) : Ring := { r with active := r.active.map (Active.drained r.eng) }
    let drain (r : Ring) : Ring :=
      if r.ctx != ctx then r
      else if r.state = .running then { stop r with state := .drained, fin := none, armed := false, begun := false }
      else stop r
    .next (s.modBench b fun x => { x with
      rings := x.rings.mapVal fun _ r => drain r,
      semWaits := x.semWaits.filter fun p => match p.2 with
        | .pass c _ => c != ctx
        | _ => true })

/-! ## Grants -/

/-- A hart that waits on a timeline goes on once the value is reached (R442). -/
def State.hartMet (s : State) (at_ : Issuer) (h : Hart) : State :=
  match h.blocked with
  | some (.timeline sel v rd) =>
    let tl := s.tl (.ofSel sel)
    if h.aborted || tl < v then s
    else
      let s := s.modHart at_ fun h => h.unblock rd (w64 tl)
      match at_ with
      | .gaffer b => s.acquire b (tlScope b (.ofSel sel))
      | _ => s
  | _ => s

/-- A fragment that waits on a timeline goes on once the value is reached (R409). -/
def State.fragMet (s : State) (b slot e : Nat) : State :=
  match (s.frag? b slot e).bind (·.wait) with
  | some (.timeline sel v sd) =>
    let tl := s.tl (.ofSel sel)
    if !tlMet tl v then s
    else
      let s := s.modWave b slot fun w => { w with s := w.s.set sd (w64 tl) }
      (s.resumeFrag b slot e).acquire b (tlScope b (.ofSel sel))
  | _ => s

/-- The wait of a unit on a timeline ends where its value is reached (R409, R442). -/
def State.timelineMet (s : State) (u : UnitRef) : State :=
  match u with
  | .frag b slot e => s.fragMet b slot e
  | .gaffer b => s.hartMet (.gaffer b) (s.bench b).gaffer
  | .host h => s.hartMet (.host h) (s.host h)
  | .ring _ _ => s

/-- The waits on a timeline that are met already end (R409, R442), of every unit that waits on it. -/
def State.settleWaits (s : State) (sel : Nat) : State :=
  let frags := s.benches.flatMap fun p => p.2.waves.flatMap fun w => w.2.frags.filterMap fun f => match f.2.wait with
    | some (.timeline sel' _ _) => if sel' = sel then some (UnitRef.frag p.1 w.1 f.1) else none
    | _ => none
  let on (h : Hart) : Bool := match h.blocked with
    | some (.timeline sel' _ _) => sel' == sel
    | _ => false
  let us := frags ++ ((s.benches.filter fun p => on p.2.gaffer).map fun p => UnitRef.gaffer p.1)
    ++ ((s.hosts.filter fun p => on p.2).map fun p => UnitRef.host p.1)
  us.foldl (fun s u => s.timelineMet u) s

/-- SEMAPHORE_GRANT (R151): the first wait of a counter takes a unit, when there is one. A fragment or gaffer goes on after
its instruction; a ring head and a pass have their wait, which they find when they act next. -/
def execSemaphoreGrant (b ctr : Nat) (s : State) : Host.Outcome State Fault Refusal :=
  let x := s.bench b
  match x.semWaits.find? fun p => p.1 == ctr with
  | none => .next s
  | some (_, w) =>
    if x.sem ctr = 0 then .next s
    else
      let s := (s.takeUnit b ctr).modBench b fun x => { x with semWaits := dropFirst (· == (ctr, w)) x.semWaits }
      match w with
      | .frag slot e => .next (s.resumeFrag b slot e)
      | .ring k => .next (s.modRing b k fun r => { r with tookWait := true })
      | .gaffer =>
        .next (s.modBench b fun x => match x.gaffer.blocked with
          | some (.sem _ rd) => { x with gaffer := x.gaffer.unblock rd 0 }
          | _ => x)
      | .pass ctx pn => .next (s.modPass ctx pn fun p => { p with split := 3 })

/-- TIMELINE_WAIT_MET (R409, R442): a parked wait whose value is reached writes the timeline of the moment and acquires. -/
def execTimelineWaitMet (u : UnitRef) (s : State) : Host.Outcome State Fault Refusal := .next (s.timelineMet u)

end Sys2Proof.Machine
end

