-- ==== Sys2Proof/Machine/Crypto.lean ====
section
/-! DEFINITION. The published algorithms of the boot ROM (R2, R286, R288): SHA-512, and Ed25519 signatures. A byte string
and its number are little-endian (R3), and the words of SHA-512 are big-endian, as its specification has them. -/

namespace Sys2Proof.Machine

open Sys2Proof

/-! ## SHA-512 -/

/-- The greatest number whose `k`-th power is at most `n`, its bits from bit `i` − 1 down tried in turn. -/
def rootFloor (k n : Nat) : Nat → Nat → Nat
  | 0, r => r
  | i + 1, r => rootFloor k n i (if (r + 2 ^ i) ^ k ≤ n then r + 2 ^ i else r)

/-- The first `n` primes from `p` on, in at most `fuel` trials. -/
def primesFrom : Nat → Nat → Nat → List Nat
  | 0, _, _ => []
  | _, 0, _ => []
  | fuel + 1, n + 1, p =>
    if (List.range p).any fun d => 1 < d && p % d = 0 then primesFrom fuel (n + 1) (p + 1)
    else p :: primesFrom fuel n (p + 1)

/-- The first 64 bits of the fraction of the `k`-th root of a prime. -/
def rootFrac (k p : Nat) : W64 := w64 (rootFloor k (p * 2 ^ (64 * k)) 69 0)

/-- The 80 round constants: from the cube roots of the first 80 primes. -/
def shaK : List W64 := (primesFrom 410 80 2).map (rootFrac 3)

/-- The initial hash value: from the square roots of the first eight primes. -/
def shaInit : List W64 := (primesFrom 20 8 2).map (rootFrac 2)

/-- The functions Σ and σ: two rotations, and a third one or a shift. -/
def shaMix (x : W64) (a b c : Nat) (shift : Bool) : W64 :=
  x.rotateRight a ^^^ x.rotateRight b ^^^ (if shift then x >>> c else x.rotateRight c)

/-- The message schedule, newest word first: `n` more words. -/
def shaSchedule : Nat → List W64 → List W64
  | 0, ws => ws
  | n + 1, ws =>
    let at_ (i : Nat) : W64 := ws.getD i 0
    shaSchedule n ((shaMix (at_ 1) 19 61 6 true + at_ 6 + shaMix (at_ 14) 1 8 7 true + at_ 15) :: ws)

/-- One round, with its constant and its word. -/
def shaRound (v : List W64) (kw : W64 × W64) : List W64 :=
  match v with
  | [a, b, c, d, e, f, g, h] =>
    let t1 := h + shaMix e 14 18 41 false + ((e &&& f) ^^^ (~~~e &&& g)) + kw.1 + kw.2
    let t2 := shaMix a 28 34 39 false + ((a &&& b) ^^^ (a &&& c) ^^^ (b &&& c))
    [t1 + t2, a, b, c, d + t1, e, f, g]
  | _ => v

/-- The big-endian words of some bytes. -/
def beWords : Nat → List Byte → List W64
  | 0, _ => []
  | n + 1, bs => w64 (leNat (bs.take 8).reverse) :: beWords n (bs.drop 8)

/-- `n` blocks of 128 bytes are hashed. -/
def shaBlocks : Nat → List Byte → List W64 → List W64
  | 0, _, h => h
  | n + 1, bs, h =>
    let ws := (shaSchedule 64 (beWords 16 bs).reverse).reverse
    let v := (shaK.zip ws).foldl shaRound h
    shaBlocks n (bs.drop 128) ((h.zip v).map fun p => p.1 + p.2)

/-- The 64 bytes of SHA-512. -/
def sha512Bytes (bs : List Byte) : List Byte :=
  let n := bs.length / 128 + (if bs.length % 128 < 112 then 1 else 2)
  let pad := List.replicate (128 * n - bs.length - 17) (0 : Byte)
  let text := bs ++ [0x80] ++ pad ++ (leBytes 16 (8 * bs.length)).reverse
  (shaBlocks n text shaInit).flatMap fun w => (leBytes 8 w.toNat).reverse

/-- SHA-512 as a number (R286, R288). -/
def sha512 (bs : List Byte) : BitVec 512 := BitVec.ofNat 512 (leNat (sha512Bytes bs))

/-! ## Ed25519 -/

/-- The prime of the field. -/
def edP : Nat := 2 ^ 255 - 19

/-- The order of the base point. -/
def edL : Nat := 2 ^ 252 + 27742317777372353535851937790883648493

/-- A power modulo `m`, by the low `fuel` bits of the exponent. -/
def powMod (m : Nat) : Nat → Nat → Nat → Nat
  | 0, _, _ => 1 % m
  | fuel + 1, b, e =>
    let h := powMod m fuel (b * b % m) (e / 2)
    if e % 2 = 1 then h * b % m else h

/-- An inverse in the field. -/
def edInv (x : Nat) : Nat := powMod edP 255 x (edP - 2)

/-- The curve constant d. -/
def edD : Nat := (edP - 121665) * edInv 121666 % edP

/-- A point of the curve in extended coordinates X, Y, Z, T. -/
structure EdPoint where
  x : Nat
  y : Nat
  z : Nat
  t : Nat
  deriving DecidableEq, Repr

/-- The neutral point. -/
def EdPoint.zero : EdPoint := ⟨0, 1, 1, 0⟩

/-- The sum of two points. -/
def EdPoint.add (p q : EdPoint) : EdPoint :=
  let sub (a b : Nat) : Nat := (a + edP - b) % edP
  let a := sub p.y p.x * sub q.y q.x % edP
  let b := (p.y + p.x) * (q.y + q.x) % edP
  let c := 2 * p.t * q.t % edP * edD % edP
  let d := 2 * p.z * q.z % edP
  let e := sub b a
  let f := sub d c
  let g := (d + c) % edP
  let h := (b + a) % edP
  ⟨e * f % edP, g * h % edP, f * g % edP, e * h % edP⟩

/-- A multiple of a point, by the low `fuel` bits of the number. -/
def EdPoint.mul : Nat → Nat → EdPoint → EdPoint
  | 0, _, _ => .zero
  | fuel + 1, n, p =>
    let h := EdPoint.mul fuel (n / 2) (p.add p)
    if n % 2 = 1 then h.add p else h

/-- Two points are one. -/
def EdPoint.same (p q : EdPoint) : Bool :=
  p.x * q.z % edP == q.x * p.z % edP && p.y * q.z % edP == q.y * p.z % edP

/-- The number that encodes a point. -/
def EdPoint.code (p : EdPoint) : Nat :=
  let i := edInv p.z
  p.y * i % edP + p.x * i % edP % 2 * 2 ^ 255

/-- The point that a number of 256 bits encodes. -/
def edDecode (n : Nat) : Option EdPoint :=
  let y := n % 2 ^ 255
  let odd := n / 2 ^ 255 % 2
  let y2 := y * y % edP
  let x2 := (y2 + edP - 1) % edP * edInv ((edD * y2 + 1) % edP) % edP
  let r := powMod edP 255 x2 ((edP + 3) / 8)
  let r := if r * r % edP = x2 then r else r * powMod edP 255 2 ((edP - 1) / 4) % edP
  if edP ≤ y || r * r % edP != x2 || (r = 0 && odd = 1) then none
  else
    let x := if r % 2 = odd then r else edP - r
    some ⟨x, y, 1, x * y % edP⟩

/-- The base point: y is 4/5 and x is even. -/
def edBase : EdPoint := (edDecode (4 * edInv 5 % edP)).getD .zero

/-- SHA-512 of some bytes, as a number modulo the order. -/
def edHash (bs : List Byte) : Nat := leNat (sha512Bytes bs) % edL

/-- The secret scalar and the prefix of a private key of 32 bytes. -/
def edExpand (key : List Byte) : Nat × List Byte :=
  let h := sha512Bytes key
  let a := leNat (h.take 32)
  (setBits (a / 8 * 8) 255 254 1, h.drop 32)

/-- The public key of a private key. -/
def edPublic (key : List Byte) : Nat := (edBase.mul 256 (edExpand key).1).code

/-- The signature of a text under a private key. -/
def edSign (key text : List Byte) : List Byte :=
  let (a, prefix_) := edExpand key
  let r := edHash (prefix_ ++ text)
  let rs := leBytes 32 (edBase.mul 256 r).code
  let k := edHash (rs ++ leBytes 32 (edPublic key) ++ text)
  rs ++ leBytes 32 ((r + k * a) % edL)

/-- A signature of 64 bytes is one of a text under a public key: 8·S·B = 8·R + 8·k·A (log entry 105). -/
def edVerify (key : Nat) (sig text : List Byte) : Bool :=
  let rs := sig.take 32
  let n := leNat (sig.drop 32)
  match edDecode (leNat rs), edDecode key with
  | some r, some a =>
    let k := edHash (rs ++ leBytes 32 key ++ text)
    sig.length == 64 && n < edL && ((edBase.mul 256 n).mul 4 8).same ((r.add (a.mul 256 k)).mul 4 8)
  | _, _ => false

/-! ## The keys of the part -/

/-- The signature of an object verifies against the Siresha root key (R286). -/
def verified (object : List Byte) : Bool := edVerify Config.rootKey.toNat (Config.objSig object) (Config.objText object)

/-- The Ed25519 private key of the part: SHA-512(seed ‖ "ZGID") [255:0] (R288). -/
def identityKey : List Byte := (sha512Bytes (Config.seed ++ [0x5A, 0x47, 0x49, 0x44])).take 32

/-- The Ed25519 public identity key (R287, R288). -/
def identity : BitVec 256 := BitVec.ofNat 256 (edPublic identityKey)

/-- The Ed25519 signature of a digest under the identity key (R288). -/
def identitySign (digest : BitVec 512) : BitVec 512 :=
  BitVec.ofNat 512 (leNat (edSign identityKey (leBytes 64 digest.toNat)))

end Sys2Proof.Machine
end

