-- ==== Sys2Proof/Machine/Csr.lean ====
section
/-! DEFINITION. The Siresha CSRs of a gaffer (R250 to R254): ring slots (R42, R251, R252), granules (R53), the control
store (R254), the save and restore of a context (R201, R202), HWM (R134, R187), the semaphore map (R203), replay (R214) and
user-level interrupts (R219). -/

namespace Sys2Proof.Machine

open Sys2Proof

/-! ## Ring slots -/

/-- The slots of a bench bound to an engine and context (R252). -/
def Bench.slotsOf (b : Bench) (e : Engine) (ctx : Nat) : List Nat :=
  (b.rings.filter fun p => p.2.bound && p.2.eng == e && p.2.ctx == ctx).map (·.1)

/-- Whether a binding is refused (R252). -/
def State.bindRefused (s : State) (b k : Nat) (r : Ring) : Bool :=
  let x := s.bench b
  let n := 24 * 2 ^ r.l2n
  let inStore := (List.range (cdiv n 1024 + 1)).all fun i =>
    let a := min (r.base + 1024 * i) (r.base + n - 1)
    a < 0x400000 && x.kind (a / 1024) == 3 && x.gpart (a / 1024) == r.part
  (x.ring k).bound || r.l2n < 4 || 12 < r.l2n || r.base % 128 != 0 || !inStore
    || x.rings.any (fun p => p.2.bound && overlaps r.base n p.2.base (24 * p.2.size))
    || !(s.desc r.ctx).v
    -- one fabric ring to a bench (R270)
    || (r.eng == .fabric && x.rings.any fun p => p.2.bound && p.2.eng == .fabric)
    || (x.slotsOf r.eng r.ctx).any (fun j => (x.ring j).part != r.part)

/-- A write of RBIND (R251, R252): the slot is bound, or ERR is set. The first binding of an engine context resets its
E-CSRs. Before the feature set is committed the write is ignored (R290). -/
def State.bindRing (s : State) (b : Nat) (v : W64) : State :=
  let x := s.bench b
  let k := x.csr.rsel
  let n := v.toNat
  let r : Ring :=
    { state := .running, eng := Engine.ofCode (n % 4), timed := bitOf n 2, l2n := bitsOf n 6 3, part := bitsOf n 10 8,
      ctx := bitsOf n 31 16, base := bitsOf n 53 32, armed := bitOf n 2, err := (x.ring k).err }
  if !s.dev.features.done then s
  else if s.bindRefused b k r then s.modRing b k fun r => { r with err := true }
  else
    let s := if x.slotsOf r.eng r.ctx = [] then s.modEng b r.eng r.ctx fun _ => {} else s
    s.modRing b k fun _ => r

/-- RBIND (R252). -/
def execRbind (b : Nat) (v : W64) (s : State) : Host.Outcome State Fault Refusal := .next (s.bindRing b v)

/-- A ring goes on (R38, R39, R438): a timed one becomes ARMED with its slip 0; a command that stood at a fault runs on, and
an increment that is owed is made again. Of its head the word is kept where the unit of that word's WAIT has been taken, and
is otherwise read anew (R331). -/
def State.resumeRing (s : State) (b k : Nat) : State :=
  let owed := (s.ring b k).active.filter (·.owesSig)
  let s := s.modRing b k fun r =>
    { r with state := .running, armed := r.timed, begun := false, slip := 0, head := if r.tookWait then r.head else none,
             active := r.active.map fun a => { a with halted := false, owesSig := false } }
  (owed.foldl (fun s a => s.retireCmd b k a) (s.resumePasses b k)).headArrives b k

/-- RCTL_RESUME (R252): HALTED or DRAINED, else ERR. -/
def State.rctlResume (s : State) (b : Nat) : State :=
  let k := (s.bench b).csr.rsel
  let st := (s.ring b k).state
  if st = .halted || st = .drained then s.resumeRing b k else s.modRing b k fun r => { r with err := true }

/-- RCTL_RESUME (R252). -/
def execRctlResume (b : Nat) (s : State) : Host.Outcome State Fault Refusal := .next (s.rctlResume b)

/-- RCTL_UNBIND (R252): HALTED, DRAINED or ABORTED, or RUNNING with TL = WP, else ERR. The waits on its timeline that are met
end as such, and the others get ABORTED (R409, R442); the passes whose home it is have none from then on, and keep the writes
that they await from other packages (R245). -/
def State.rctlUnbind (s : State) (b : Nat) : State :=
  let k := (s.bench b).csr.rsel
  let r := s.ring b k
  if r.state = .halted || r.state = .drained || r.state = .aborted || (r.state = .running && r.tl = r.wp) then
    let s := (s.settleWaits (16 * b + k)).abortOn (fun sel => sel == 16 * b + k) none
    let s := s.modBench b fun x => { x with
      rings := x.rings.set k { state := .unbound, err := r.err },
      semWaits := x.semWaits.filter fun p => p.2 != .ring k }
    let s := { s with passes := s.passes.mapVal fun _ p =>
      if p.bench = b && p.slot = k then { p with homeless := true } else p }
    let ofPass (who : Agent) : Bool := s.passes.any fun p => p.2.who == who
    s.modFabric fun f => { f with remotes := f.remotes.filter fun q => match q.who with
      | .ring b' k' _ => !(b' == b && k' == k) || ofPass q.who
      | _ => true }
  else s.modRing b k fun r => { r with err := true }

/-- RCTL_UNBIND (R252). -/
def execRctlUnbind (b : Nat) (s : State) : Host.Outcome State Fault Refusal := .next (s.rctlUnbind b)

/-- RCTL_CLRERR (R252). -/
def State.rctlClrerr (s : State) (b : Nat) : State :=
  s.modRing b (s.bench b).csr.rsel fun r => { r with err := false }

/-- RCTL_CLRERR (R252). -/
def execRctlClrerr (b : Nat) (s : State) : Host.Outcome State Fault Refusal := .next (s.rctlClrerr b)

/-- RCTL_FINISH (R42, R252): a timed RUNNING slot with FIN clear records its end count; it finishes at once when that has
retired. -/
def State.rctlFinish (s : State) (b : Nat) : State :=
  s.modRing b (s.bench b).csr.rsel fun r =>
    if r.timed && r.state = .running && r.fin.isNone then
      if r.wp = r.tl || r.done.contains r.wp then { r with armed := true, begun := false } else { r with fin := some r.wp }
    else { r with err := true }

/-- RCTL_FINISH (R42, R252). -/
def execRctlFinish (b : Nat) (s : State) : Host.Outcome State Fault Refusal := .next (s.rctlFinish b)

/-- A write of RCTL (R250): its bits in ascending order. -/
def State.writeRctl (s : State) (b v : Nat) : State :=
  let s := if bitOf v 0 then s.rctlResume b else s
  let s := if bitOf v 1 then s.rctlUnbind b else s
  let s := if bitOf v 2 then s.rctlClrerr b else s
  if bitOf v 3 then s.rctlFinish b else s

/-! ## Granules -/

/-- A BSCR granule whose KIND and PART the gaffer may not change (R53): it holds bytes of a bound ring or of the tensor-record
table of an engine context with a bound slot. -/
def Bench.pinned (b : Bench) (g : Nat) : Bool :=
  b.rings.any fun p => p.2.bound &&
    (overlaps (1024 * g) 1024 p.2.base (24 * p.2.size)
      || overlaps (1024 * g) 1024 (b.eng p.2.eng p.2.ctx).trbase.toNat 16384)

/-- One entry of a write of GENT (R53): skipped where R53 forbids it. A granule that leaves CACHE has its lines written back
and dropped; the contents of one that enters CACHE are discarded: open bytes. -/
def State.writeGranule (s : State) (b g : Nat) (v : Nat) : State :=
  let x := s.bench b
  let kind := v % 8
  let old := x.kind g
  let part := bitsOf v 10 8
  if !([0, 3, 4].contains kind) || old = 1 || old = 2 then s
  else if old = 3 && x.pinned g && (kind != 3 || part != x.gpart g) then s
  else
    let s := if old = 4 && kind != 4 then s.dropGranuleLines b [g] else s
    let s := if kind = 4 && old != 4 then
        let (n, s) := s.fresh
        { s with mem := Mem.write s.mem (storePa b (1024 * g)) (leBytes 1024 n) }
      else s
    s.modBench b fun x => x.setGranules [g] (granuleWord kind 0 part 0)

/-- A write of GENT (R53, R250): each selected granule in ascending order; the run stops at granule 4,095. -/
def State.writeGent (s : State) (b : Nat) (v : W64) : State :=
  let sel := (s.bench b).csr.gsel.toNat
  let first := bitsOf sel 11 0
  let count := bitsOf sel 27 16 + 1
  ((List.range count).filter fun i => first + i < 4096).foldl (fun s i => s.writeGranule b (first + i) v.toNat) s

/-- GENT (R53). -/
def execGent (b : Nat) (v : W64) (s : State) : Host.Outcome State Fault Refusal := .next (s.writeGent b v)

/-! ## The control store -/

/-- CSDATA (R254): the micro-word at CSIDX is written, or read into a register of the gaffer; CSIDX advances modulo 4,096. -/
def execCsdata (b : Nat) (rd : BitVec 5) (v : Option W64) (s : State) : Host.Outcome State Fault Refusal :=
  .next (s.modBench b fun x =>
    let i := x.csr.csidx
    let x := match v with
      | some w => { x with cstore := x.cstore.set i w }
      | none => { x with gaffer := x.gaffer.set rd.toNat (x.cstore.get i 0) }
    { x with csr := { x.csr with csidx := (i + 1) % 4096 } })

/-! ## Contexts -/

/-- The slice of a context's save area that a bench has (R201). -/
def slicePa (d : Desc) (b : Nat) : Nat := d.sabase + b * 0x800000

/-- Bytes of a slice that a save writes outside the store image (R202): the header, then the slots' areas and the semaphore
map, a byte for each virtual number. The slots' areas have no layout: open bytes, drawn from the number `n`. -/
def sliceMeta (n : Nat) (waves groups rings smap : List Nat) : List (Nat × List Byte) :=
  let mask (l : List Nat) : Nat := l.foldl (fun a k => a + 2 ^ k) 0
  let area (base size : Nat) (ks : List Nat) : List (Nat × List Byte) :=
    ks.map fun k => (base + size * k, leBytes size (Config.freeOf n base k))
  [(0, leBytes 16 (1 + mask waves * 2 ^ 32 + mask groups * 2 ^ 64 + mask rings * 2 ^ 96))]
    ++ area 0x1000 2048 waves ++ area 0x11000 1024 groups ++ area 0x19000 2048 rings
    ++ [(0x21000, smap.map fun k => BitVec.ofNat 8 k)]

/-- The semaphore map of a context on a bench, virtual number by virtual number (R202, R203). -/
def Bench.mapOf (x : Bench) (ctx : Nat) : List Nat := (List.range 256).map (x.physical ctx)

/-- The granules of waves and groups. -/
def heldGranules (ws : Tbl Wave) (gs : Tbl Group) : List Nat :=
  (ws.flatMap fun p => p.2.granules) ++ gs.flatMap fun p => p.2.granules

/-- Runs of bytes written at their points, from a base; the first fault stops them, with its address (R216) and the size of its
access. -/
def State.writeRuns (s : State) (die base : Nat) : List (Nat × List Byte) → Except (Nat × Nat × Nat) State
  | [] => .ok s
  | (o, bs) :: rest =>
    match s.pointWrite die (base + o) bs with
    | .error r => .error (r.cause, base + o + r.va, min 128 bs.length)
    | .ok s => s.writeRuns die base rest

/-- Runs of bytes read at their points, from a base: offset and length. -/
def State.readRuns (s : State) (die base : Nat) : List (Nat × Nat) → Except (Nat × Nat × Nat) (List (List Byte) × State)
  | [] => .ok ([], s)
  | (o, n) :: rest =>
    match s.pointRead die (base + o) n with
    | .error r => .error (r.cause, base + o + r.va, min 128 n)
    | .ok (bs, s) => (s.readRuns die base rest).map fun p => (bs :: p.1, p.2)

/-- The waves of a context that are resident on a bench. -/
def Bench.wavesOf (b : Bench) (ctx : Nat) : Tbl Wave :=
  b.waves.filter fun p => (b.groups.get? p.2.group).any fun g => g.ctx == ctx

/-- The save of a drained context (R201, R202): its slice is written, then its slots and granules return; the quota's use
stays charged. A fault goes to the latch and the context stays resident. What the slice was made from is noted, so that its
restore knows whether a program has changed it. -/
def State.saveSlice (s : State) (b ctx : Nat) : State :=
  let x := s.bench b
  let ws := x.wavesOf ctx
  let gs := x.groups.filter fun p => p.2.ctx == ctx
  let rs := (x.rings.filter fun p => p.2.bound && p.2.ctx == ctx).map (·.1)
  let held := heldGranules ws gs
  let (n, s) := (s.free, { s with free := s.free + 1 })
  let image := held.map fun g => (0x100000 + 1024 * g, Mem.read s.mem (storePa b (1024 * g)) 1024)
  let idle (s : State) : State := s.modCtxBench b ctx fun c => { c with busy := 0 }
  match s.writeRuns (dieOf b) (slicePa (s.desc ctx) b) 
      (sliceMeta n (ws.map (·.1)) (gs.map (·.1)) rs (x.mapOf ctx) ++ image) with
  | .error (c, a, n) => (idle s).latchAccess b ctx c a (accessByte 2 n false)
  | .ok s =>
    let s := s.modBench b fun x =>
      let x := held.foldl (fun (x : Bench) g => x.setGranules [g] (granuleWord 0 0 (x.gpart g) 0)) x
      { x with waves := x.waves.filter fun p => !ws.any fun w => w.1 == p.1,
               groups := x.groups.filter fun p => p.2.ctx != ctx }
    s.modCtxBench b ctx fun c =>
      { c with busy := 0, saved := true, waves := ws, groups := gs, image := n, imageMap := x.mapOf ctx, imageRings := rs }

/-- A fragment whose slice a program has changed (R202): its fields and what it waits on are open values. -/
def Frag.scramble (open_ : Nat → Nat) (f : Frag) : Frag :=
  let wait : Option Wait := match open_ 6 % 6 with
    | 0 => none
    | 1 => some .bar
    | 2 => some .cbar
    | 3 => some (.sleep (some (open_ 7)))
    | 4 => some (.batch (open_ 7 % 2 ^ 16))
    | _ => f.wait
  { f with pc := w64 (open_ 0), mask := w32 (open_ 1), rc := w64 (open_ 2), narrow := w32 (open_ 3), pend := open_ 4 % 3,
           arrive := w32 (open_ 5), wait := wait, vxm := w32 (open_ 8) }

/-- A wave whose slice a program has changed (R202): its restored registers, batches and fragments are unspecified. -/
def Wave.scramble (n : Nat) (w : Wave) : Wave :=
  let open_ (i : Nat) : Nat := Config.freeOf n i w.index
  { w with s := (List.range 64).map fun i => (i, w64 (open_ i)), m := (List.range 16).map fun i => (i, w32 (open_ (64 + i))),
           scc := BitVec.ofNat 4 (open_ 80), fpflags := BitVec.ofNat 5 (open_ 81), fptrap := BitVec.ofNat 5 (open_ 82),
           bn := open_ 83 % 2 ^ 16, frags := w.frags.mapVal fun e f => f.scramble fun i => open_ (100 + 16 * e + i) }

/-- A group whose slice a program has changed (R202): its translation registers, store hash and buffer records. -/
def Group.scramble (n k : Nat) (g : Group) : Group :=
  let open_ (i : Nat) : Nat := Config.freeOf n i (0x20000 + k)
  { g with trans := (List.range 16).map fun i => (i, BitVec.ofNat 192 (open_ i)), transNc := [], transPages := [],
           seed := w64 (open_ 16), sum := w64 (open_ 17), brecs := g.brecs.mapVal fun i _ => BitVec.ofNat 320 (open_ (32 + i)) }

/-- A ring whose slice a program has changed (R202): its counts, where its issued commands go on, and the copies of their
records. -/
def Ring.scramble (n k : Nat) (r : Ring) : Ring :=
  let open_ (i : Nat) : Nat := Config.freeOf n i (0x40000 + k)
  { r with wp := open_ 0, rp := open_ 1, tl := open_ 2, active := r.active.map fun a =>
      { a with idx := open_ (36 * a.num + 3), crcS := w32 (open_ (36 * a.num + 4)), crcD := w32 (open_ (36 * a.num + 5)),
               recs := a.recs.mapVal fun i _ => BitVec.ofNat 512 (open_ (36 * a.num + 6 + i % 32)) } }

/-- The counts of R104 of an engine context whose slice a program has changed (R202). -/
def EngCtx.scramble (n k : Nat) (e : EngCtx) : EngCtx :=
  let open_ (i : Nat) : Nat := Config.freeOf n i (0x60000 + k) % 2 ^ 32
  { e with windowZero := open_ 0, escOvf := open_ 1, t5Bad := open_ 2, satI32 := open_ 3 }

/-- A parked fragment woken by a REPLAY (R214): it executes its instruction again; with SKIP, and after TRAP and BRKPT, it
goes on after it. One that WATCHDOG found waiting leaves its wait (R223), and so does one that only its wave's PRIVGROW
parks, as `held` says. A fragment whose own accesses are outstanding is not parked. -/
def Frag.wake (f : Frag) (held skip : Bool) (now : Nat) : Frag :=
  let again := { f with wait := none, since := now }
  let past := { again with pc := f.pc + 8, codes := [], vxm := 0 }
  match f.wait with
  | some (.fault c) => if skip || c = Cause.trap || c = Cause.brkpt then past else again
  | some .gate => f
  | some .remote => f
  | some .order => f
  | some .back => f
  | some (.room _) => f
  | some _ => if skip then past else again
  | none => if held && skip then past else if held then again else f

/-- A parker of a wait-table entry wakes (R214), from every entry that holds it (R223). -/
def State.wakeParker (s : State) (b : Nat) (p : Parker × Bool) : State :=
  let now := s.cycle b
  match p.1 with
  | .frag ctx slot e =>
    let held := (s.wave? b slot).any fun w => w.holds e
    let s := ((s.unpark b ctx slot e).semWithdraw b (.frag slot e)).modFrag b slot e fun f => f.wake held p.2 now
    if held then s.modWave b slot fun w => { w with loose := e :: w.loose } else s
  | .wave _ slot => s.modWave b slot fun w => { w with held := false, loose := [] }
  | .copy id =>
    match (s.bench b).copies.find? fun c => c.id == id with
    | none => s
    | some c =>
      if p.2 then s.copyDone b c
      else s.modBench b fun x =>
        { x with copies := x.copies.map fun c => if c.id == id then { c with parked := false } else c }

/-- The restore of a context (R201): once its slots and granules are FREE they are taken again and the images read back;
otherwise it waits. A slice that a program has changed restores to open values (R202); the map as it stands now is kept (R203).
Its rings go on from DRAINED. A fault goes to the latch and the context stays saved. The fills that the bench holds are
cleared, for the cluster barriers that the context's fragments have passed meanwhile (R150, R340). -/
def State.restoreSlice (s : State) (b ctx : Nat) : State :=
  let x := s.bench b
  let c := x.ctx ctx
  let held := heldGranules c.waves c.groups
  let free := c.waves.all (fun p => (x.waves.get? p.1).isNone && !x.groups.any fun g => g.2.waves.contains p.1)
    && c.groups.all (fun p => (x.groups.get? p.1).isNone) && held.all fun g => x.kind g == 0
  if !free then s
  else
    let rs := (x.rings.filter fun p => p.2.bound && p.2.ctx == ctx).map (·.1)
    let meta_ := sliceMeta c.image (c.waves.map (·.1)) (c.groups.map (·.1)) c.imageRings c.imageMap
    let runs := (meta_.map fun p => (p.1, p.2.length)) ++ held.map fun g => (0x100000 + 1024 * g, 1024)
    match s.readRuns (dieOf b) (slicePa (s.desc ctx) b) runs with
    | .error (e, a, n) =>
      (s.modCtxBench b ctx fun c => { c with busy := 0 }).latchAccess b ctx e a (accessByte 1 n false)
    | .ok (bss, s) =>
      let same := (bss.take meta_.length).drop 1 == (meta_.map (·.2)).drop 1
      let (n, s) := (s.free, { s with free := s.free + 1 })
      let ws := if same then c.waves else c.waves.mapVal fun _ w => w.scramble n
      let gs := if same then c.groups else c.groups.mapVal fun k g => g.scramble n k
      let odd := if same then [] else rs.filter c.imageRings.contains
      let ring (k : Nat) (r : Ring) : Ring := if odd.contains k then r.scramble n k else r
      let s := s.modBench b fun x => { x with rings := x.rings.mapVal ring }
      let s := odd.foldl (fun s k => s.modEng b (x.ring k).eng ctx fun e => e.scramble n k) s
      let now := s.cycle b
      let ws := ws.mapVal fun _ w => { w with frags := w.frags.mapVal fun _ f => { f with since := now } }
      let m := (held.zip (bss.drop meta_.length)).foldl (fun m p => Mem.write m (storePa b (1024 * p.1)) p.2) s.mem
      let s := { s with mem := m }
      let s := s.modBench b fun x =>
        let x := ws.foldl (fun (x : Bench) p => p.2.granules.foldl
          (fun (x : Bench) g => x.setGranules [g] (granuleWord 1 p.1 (x.gpart g) 0)) x) x
        let x := c.groups.foldl (fun (x : Bench) p => p.2.granules.foldl
          (fun (x : Bench) g => x.setGranules [g] (granuleWord 2 0 p.2.part p.1)) x) x
        { x with waves := ws.foldl (fun t p => t.set p.1 p.2) x.waves,
                 groups := gs.foldl (fun t p => t.set p.1 p.2) x.groups }
      let s := (s.acquire b 3).modCtxBench b ctx fun c =>
        { c with busy := 0, saved := false, drained := false, waves := [], groups := [], image := 0, imageMap := [], imageRings := [] }
      let s := rs.foldl (fun s k => if (s.ring b k).state = .drained then s.resumeRing b k else s) s
      let ps := ((s.bench b).ctx ctx).woken
      ps.foldl (fun s p => s.wakeParker b p) (s.modCtxBench b ctx fun c => { c with woken := [] })

/-- CXCMD.SAVE (R201): the save of a drained context starts. On one that is not drained, or is saved already, the command
has no effect (DEDUCED, log entry 32). -/
def State.cxSave (s : State) (b : Nat) : State :=
  let ctx := (s.bench b).csr.cxsel
  let c := (s.bench b).ctx ctx
  if c.drained && !c.saved && c.busy = 0 then s.modCtxBench b ctx fun c => { c with busy := 1 } else s

/-- CXCMD_SAVE (R201). -/
def execCxcmdSave (b : Nat) (s : State) : Host.Outcome State Fault Refusal := .next (s.cxSave b)

/-- CXCMD.RESTORE (R201, R440): of a saved context the restore starts; one that is drained but not saved goes on in place. -/
def State.cxRestore (s : State) (b : Nat) : State :=
  let ctx := (s.bench b).csr.cxsel
  let c := (s.bench b).ctx ctx
  if c.busy != 0 then s
  else if c.saved then s.modCtxBench b ctx fun c => { c with busy := 2 }
  else if c.drained then
    let s := s.modCtxBench b ctx fun c => { c with drained := false }
    let rs := ((s.bench b).rings.filter fun p => p.2.ctx == ctx && p.2.state == .drained).map (·.1)
    let now := s.cycle b
    let again (x : Bench) (w : Wave) : Wave :=
      if (x.groups.get? w.group).any fun g => g.ctx == ctx then
        { w with frags := w.frags.mapVal fun _ f => { f with since := now } }
      else w
    let s := s.modBench b fun x => { x with waves := x.waves.mapVal fun _ w => again x w }
    rs.foldl (fun s k => s.resumeRing b k) s
  else s

/-- CXCMD_RESTORE (R201). -/
def execCxcmdRestore (b : Nat) (s : State) : Host.Outcome State Fault Refusal := .next (s.cxRestore b)

/-- SLICE_SAVE_RESTORE_DONE (R201): the save or restore that CXSTAT.BUSY shows finishes. -/
def execSliceSaveRestoreDone (b ctx : Nat) (s : State) : Host.Outcome State Fault Refusal :=
  .next (match ((s.bench b).ctx ctx).busy with
    | 1 => s.saveSlice b ctx
    | 2 => s.restoreSlice b ctx
    | _ => s)

/-- CXCMD.HWM (R134, R187, R250): HWMP of the descriptor is written, so every bench sees it in one step. A value below the
present HWM or above PVSTRIDE changes nothing; a fault of the write goes to the latch. -/
def State.cxHwm (s : State) (b : Nat) : State :=
  let x := (s.bench b).csr
  let d := s.desc x.cxsel
  if x.cxhwm < d.hwmp || 2 ^ (d.pvsl - 12) < x.cxhwm || 2 ^ s.dev.ctxL2n ≤ x.cxsel then s
  else
    let pa := 64 * s.dev.ctxBase.toNat + 64 * x.cxsel + 16
    match s.pointRead (dieOf b) pa 8 with
    | .error r => s.latchAccess b x.cxsel r.cause pa (accessByte 1 8 false)
    | .ok (bs, s') =>
      match s'.pointWrite (dieOf b) pa (leBytes 8 (setBits (leNat bs) 28 8 x.cxhwm)) with
      | .error r => s.latchAccess b x.cxsel r.cause pa (accessByte 2 8 false)
      | .ok s' => s'

/-- CXCMD_HWM (R187). -/
def execCxcmdHwm (b : Nat) (s : State) : Host.Outcome State Fault Refusal := .next (s.cxHwm b)

/-- A write of CXCMD (R250): its bits in ascending order. -/
def State.writeCxcmd (s : State) (b v : Nat) : State :=
  let s := if bitOf v 0 then s.cxSave b else s
  let s := if bitOf v 1 then s.cxRestore b else s
  if bitOf v 2 then s.cxHwm b else s

/-- A write of SMAP (R203): only while the context is drained on the bench or has no resident wave and no RUNNING ring
there. -/
def State.writeSmap (s : State) (b : Nat) (v : W64) : State :=
  let x := s.bench b
  let ctx := x.csr.cxsel
  let c := x.ctx ctx
  let idle := x.wavesOf ctx == [] && !x.rings.any fun p => p.2.ctx == ctx && p.2.state == .running
  if c.drained || idle then s.modCtxBench b ctx fun c => { c with smap := c.smap.set x.csr.smsel (v.toNat % 256) } else s

/-- SMAP (R203). -/
def execSmap (b : Nat) (v : W64) (s : State) : Host.Outcome State Fault Refusal := .next (s.writeSmap b v)

/-! ## Replay and user-level interrupts -/

/-- Whether a REPLAY matches a wait-table entry (R214). -/
def replayHits (arg v e : Nat) (w : WaitEntry) : Bool :=
  let ctx := bitsOf v 47 32
  match w.key with
  | none => false
  | some k =>
    e == 63
      || (match bitOf v 9, k with
          | false, .token c => c == ctx && arg % 2 ^ 32 == e * 2 ^ 26 + w.gen
          | true, .page c vpn => c == ctx && overlaps vpn 1 (arg % 2 ^ 57 / 4096) (2 ^ bitsOf v 16 11)
          | _, _ => false)

/-- The context of a parker. -/
def Bench.parkerCtx (b : Bench) (p : Parker) : Nat :=
  match p with
  | .frag c _ _ => c
  | .wave c _ => c
  | .copy id => ((b.copies.find? fun c => c.id == id).map (·.ctx)).getD 0

/-- A REPLAY on one bench (R214): the parkers of the matching entries and of entry 63 wake, and the entries return to free;
those of a saved context are marked to wake at its restore. -/
def State.replayBench (s : State) (arg v b : Nat) : State :=
  let x := s.bench b
  let hit := x.waitTable.filter fun p => replayHits arg v p.1 p.2
  let ps := (hit.flatMap fun p => p.2.parkers).map fun p => (p, bitOf v 10)
  let free (e : Nat) (w : WaitEntry) : WaitEntry :=
    if replayHits arg v e w then { w with key := none, parkers := [] } else w
  let s := s.modBench b fun x => { x with waitTable := x.waitTable.mapVal free }
  ps.foldl (fun s p =>
    let ctx := x.parkerCtx p.1
    if (x.ctx ctx).saved then s.modCtxBench b ctx fun c => { c with woken := c.woken ++ [p] }
    else s.wakeParker b p) s

/-- A write of RPLCMD (R214): with ALLB every bench, but for KIND 0, which is then ignored. -/
def State.writeReplay (s : State) (b : Nat) (v : W64) : State :=
  let n := v.toNat
  let arg := (s.bench b).csr.rplarg.toNat
  if bitOf n 8 then
    if bitOf n 9 then (s.benches.map (·.1)).foldl (fun s k => s.replayBench arg n k) s else s
  else s.replayBench arg n (n % 256)

/-- REPLAY (R214). -/
def execReplay (b : Nat) (v : W64) (s : State) : Host.Outcome State Fault Refusal := .next (s.writeReplay b v)

/-- ULIPOST (R219): a code of 0 or an empty group slot is ignored. -/
def State.writeUlipost (s : State) (b : Nat) (v : W64) : State :=
  s.modGroup b (v.toNat % 32) fun g => { g with uli := g.uli ||| w32 (v.toNat / 2 ^ 32) }

/-- ULIPOST (R219). -/
def execUlipost (b : Nat) (v : W64) (s : State) : Host.Outcome State Fault Refusal := .next (s.writeUlipost b v)

/-! ## Reading and writing CSRs -/

/-- KIND and POISON of the tiles (R86, R250). -/
def Bench.etstate (b : Bench) : Nat :=
  (List.range 8).foldl (fun a t =>
    let x := b.tiles.get t {}
    a + ((if x.int then 1 else 0) + (if x.poison then 2 else 0)) * 4 ^ t) 0

/-- The number of a ring state (R250). -/
def RingState.code : RingState → Nat
  | .unbound => 0
  | .running => 1
  | .halted => 2
  | .drained => 3
  | .aborted => 4

/-- A Siresha CSR as it reads (R250, R251, R253): none for a number that no table assigns. CSDATA has its own row, since its
read steps CSIDX. Write-only CSRs read 0 (DESIGN CHOICE, log entry 33). -/
def Bench.readCsr (b : Bench) (num : Nat) : Option Nat :=
  let c := b.csr
  let r := b.ring c.rsel
  let e := if r.bound then b.eng r.eng r.ctx else {}
  let x := b.ctx c.cxsel
  let part := b.parts.get c.psel {}
  match num with
  | 0x5C0 => some c.rsel
  | 0x5C1 => some (r.eng.code + (if r.timed then 4 else 0) + r.l2n * 8 + r.part * 2 ^ 8 + r.ctx * 2 ^ 16 + r.base * 2 ^ 32)
  | 0x5C2 => some 0
  | 0x5C3 => some r.wp
  | 0x5C4 => some r.rp
  | 0x5C5 => some r.tl
  | 0x5C6 => some (r.state.code + (if r.err then 8 else 0) + (if r.armed then 16 else 0) + r.wm * 32
      + (if r.fin.isSome then 2 ^ 18 else 0))
  | 0x5C8 => some e.tmask.toNat
  | 0x5C9 => some e.vgrant.toNat
  | 0x5CA => some e.trbase.toNat
  | 0x5CB => some e.pgdist.toNat
  | 0x5CC => some (sat32 e.windowZero + sat32 e.escOvf * 2 ^ 32)
  | 0x5CD => some (sat32 e.t5Bad + sat32 e.satI32 * 2 ^ 32)
  | 0x5CE => some b.etstate
  | 0x5D0 => some c.gsel.toNat
  | 0x5D1 => some 0
  | 0x5D2 => some c.psel
  | 0x5D3 => some part.word0
  | 0x5D4 => some part.word1
  | 0x5D6 => some c.csidx
  | 0x5D7 => some (b.cstore.get c.csidx 0).toNat
  | 0x5D8 => some c.cxsel
  | 0x5D9 => some 0
  | 0x5DA => some c.cxhwm
  | 0x5DB => some ((if x.drained then 1 else 0) + (if x.saved then 2 else 0) + (if x.busy = 0 then 0 else 4))
  | 0x5DC => some c.smsel
  | 0x5DD => some (b.physical c.cxsel c.smsel)
  | 0x5E0 => some c.rplarg.toNat
  | 0x5E1 => some 0
  | 0x5E2 => some 0
  | 0x5E8 => some b.mailbox.length
  | 0x5F0 => some b.xip
  | 0x5F1 => some (c.xie.toNat % 2 ^ 20)
  | _ => none

/-- The engine context of the selected slot changed (R250); an UNBOUND slot has none. -/
def State.modSelEng (s : State) (b : Nat) (f : EngCtx → EngCtx) : State :=
  let r := (s.bench b).ring (s.bench b).csr.rsel
  if r.bound then s.modEng b r.eng r.ctx f else s

/-- A write of a Siresha CSR (R250 to R254, R214, R219); read-only ones keep their value. -/
def State.writeCsr (s : State) (b num : Nat) (v : W64) : State :=
  let n := v.toNat
  let csr (f : XCsrs → XCsrs) : State := s.modBench b fun x => { x with csr := f x.csr }
  match num with
  | 0x5C0 => csr fun c => { c with rsel := n % 16 }
  | 0x5C1 => s.bindRing b v
  | 0x5C2 => s.writeRctl b n
  | 0x5C8 => s.modSelEng b fun e => { e with tmask := BitVec.ofNat 8 n }
  | 0x5C9 => s.modSelEng b fun e => { e with vgrant := BitVec.ofNat 32 n }
  | 0x5CA => s.modSelEng b fun e => { e with trbase := BitVec.ofNat 22 (n / 64 * 64) }
  | 0x5CB => s.modSelEng b fun e => if n ≤ 256 then { e with pgdist := BitVec.ofNat 9 n } else e
  | 0x5CC => s.modSelEng b fun e => { e with windowZero := n % 2 ^ 32, escOvf := n / 2 ^ 32 }
  | 0x5CD => s.modSelEng b fun e => { e with t5Bad := n % 2 ^ 32, satI32 := n / 2 ^ 32 }
  | 0x5D0 => csr fun c => { c with gsel := v &&& 0x0FFF0FFF }
  | 0x5D1 => s.writeGent b v
  | 0x5D2 => csr fun c => { c with psel := n % 8 }
  | 0x5D3 => s.writePart b (s.bench b).csr.psel v
  | 0x5D6 => csr fun c => { c with csidx := n % 4096 }
  | 0x5D7 => s.modBench b fun x =>
      { x with cstore := x.cstore.set x.csr.csidx v, csr := { x.csr with csidx := (x.csr.csidx + 1) % 4096 } }
  | 0x5D8 => csr fun c => { c with cxsel := n % 65536 }
  | 0x5D9 => s.writeCxcmd b n
  | 0x5DA => csr fun c => { c with cxhwm := n % 2 ^ 21 }
  | 0x5DC => csr fun c => { c with smsel := n % 256 }
  | 0x5DD => s.writeSmap b v
  | 0x5E0 => csr fun c => { c with rplarg := v }
  | 0x5E1 => s.writeReplay b v
  | 0x5E2 => s.writeUlipost b v
  | 0x5F0 => csr fun c => { c with wmk := c.wmk &&& ~~~BitVec.ofNat 16 n, flt := c.flt && !bitOf n 16,
                                   hlt := c.hlt && !bitOf n 18, mgt := c.mgt && !bitOf n 19 }
  | 0x5F1 => csr fun c => { c with xie := w64 (n % 2 ^ 20) }
  | _ => s

/-- REGISTER_WRITE (R5): a write of 8 bytes to a device register, or of a CSR of a gaffer. -/
def execRegisterWrite (r : RegRef) (v : W64) (s : State) : Host.Outcome State Fault Refusal :=
  match r with
  | .csr b num => .next (s.writeCsr b num v)
  | .dev pa =>
    match s.devWrite 0 pa 8 v with
    | .ok s => .next s
    | .error _ => .next s

end Sys2Proof.Machine
end

