-- ==== Sys2Proof/Machine/Collective.lean ====
section
/-! DEFINITION. The composite collective: murrine packets (R278), the merge at the root (R279 to R282), delivery (R283, R284),
the end of a frame (R277), and the flips of heads (R284). -/

namespace Sys2Proof.Machine

open Sys2Proof

/-- A field of a composite group. -/
def Composite.f (c : Composite) (hi lo : Nat) : Nat := bitsIn c.word hi lo

/-- A count of a composite group's or head's word raised by one, saturating at 32 bits. -/
def bumpField (w : BitVec 512) (lo : Nat) : BitVec 512 :=
  BitVec.ofNat 512 (setBits w.toNat (lo + 31) lo (sat32 (bitsIn w (lo + 31) lo + 1)))

/-- A composite group changed. -/
def State.modComposite (s : State) (g : Nat) (f : Composite → Composite) : State :=
  s.modDev fun d => { d with composites := d.composites.upd g {} f }

/-- Bytes of a pixel's colour in a payload (R278): 4, 8, or 16 for a partial result. -/
def pixelBytes (pt cf : Bool) : Nat := if pt then 16 else if cf then 8 else 4

/-- Bytes of a packet (R278). -/
def packetSize (pt cf : Bool) : Nat := 32 + 256 * pixelBytes pt cf + 1024 + 4

/-- RoundF32(u ÷ 255) (R279). -/
def unorm8 (u : Nat) : W32 := roundF32 ⟨false, u, 255, 0⟩

/-- The F32 colour of a payload's colour array (R279). -/
def colourOf (pt cf : Bool) (bs : List Byte) : List W32 :=
  if pt then (List.range 1024).map fun i => w32 (leNat ((bs.drop (4 * i)).take 4))
  else if cf then (List.range 1024).map fun i => f32Of (FVal.decode .f16 (leNat ((bs.drop (2 * i)).take 2)))
  else (List.range 1024).map fun i => unorm8 (bs.getD i 0).toNat

/-- A packet's header (R278). -/
def packetHeader (gid : Nat) (cf mode pt : Bool) (frame tile rlo rhi miss : Nat) : List Byte :=
  leBytes 32 (gid + (if cf then 2 ^ 16 else 0) + (if mode then 2 ^ 17 else 0) + (if pt then 2 ^ 18 else 0) + frame * 2 ^ 32
    + tile * 2 ^ 64 + rlo * 2 ^ 96 + rhi * 2 ^ 102 + miss * 2 ^ 128)

/-- A packet with its CRC (R278). -/
def packetBytes (header payload : List Byte) : List Byte :=
  header ++ payload ++ leBytes 4 (crc32c (header ++ payload)).toNat

/-- The split of a node (R279): m of Node(lo, hi). -/
def splitAt (lo hi : Nat) : Nat :=
  let n := hi - lo + 1
  lo + 2 ^ (Nat.log2 (2 * n - 1) - 1) - 1

/-- The rank ranges of the root's inputs (R279). -/
def Composite.inputs (c : Composite) : (Nat × Nat) × (Nat × Nat) :=
  let n := c.f 9 4
  let m := splitAt 0 n
  ((0, m), (m + 1, n))

/-- Whether the right depth wins (R280): lesser wins, a NaN is farther than +∞, and on equal depth Left wins. -/
def rightWins (l r : W32) : Bool :=
  match (f32Val l).isNaN, (f32Val r).isNaN with
  | _, true => false
  | true, false => true
  | false, false => ltVal (f32Val r) (f32Val l)

/-- One pixel merged (R280, R281): its colour and depth. -/
def mergePixel (mode : Bool) (lc rc : List W32) (ld rd : W32) : List W32 × W32 :=
  let win := rightWins ld rd
  let d := if win then rd else ld
  if mode then
    let t := f32Of (addVal 0 (.fin false 1 0) (f32Val (lc.getD 3 0)).neg).1
    ((lc.zip rc).map fun p => w32 (ffmaEl .f32 0 t.toNat p.2.toNat p.1.toNat).1, d)
  else (if win then rc else lc, d)

/-- A substitute for a missing input (R282). -/
def substitute (frame tile : Nat) (r : Nat × Nat) : Packet :=
  { frame := frame, tile := tile, rlo := r.1, rhi := r.2,
    miss := w64 ((List.range (r.2 - r.1 + 1)).foldl (fun m k => m + 2 ^ (r.1 + k)) 0),
    colour := List.replicate 1024 0, depth := List.replicate 256 0x7F800000 }

/-- Two inputs merged (R279). -/
def mergePackets (mode : Bool) (l r : Packet) : Packet :=
  let px := (List.range 256).map fun i =>
    mergePixel mode ((l.colour.drop (4 * i)).take 4) ((r.colour.drop (4 * i)).take 4) (l.depth.getD i 0) (r.depth.getD i 0)
  { frame := l.frame, tile := l.tile, rlo := l.rlo, rhi := r.rhi, miss := l.miss ||| r.miss,
    colour := px.flatMap (·.1), depth := px.map (·.2) }

/-- The colour array as delivered (R283). -/
def outColour (cf : Bool) (cs : List W32) : List Byte :=
  cs.flatMap fun c =>
    let v := f32Val c
    if cf then leBytes 2 (convFloat .f16 0 true v).1
    else
      let k := match v with
        | .nan _ => 0
        | .inf n => if n then 0 else 255
        | .fin n m e => if n || m = 0 then 0 else if ltVal (.fin false 1 0) v then 255
                        else (roundInt 0 false (m * 255) 1 e).1.toNat
      [BitVec.ofNat 8 k]

/-- The weak writes of a delivery, one for each sector (R283): those that fail are not performed; the flag says that one
failed. -/
def State.deliver (s : State) (pa : Nat) (bs : List Byte) : State × Bool :=
  (sectorsOf pa bs.length).foldl (fun (p : State × Bool) k =>
    let lo := max pa (64 * k)
    let hi := min (pa + bs.length) (64 * k + 64)
    match p.1.pointWrite 0 lo ((bs.drop (lo - pa)).take (hi - lo)) with
    | .ok s => (s, p.2)
    | .error _ => (p.1, true)) (s, false)

/-- The delivery of a final tile to a head (R284): refused, or written to the slot not shown, which becomes READY, whether or
not a write of it failed (R283; DEDUCED, log entry 68). -/
def State.deliverHead (s : State) (h : Nat) (p : Packet) : State × Bool :=
  let x := s.dev.heads.get h {}
  if !x.word.getLsbD 0 || !x.word.getLsbD 1 || x.tiles ≤ p.tile then (s, true)
  else
    let cf := x.word.getLsbD 2
    let base := if x.sel.contains p.tile then x.fba else x.fbb
    let (s, bad) := s.deliver (base + p.tile * 256 * pixelBytes false cf) (outColour cf p.colour)
    (s.modDev fun d => { d with heads := d.heads.upd h {} fun y =>
      { y with ready := if y.ready.contains p.tile then y.ready else p.tile :: y.ready } }, bad)

/-- The root keeps held inputs and partial tiles in its staging area, whose layout and contents are the device's own (R277): a
slot of it takes open bytes (DESIGN CHOICE, log entry 104). -/
def State.stage (s : State) (g : Nat) : State :=
  let c := s.dev.composites.get g {}
  let n := s.free
  let slot := Config.freeOf 25 n g % (2 * c.f 276 256)
  let a := c.f 375 320 + 5248 * slot
  let fill : State :=
    let bs := (List.range 5248).map fun i => BitVec.ofNat 8 (Config.freeOf 26 (n + i) g)
    { s with free := n + 5248, mem := Mem.write s.mem (a % 2 ^ 44) bs }
  match s.place a with
  | .lpddr _ => fill
  | .vault _ => fill
  | _ => s

/-- A merged tile as it is delivered: open values once another agent has written the staging area (R277). -/
def State.staged (s : State) (c : Composite) (p : Packet) : Packet × State :=
  if !c.spoiled then (p, s)
  else
    let n := s.free
    let v (i : Nat) : W32 := w32 (Config.freeOf 27 (n + i) p.tile)
    ({ p with miss := w64 (Config.freeOf 28 n p.tile), colour := (List.range 1024).map v,
              depth := (List.range 256).map fun i => v (1024 + i) }, { s with free := n + 1280 })

/-- The root emits a tile (R282, R283): with substitutes for the inputs that are missing. -/
def State.emitTile (s : State) (g tile : Nat) : State :=
  let c := s.dev.composites.get g {}
  let frame := c.f 63 32
  let (lr, rr) := c.inputs
  let find (r : Nat × Nat) : Packet :=
    (c.held.find? fun p => p.frame == frame && p.tile == tile && p.rlo == r.1 && p.rhi == r.2).getD (substitute frame tile r)
  let (out, s) := s.staged c (mergePackets (c.word.getLsbD 1) (find lr) (find rr))
  let s := s.modComposite g fun c =>
    { c with held := c.held.filter fun p => !(p.frame == frame && p.tile == tile), emitted := (frame, tile) :: c.emitted }
  let (s, bad) := if c.f 122 120 = 0 then
      s.deliver (c.f 119 64 + tile * c.f 319 288)
        (outColour (c.word.getLsbD 2) out.colour ++ out.depth.flatMap fun d => leBytes 4 d.toNat)
    else s.deliverHead (c.f 122 120 - 1) out
  let s := if out.miss = 0 then s else s.modComposite g fun c => { c with word := bumpField c.word 416 }
  if bad then (s.modComposite g fun c => { c with word := bumpField c.word 448 }).raiseMgt else s

/-- Tiles of the current frame whose inputs are both held are emitted (R282). -/
def State.emitReady (s : State) (g : Nat) : State :=
  let c := s.dev.composites.get g {}
  let frame := c.f 63 32
  let (lr, rr) := c.inputs
  let has (t : Nat) (r : Nat × Nat) : Bool := c.held.any fun p => p.frame == frame && p.tile == t && p.rlo == r.1 && p.rhi == r.2
  let ts := ((c.held.filter fun p => p.frame == frame).map (·.tile)).eraseDups
  (ts.filter fun t => has t lr && has t rr).foldl (fun s t => s.emitTile g t) s

/-- Every tile of the current frame that is not emitted is emitted with substitutes (R282, R283). -/
def State.emitRest (s : State) (g : Nat) : State :=
  let c := s.dev.composites.get g {}
  ((List.range (c.f 276 256)).filter fun t => !c.emitted.contains (c.f 63 32, t)).foldl (fun s t => s.emitTile g t) s

/-- The group's frame ends (R277): FRAME and DL advance, or V clears with PERIOD = 0. -/
def Composite.roll (c : Composite) : Composite :=
  let frame := c.f 63 32
  if c.f 255 224 = 0 then { word := c.word &&& ~~~1, held := [], emitted := [] }
  else
    let w := setBits c.word.toNat 63 32 (frame + 1)
    let w := setBits w 191 128 (c.f 191 128 + c.f 255 224)
    { c with word := BitVec.ofNat 512 w, held := c.held.filter fun p => p.frame != frame,
             emitted := c.emitted.filter fun p => p.1 != frame }

/-- PTC has reached a group's DL. -/
def State.frameDue (s : State) (g : Nat) : Bool :=
  let c := s.dev.composites.get g {}
  c.word.getLsbD 0 && c.f 191 128 ≤ s.dev.ptc.ptc

/-- The frame of a group ends (R277, R283): what is left of it is emitted at the root, then the group advances. -/
def State.frameEnd (s : State) (g : Nat) : State :=
  let root := (s.dev.composites.get g {}).word.getLsbD 3
  let s := if root then s.emitRest g else s
  let s := s.modComposite g Composite.roll
  if root then s.emitReady g else s

/-- A flip of a head is due (R284): PTC has reached FLIP and that flip is not made, of an enabled head (DEDUCED, log entry
52). -/
def State.flipDue (s : State) (h : Nat) : Bool :=
  let x := s.dev.heads.get h {}
  x.word.getLsbD 0 && !x.flipped && x.flip ≤ s.dev.ptc.ptc

/-- A due flip is made (R284). -/
def State.settleHead (s : State) (h : Nat) : State :=
  if s.flipDue h then s.modDev fun d => { d with heads := d.heads.upd h {} Head.doFlip } else s

/-- The due flips of a head whose time comes before `t` are made (R284, R285). -/
def State.flipsBefore (s : State) (t h : Nat) : State :=
  let x := s.dev.heads.get h {}
  (List.range ((t - x.flip) / max 1 x.fper + 1)).foldl (fun s _ =>
    if (s.dev.heads.get h {}).flip < t then s.settleHead h else s) s

/-- The group whose due frame ends first. -/
def State.nextFrame (s : State) : Option Nat :=
  let dl (g : Nat) : Nat := (s.dev.composites.get g {}).f 191 128
  ((List.range 16).filter (s.frameDue ·)).foldl (fun o g => match o with
    | none => some g
    | some k => if dl g < dl k then some g else some k) none

/-- Frames that PTC has reached end, at most `n` of them, each after the flips that come before it (R277, R284, R285); then the
flips left. -/
def State.settleFrames : Nat → State → State
  | 0, s => (List.range 4).foldl (fun s h => s.flipsBefore (s.dev.ptc.ptc + 1) h) s
  | n + 1, s =>
    match s.nextFrame with
    | none => (List.range 4).foldl (fun s h => s.flipsBefore (s.dev.ptc.ptc + 1) h) s
    | some g =>
      let dl := (s.dev.composites.get g {}).f 191 128
      State.settleFrames n (((List.range 4).foldl (fun s h => s.flipsBefore dl h) s).frameEnd g)

/-- The frames and flips whose time has come, in the order of their times (R277, R284): at one time the frames go before the
flips. -/
def State.settleTime (s : State) : State :=
  let count (g : Nat) : Nat :=
    let c := s.dev.composites.get g {}
    if s.frameDue g then (s.dev.ptc.ptc - c.f 191 128) / max 1 (c.f 255 224) + 1 else 0
  State.settleFrames ((List.range 16).foldl (fun n g => n + count g) 0) s

/-- Whether a rank range is that of an input of the root node (R278, R279). -/
def Composite.takes (c : Composite) (rg : Nat × Nat) : Bool := rg == c.inputs.1 || rg == c.inputs.2

/-- The packet that a payload of the wire is (R278, R279): its header, its colours and its depths. -/
def packetOf (bs : List Byte) : Packet :=
  let h := leNat (bs.take 32)
  let k := 256 * pixelBytes (bitOf h 18) (bitOf h 16)
  { frame := bitsOf h 63 32, tile := bitsOf h 83 64, rlo := bitsOf h 101 96, rhi := bitsOf h 107 102,
    miss := w64 (bitsOf h 191 128), colour := colourOf (bitOf h 18) (bitOf h 16) ((bs.drop 32).take k),
    depth := (List.range 256).map fun i => w32 (leNat ((bs.drop (32 + k + 4 * i)).take 4)) }

/-- A packet reaches this package (R278, R282): dropped and counted, or held, and its tile emitted when both inputs are
there. One that arrives at a deadline or after it finds the frame ended. -/
def State.recvPacket (s : State) (bs : List Byte) : State :=
  let h := leNat (bs.take 32)
  let gid := bitsOf h 15 0
  let holds (p : Nat × Composite) : Bool := p.2.word.getLsbD 0 && p.2.word.getLsbD 3 && p.2.f 31 16 == gid
  let s := s.settleTime
  match s.dev.composites.find? holds with
  | none => s.modFabric fun f => { f with cdrop := sat32 (f.cdrop + 1) }
  | some (g, c) =>
    let n := packetSize (bitOf h 18) (bitOf h 16)
    let p := packetOf bs
    let now := c.f 63 32
    let next := if c.f 255 224 = 0 then none else some ((now + 1) % 2 ^ 32)
    let bad := leNat ((bs.drop (n - 4)).take 4) != (crc32c (bs.take (n - 4))).toNat
      || !(p.frame == now || some p.frame == next) || c.f 276 256 ≤ p.tile || !c.takes (p.rlo, p.rhi)
      || c.emitted.contains (p.frame, p.tile)
      || c.held.any fun q => q.frame == p.frame && q.tile == p.tile && (q.rlo, q.rhi) == (p.rlo, p.rhi)
    if bad then s.modComposite g fun c => { c with word := bumpField c.word 384 }
    else ((s.modComposite g fun c => { c with held := c.held ++ [p] }).stage g).emitReady g

/-! ## Package time passes -/

/-- Something is due at this time. -/
def State.timeDue (s : State) : Bool := (List.range 16).any (s.frameDue ·) || (List.range 4).any (s.flipDue ·)

/-- A SYNC message leaves by a port that carries them (R275), or not: an open choice, as are its contents and its receiver,
which the cited IEEE 1588 fixes. -/
def State.sendSync (s : State) : State :=
  let p := s.dev.ptc
  if p.role = 0 || p.ports &&& s.dev.fabric.portup = 0 then s
  else
    let (n, s) := s.fresh
    if n % 2 = 0 then s
    else s.modFabric fun f => { f with outbox := f.outbox ++
      [{ type := flitSYNC, vc := 1, dst := Config.freeOf 29 n 0 % 4096, src := f.pkgid, tag := Config.freeOf 29 n 1 % 2 ^ 16,
         len := 240, sts := 0, aop := 0, asz := 0, addr := 0,
         payload := (List.range 240).map fun i => BitVec.ofNat 8 (Config.freeOf 30 n i) }] }

/-- By how much PTC moves in one nanosecond (R276): a follower that is far ahead holds it; one that has an offset slews by one
nanosecond in 5,000 (200 ppm) or not, an open choice; never past the tick of a rendezvous that waits. -/
def State.advancePtc (s : State) : State :=
  let p := s.dev.ptc
  let move (s : State) (n hold since : Nat) : State :=
    s.modDev fun d => { d with ptc := { d.ptc with ptc := p.ptc + n, hold := hold, since := since } }
  if p.role != 1 then move s 1 p.hold p.since
  else if 0 < p.hold then move s 0 (p.hold - 1) p.since
  else if p.since < 5000 || p.offset = 0 then move s 1 0 (p.since + 1)
  else
    let (n, s) := s.fresh
    let next := s.dies.any fun d => d.2.tkbars.any fun x => x.2.1 == p.ptc + 1
    if n % 2 = 0 then move s 1 0 p.since
    else if 0 < p.offset.toInt then move s 0 0 0
    else if next then move s 1 0 p.since
    else move s 2 0 0

/-- A cell whose QUIESCE is over, its CACHE granules being written back, goes on to SAVE (R291). -/
def State.saveCells (s : State) : State :=
  s.modDev fun d => { d with cells := d.cells.mapVal fun _ x => if x.state = 1 then { x with state := 2 } else x }

/-- One nanosecond of package time passes (R275), unless something has still to happen at this one: a rendezvous of a tick
that has come (R40), the end of a frame (R277) or a flip (R284), of which the last two happen now. -/
def State.nanosecond (s : State) : State :=
  if s.dies.any fun p => p.2.tkbars.any fun x => x.2.1 ≤ s.dev.ptc.ptc then s
  else if s.timeDue then s.settleTime
  else s.advancePtc.sendSync.settleTime.saveCells

/-! ## Events -/

/-- COMPOSITE_FRAME_END (R277, R283). -/
def execCompositeFrameEnd (g : Nat) (s : State) : Host.Outcome State Fault Refusal :=
  .next (if s.frameDue g then s.frameEnd g else s)

/-- NODE_DEADLINE (R282): the root node's deadline is DL; missing inputs are substituted and the node emits. Inner nodes lie
in the switches, outside the package. -/
def execNodeDeadline (g : Nat) (s : State) : Host.Outcome State Fault Refusal :=
  .next (if s.frameDue g && (s.dev.composites.get g {}).word.getLsbD 3 then s.emitRest g else s)

/-- COMPOSITE_GROUP_WRITE (R277). -/
def execCompositeGroupWrite (g word : Nat) (v : W64) (s : State) : Host.Outcome State Fault Refusal :=
  .next (if g < 16 then s.writeComposite g word v else s)

/-- HEAD_WRITE (R284). -/
def execHeadWrite (h word : Nat) (v : W64) (s : State) : Host.Outcome State Fault Refusal :=
  .next (if h < 4 then s.writeHead h word v else s)

/-- HEAD_FLIP (R284) of one of the four heads. -/
def execHeadFlip (h : Nat) (s : State) : Host.Outcome State Fault Refusal :=
  .next (if h < 4 then s.settleHead h else s)

/-- VERTICAL_BLANKING (R284): the flips made until now take effect on the screen. -/
def execVerticalBlanking (h : Nat) (s : State) : Host.Outcome State Fault Refusal :=
  .next (if h < 4 then s.modDev fun d => { d with heads := d.heads.upd h {} fun x => { x with shown := x.sel } } else s)

end Sys2Proof.Machine
end

