-- ==== Sys2Proof/WellFormed.lean ====
section
/-! DEFINITION. The encoding rules of R305, R308 and the opcode rows R319 to R326, R333, R334, R379, R426 to R433:
which field values of a wave instruction are an instruction. The limits that depend on the wave (its register window,
a bypass window, a buffer record) are not here: the meanings check them. -/

namespace Sys2Proof.WellFormed

open Sys2Proof

/-- The types of 64-bit elements, which stand in even-aligned pairs (R308). -/
def wideTy (ty : Nat) : Bool := ty == 2 || ty == 3 || ty == 5

/-- The floating-point types (R316). -/
def floatTy (ty : Nat) : Bool := (4 ≤ ty && ty ≤ 7) || (12 ≤ ty && ty ≤ 14)

/-- A register field of one register or of an aligned run of `n` registers (R48). -/
def aligned (n : Nat) (r : BitVec 9) : Bool := r.toNat % n == 0

/-- Registers of one element of a type (R308). -/
def regsOf (ty : Nat) : Nat := if wideTy ty then 2 else 1

/-- What a VR row writes. -/
inductive Dst where
  | vec | mask | scalar
  deriving DecidableEq, Repr

/-- What a VR row reads in one source field. -/
inductive Src where
  | none | any | vecOnly | scalarOnly
  deriving DecidableEq, Repr

/-- The rule of one source field of a VR row: its KS bit and its register number (R308, R305). -/
def Src.ok (ty : Nat) (ks : Bool) (r : BitVec 9) : Src → Bool
  | .none => !ks && r == 0
  | .any => if ks then r.toNat < 64 else aligned (regsOf ty) r
  | .vecOnly => !ks && aligned (regsOf ty) r
  | .scalarOnly => ks && r.toNat < 64

/-- The rule of the destination field of a VR row. -/
def Dst.ok (ty : Nat) (tr : Bool) (r : BitVec 9) : Dst → Bool
  | .vec => aligned (regsOf ty) r
  | .mask => r.toNat < 16 && !tr
  | .scalar => r.toNat < 64 && !tr

/-- A row of the VR opcode maps. -/
structure VRRow where
  tys : List Nat
  fns : List Nat := [0]
  dst : Dst := .vec
  a : Src := .any
  b : Src := .any
  c : Src := .none
  rm : Bool := false
  sat : Bool := false
  na : Bool := false
  nc : Bool := false

/-- The field rules of R305 and R308 for a row. -/
def VRRow.ok (r : VRRow) (f : VR) : Bool :=
  let ty := f.ty.toNat
  r.tys.contains ty && r.fns.contains f.fn.toNat
    && r.dst.ok ty (f.tr == 1) f.vd
    && r.a.ok ty (f.ks.getLsbD 2) f.va
    && r.b.ok ty (f.ks.getLsbD 1) f.vb
    && r.c.ok ty (f.ks.getLsbD 0) f.vc
    && (r.rm || f.rm == 0) && (r.sat || f.sat == 0) && (r.na || f.na == 0) && (r.nc || f.nc == 0)

/-- Types 0 to 3 (R321). -/
def ints : List Nat := [0, 1, 2, 3]
/-- Types 0 to 3 and 8 to 11 (R321). -/
def intsPacked : List Nat := [0, 1, 2, 3, 8, 9, 10, 11]
/-- Types 0 to 3, 8 and 9 (R321). -/
def intsHalf : List Nat := [0, 1, 2, 3, 8, 9]
/-- Types 0 to 5 (R321). -/
def widths : List Nat := [0, 1, 2, 3, 4, 5]
/-- Types 0 to 14 (R321). -/
def allTys : List Nat := List.range 15
/-- Types 4 to 7 (R322). -/
def floats : List Nat := [4, 5, 6, 7]

/-- The pairs of types that R70 lists, by destination and source type: float to integer, integer to float and float to
float. No code list of R70 has an integer-to-integer row (R424). -/
def cvtPair (d s : Nat) : Bool := d ≤ 14 && s ≤ 14 && (floatTy d || floatTy s)

/-- Elements of one unit of a type (R425). -/
def unitElems (ty : Nat) : Nat :=
  if ty ≤ 5 then 1 else if ty ≤ 9 then 2 else if ty ≤ 13 then 4 else 8

/-- Registers of a VCVT block of `n` elements of a type (R425). -/
def cvtRegs (n ty : Nat) : Nat := n / unitElems ty * regsOf ty

/-- Elements that one lane of a VCVT converts (R425). -/
def cvtElems (d s : Nat) : Nat := max (unitElems s) (unitElems d)

/-- VCVT (R322, R424, R425). TR goes with a register, a pair or a quad alone (R308). -/
def vcvtOk (f : VR) : Bool :=
  let d := f.ty.toNat
  let s := f.fn.toNat
  let n := cvtElems d s
  cvtPair d s
    && aligned (cvtRegs n d) f.vd
    && (if f.ks.getLsbD 2 then f.va.toNat < 64 && cvtRegs n s == regsOf s else aligned (cvtRegs n s) f.va)
    && f.ks.getLsbD 1 == false && f.ks.getLsbD 0 == false && f.vb == 0 && f.vc == 0
    && (f.na == 0 || floatTy s) && f.nc == 0 && (f.tr == 0 || cvtRegs n d ≤ 4)

/-- VQMX (R426). -/
def vqmxOk (f : VR) : Bool :=
  [12, 13, 14].contains f.ty.toNat && f.fn.toNat ≤ 1 && f.ks == 1 && f.vc.toNat < 64 && f.tr == 0
    && f.rm == 0 && f.sat == 0 && f.na == 0 && f.nc == 0 && f.vd != f.va
    && (if f.fn == 1 then f.vb != f.va && f.vb != f.vd else f.vb == 0)

/-- VXM (R433). -/
def vxmOk (f : VR) : Bool :=
  [7, 10, 12, 13, 14].contains f.ty.toNat && f.fn == 0 && aligned 2 f.va
    && f.ks.getLsbD 2 == false && f.ks.getLsbD 1 == false
    && (f.ks.getLsbD 0 == false || f.vc.toNat < 64) && f.vd != f.vb && f.na == 0 && f.tr == 0
    && (f.ty != 10 || (f.rm == 0 && f.nc == 0))

/-- A mask source field: a mask number, or 16 for EXEC (R323). -/
def maskSrc (r : BitVec 9) : Bool := r.toNat ≤ 16

/-- MOP (R379). -/
def mopOk (f : VR) : Bool :=
  f.fn.toNat ≤ 6 && f.ty == 0 && f.vd.toNat < 16 && f.vc == 0 && f.tr == 0
    && f.rm == 0 && f.sat == 0 && f.na == 0 && f.nc == 0
    && (if f.fn == 6 then f.ks == 4 && f.va.toNat < 64 else f.ks == 0 && maskSrc f.va)
    && (if f.fn.toNat ≤ 3 then maskSrc f.vb else f.vb == 0)

/-- MSAVE, MREST and MPOP (R379): the function codes, the destination limit, and whether a mask is read. -/
def maskRowOk (fns : List Nat) (dLim : Nat) (reads : Bool) (f : VR) : Bool :=
  fns.contains f.fn.toNat && f.ty == 0 && f.vd.toNat < dLim && f.ks == 0 && f.vb == 0 && f.vc == 0 && f.tr == 0
    && f.rm == 0 && f.sat == 0 && f.na == 0 && f.nc == 0 && (if reads then maskSrc f.va else f.va == 0)

/-- VRED and VSCAN (R323, R432). -/
def redOk (d : Dst) (f : VR) : Bool :=
  let op := f.fn.toNat % 8
  op ≤ 6 && (VRRow.ok ⟨if op == 6 then [4] else ints, List.range 16, d, .vecOnly, .none, .none, false, false, false, false⟩ f)

/-- MEMIT (R374). -/
def memitOk (f : VR) : Bool :=
  f.fn == 0 && f.ty == 0 && f.ks == 0 && f.tr == 0 && f.rm == 0 && f.sat == 0 && f.na == 0 && f.nc == 0

/-- RTRACE (R392). -/
def rtraceOk (f : VR) : Bool :=
  f.fn.toNat ≤ 3 && f.ty == 0 && aligned 4 f.vd && aligned 4 f.va && f.ks == 2 && f.vb.toNat < 64 && f.vc == 0
    && f.tr == 0 && f.rm == 0 && f.sat == 0 && f.na == 0 && f.nc == 0

/-- VMUL (R321, R416): the high form takes TY 0 or 1 only and no SAT. -/
def vmulOk (f : VR) : Bool :=
  VRRow.ok { tys := intsHalf, fns := [0, 1], sat := true } f && (f.fn == 0 || (f.ty.toNat ≤ 1 && f.sat == 0))

/-- VSINCOS (R322, R423): the pair form takes an even destination. -/
def vsincosOk (f : VR) : Bool :=
  VRRow.ok { tys := [4], fns := [0, 1, 2], b := .none, rm := true, sat := true, na := true } f
    && (f.fn != 2 || aligned 2 f.vd)

/-- VSEL (R419): C is a mask. -/
def vselOk (f : VR) : Bool :=
  VRRow.ok { tys := widths } { f with vc := 0, ks := f.ks } && f.vc.toNat < 16

/-- The format-VI rules of R309 and R420. -/
def viOk (tys : List Nat) (f : VI) : Bool :=
  let ty := f.ty.toNat
  tys.contains ty && aligned (regsOf ty) f.vd
    && (if f.ka == 1 then f.va.toNat < 64 else aligned (regsOf ty) f.va)

/-- VCMP of an immediate (R420). -/
def vcmpImmOk (f : VI) : Bool :=
  ints.contains f.ty.toNat && f.vd.toNat / 32 ≤ 5 && f.vd.toNat % 32 < 16 && f.tr == 0
    && (if f.ka == 1 then f.va.toNat < 64 else aligned (regsOf f.ty.toNat) f.va)

/-- VMOV of an immediate (R420). -/
def vmovImmOk (f : VI) : Bool :=
  allTys.contains f.ty.toNat && aligned (regsOf f.ty.toNat) f.vd && f.va == 0 && f.ka == 0

/-- VQSWZ (R429). -/
def vqswzOk (f : VI) : Bool := viOk widths f && f.ka == 0 && f.imm.toNat < 256

/-- Source B of format S: a scalar with IMM 0, or the immediate with SB 0 (R310). -/
def sB (f : FS) : Bool := if f.ib == 1 then f.sb == 0 else f.imm == 0

/-- The scalar arithmetic rows of R394. -/
def sArith (fns : List Nat) (f : FS) : Bool := fns.contains f.fn.toNat && sB f

/-- SMOV (R394). -/
def smovOk (f : FS) : Bool :=
  (f.fn == 0 && f.sa == 0 && sB f) || (f.fn == 1 && f.sa == 0 && f.sb == 0 && f.ib == 0 && f.w == 0)

/-- SLD and SST (R396): `bad` is the ST code the row refuses. -/
def sMem (bad : Nat) (f : FS) : Bool :=
  let st := f.fn.toNat / 4
  let sc := f.sb.toNat
  st != bad && sc ≤ 6 && (st != 0 || sc == 0) && f.ib == 0 && f.w == 0

/-- SEMP, SEMV and SEMRD (R399). -/
def semOk (fns : List Nat) (sd sa : Bool) (f : FS) : Bool :=
  fns.contains f.fn.toNat && f.imm.toNat < 256 && f.ib == 0 && f.w == 0 && f.sb == 0
    && (sd || f.sd == 0) && (sa || f.sa == 0)

/-- TLRD and TLWAIT (R408). -/
def tlOk (sa : Bool) (f : FS) : Bool :=
  f.ib == 0 && f.w == 0 && (sa || f.sa == 0)
    && ((f.fn == 0 && f.imm.toNat < 2 ^ 13 && f.sb == 0) || (f.fn == 1 && f.imm == 0))

/-- The condition fields of format C (R311, R317, R341): SA with CND 11 and 12 only, MK with CND 13 to 15 only. -/
def condOk (saUsed : Bool) (f : FC) : Bool :=
  let c := f.cnd.toNat
  f.rsv == 0 && (saUsed || c == 11 || c == 12 || f.sa == 0) && (13 ≤ c || f.mask == 0)

/-- A format-C row with every field 0. -/
def cZero (f : FC) : Bool := f.fn == 0 && f.cnd == 0 && f.sa == 0 && f.mask == 0 && f.rsv == 0 && f.off == 0

/-- The target forms of JMP and CALL (R319, R344). -/
def targetOk (f : FC) : Bool :=
  f.fn == 0 || (f.fn == 1 && f.off.toNat < 64) || (f.fn == 2 && f.off.toNat < 512 && f.off.toNat % 2 == 0)

/-- CND 11 and 12 are refused where SA names another register (R344, R390). -/
def noScalarCond (f : FC) : Bool := f.cnd != 11 && f.cnd != 12

/-- FENCE (R362). -/
def fenceOk (f : FC) : Bool :=
  f.fn.toNat ≤ 3 && f.cnd.toNat ≤ 6 && f.sa == 0 && f.mask == 0 && f.rsv == 0 && f.off == 0

/-- The memory operand of format M with no buffer record (R313, R296). -/
def mAddr (f : FM) : Bool := f.rsv == 0 && (f.am == 0 || (f.va.toNat % 2 == 0 && f.tb == 0))

/-- ST and SC of format M: an access kind, and a scope exactly when it is strong (R138). -/
def mKind (kinds : List Nat) (f : FM) : Bool :=
  kinds.contains f.st.toNat && f.sc.toNat ≤ 6 && (f.st != 0 || f.sc == 0)

/-- Registers that SZ fills (R313). -/
def szRegs (sz : Nat) : Nat := if sz == 3 then 2 else if sz == 4 then 4 else 1

/-- LD and ST (R368, R403, R167). -/
def ldstOk (sx : Bool) (kinds : List Nat) (f : FM) : Bool :=
  mAddr f && f.sz.toNat ≤ 4 && mKind kinds f && aligned (szRegs f.sz.toNat) f.vd
    && f.fn.toNat ≤ (if sx && f.sz.toNat ≤ 1 then 1 else 0)
    && (f.brx == 0xFF || (f.am == 0 && f.tb == 0 && f.st == 0))

/-- LDS and STS (R370, R404). -/
def ldsOk (sx : Bool) (kinds : List Nat) (f : FM) : Bool :=
  f.rsv == 0 && f.am == 0 && f.tb == 0 && f.brx == 0xFF && f.ch == 0 && f.sz.toNat ≤ 4
    && mKind kinds f && aligned (szRegs f.sz.toNat) f.vd
    && f.fn.toNat / 2 ≤ 2 && f.fn.toNat % 2 ≤ (if sx && f.sz.toNat ≤ 1 then 1 else 0)
    && (f.fn.toNat / 2 != 1 || f.st == 0)

/-- LDT (R372). -/
def ldtOk (f : FM) : Bool :=
  f.fn == 0 && f.rsv == 0 && f.sz.toNat ≤ 2 && f.am == 0 && f.va == 0 && f.off == 0 && f.brx == 0xFF
    && f.st == 0 && f.sc == 0 && f.ch == 0 && (f.sz != 2 || aligned 2 f.vd)

/-- PREF (R389). -/
def prefOk (f : FM) : Bool :=
  mAddr f && f.vd == 0 && f.fn.toNat ≤ 1 && f.st == 0 && f.sc == 0 && f.brx == 0xFF && f.sz.toNat ≤ 4

/-- CPYA (R351). -/
def cpyaOk (f : FM) : Bool :=
  mAddr f && f.fn.toNat % 2 == 0 && f.brx == 0xFF && f.st == 0 && f.sc == 0 && f.sz.toNat ≤ 4

/-- SAMPLE (R398). -/
def sampleOk (f : FM) : Bool :=
  f.rsv == 0 && f.fn == 0 && f.am == 0 && f.tb == 0 && f.brx != 0xFF && f.sz == 0 && f.st == 0 && f.sc == 0
    && f.off == 0 && aligned 2 f.va

/-- ATOM (R333, R334). -/
def atomOk (f : FA) : Bool :=
  let n := if f.sz == 1 then 2 else if f.sz == 2 then 4 else 1
  f.fn.toNat ≤ 11 && f.sz.toNat ≤ 2 && (f.sz != 2 || f.fn == 1) && (f.fn == 1 || f.vc == 0)
    && aligned n f.vd && aligned n f.vb && aligned n f.vc
    && (f.am == 0 || (aligned 2 f.va && f.tb == 0)) && f.sc.toNat ≤ 6 && f.rsv == 0

/-- ATOMS (R333, R334). -/
def atomsOk (f : FA) : Bool :=
  f.fn.toNat ≤ 11 && f.sz == 0 && (f.fn == 1 || f.vc == 0) && f.am == 0 && f.tb.toNat ≤ 1 && f.sc.toNat ≤ 6
    && f.rsv == 0

/-- MLOOP (R315): F[23] and F[7:4] are 0. -/
def mloopOk (f : FE) : Bool := f.f.getLsbD 23 == false && (f.f.toNat / 16) % 16 == 0

/-- A gaffer instruction whose fields marked "—" in R248 are x0. -/
def xOk (rd rs1 rs2 : Bool) (f : XR) : Bool :=
  (rd || f.rd == 0) && (rs1 || f.rs1 == 0) && (rs2 || f.rs2 == 0)

/-- The static rules of every row. Engine commands and device steps have none here: an engine checks a command when it
issues (R329). -/
def ok : Instr → Bool
  | .nop f | .join f | .bar f | .cbar f | .uliret f | .trig f => cZero f
  | .jmp f => condOk false f && targetOk f
  | .call f => condOk true f && targetOk f && noScalarCond f
  | .ret f => condOk true f && f.fn == 0 && f.off == 0 && noScalarCond f
  | .br f | .trap f | .sleep f => condOk false f && f.fn == 0
  | .brs f => f.fn.toNat ≤ 1 && f.rsv == 0
  | .exit f | .brkpt f => condOk false f && f.fn == 0 && f.off == 0
  | .sadd f | .ssub f | .sand f | .sor f | .sxor f | .sshl f => sArith [0] f
  | .smul f => sArith [0, 1, 2] f
  | .sshr f => sArith [0, 1] f
  | .scmp f => sArith [0] f && f.sd == 0
  | .smov f => smovOk f
  | .ssel f => sArith (List.range 11) f
  | .sld f => sMem 3 f
  | .sst f => sMem 2 f
  | .sxlat f => sArith [0] f && f.sd.toNat < 16 && f.w == 0
  | .vadd f | .vsub f => VRRow.ok { tys := intsPacked, sat := true } f
  | .vmul f => vmulOk f
  | .vmad f => VRRow.ok { tys := ints, c := .any, sat := true } f
  | .vdot4 f => VRRow.ok { tys := [10, 11], c := .any, sat := true } f
  | .vand f | .vor f | .vxor f => VRRow.ok { tys := ints } f
  | .vshl f => VRRow.ok { tys := intsHalf } f
  | .vshr f => VRRow.ok { tys := intsHalf, fns := [0, 1] } f
  | .vmin f | .vmax f => VRRow.ok { tys := intsPacked } f
  | .vcmp f => VRRow.ok { tys := ints, fns := List.range 6, dst := .mask } f
  | .vsel f => vselOk f
  | .vbfe f => VRRow.ok { tys := [0, 1] } f
  | .vbfi f => VRRow.ok { tys := [0, 1], c := .any } f
  | .vpopc f | .vclz f => VRRow.ok { tys := [0, 1], b := .none } f
  | .vmov f => VRRow.ok { tys := allTys, b := .none } f
  | .vaddImm f => viOk intsPacked f
  | .vmulImm f => viOk intsHalf f
  | .vandImm f | .vorImm f => viOk ints f
  | .vcmpImm f => vcmpImmOk f
  | .vmovImm f => vmovImmOk f
  | .vfaddImm f | .vfmulImm f => viOk floats f
  | .vfadd f | .vfmul f => VRRow.ok { tys := floats, rm := true, sat := true, na := true } f
  | .vfma f => VRRow.ok { tys := floats, c := .any, rm := true, sat := true, na := true, nc := true } f
  | .vfmin f | .vfmax f => VRRow.ok { tys := floats, fns := [0, 1], na := true } f
  | .vfcmp f => VRRow.ok { tys := [4, 5], fns := List.range 8, dst := .mask, na := true } f
  | .vfdiv f => VRRow.ok { tys := [4, 5], rm := true, sat := true, na := true } f
  | .vfsqrt f => VRRow.ok { tys := [4, 5], b := .none, rm := true, sat := true, na := true } f
  | .vrcp f | .vrsq f | .vexp2 f | .vlog2 f =>
    VRRow.ok { tys := [4], b := .none, rm := true, sat := true, na := true } f
  | .vsincos f => vsincosOk f
  | .vfrnd f => VRRow.ok { tys := floats, b := .none, rm := true, na := true } f
  | .vfract f => VRRow.ok { tys := [4, 5], b := .none, na := true } f
  | .vfdot2 f => VRRow.ok { tys := [6, 7], c := .any, rm := true, sat := true, na := true, nc := true } f
  | .vcvt f => vcvtOk f
  | .vqmx f => vqmxOk f
  | .vdqmx f => VRRow.ok { tys := [12, 13, 14], a := .vecOnly, b := .scalarOnly, rm := true } f
  | .decode f => VRRow.ok { tys := [0], fns := List.range 5, a := .scalarOnly, b := .none } f && f.tr == 0
  | .vqswz f => vqswzOk f
  | .vshfl f => VRRow.ok { tys := widths, fns := List.range 4, a := .vecOnly } f
  | .vrdl f => VRRow.ok { tys := widths, dst := .scalar, a := .vecOnly, b := .scalarOnly } f
  | .vwrl f => VRRow.ok { tys := widths, a := .scalarOnly, b := .scalarOnly } f
  | .ballot f => VRRow.ok { tys := ints, fns := [0, 8], dst := .mask, b := .none } f
  | .vred f => redOk .scalar f
  | .vscan f => redOk .vec f
  | .mop f => mopOk f
  | .msave f => maskRowOk [0] 16 false f
  | .mrest f => maskRowOk [0, 1] 1 true f
  | .mpop f => maskRowOk [0, 1] 64 true f
  | .ld f => ldstOk true [0, 1, 2] f
  | .st f => ldstOk false [0, 1, 3] f
  | .lds f => ldsOk true [0, 1, 2] f
  | .sts f => ldsOk false [0, 1, 3] f
  | .ldt f => ldtOk f
  | .pref f => prefOk f
  | .cpya f => cpyaOk f
  | .cbatch f => f.fn == 0 && f.sa == 0 && f.sb == 0 && f.ib == 0 && f.w == 0 && f.imm == 0
  | .cwait f => f.fn == 0 && f.sd == 0 && f.sa == 0 && f.w == 0 && sB f
  | .sample f => sampleOk f
  | .atom f => atomOk f
  | .atoms f => atomsOk f
  | .semp f => semOk [0] false false f
  | .semv f => semOk [0, 1] false (f.fn == 1) f
  | .semrd f => semOk [0] true false f
  | .fence f => fenceOk f
  | .tlwait f => tlOk true f
  | .tlrd f => tlOk false f
  | .mloop f => mloopOk f
  | .menq f => f.fn == 0 && f.sb == 0 && f.ib == 0 && f.w == 0 && f.imm.toNat < 16
  | .vxm f => vxmOk f
  | .temit f => f.fn == 0 && f.ib == 0 && f.w == 0 && f.imm == 0
  | .memit f => memitOk f
  | .rtrace f => rtraceOk f
  | .srd f => f.fn == 0 && f.sa == 0 && f.sb == 0 && f.ib == 0 && f.w == 0 && f.imm.toNat < 4096
  | .swr f => f.fn == 0 && f.sd == 0 && f.sb == 0 && f.ib == 0 && f.w == 0 && f.imm.toNat < 4096
  | .launch f => f.fn == 0 && f.w == 0 && sB f
  | .nq f => f.fn == 0 && f.sb == 0 && f.ib == 0 && f.w == 0 && f.imm == 0
  | .rqxfer f => f.fn == 0 && f.sd == 0 && f.w == 0 && sB f
  | .xpush _ | .xpushm _ | .xtlwait _ | .xsemv _ | .xtkbar _ | .xmsend _ | .xhlaunch _ => true
  | .xfence f => xOk false true false f
  | .xtlrd f | .xsemp f | .xsemrd f | .xmrecv f | .xdrain f => xOk true true false f
  | .xsemwr f | .xwmark f => xOk false true true f
  | .xtick f => xOk true false false f
  | _ => true

end Sys2Proof.WellFormed
end

