-- ==== Sys2Proof/Decode.lean ====
section
/-! DEFINITION. Decoding of wave words (R304 to R327), engine command words (R328, R329) and gaffer words (R248,
R332), total on every word and refusing by name; and the encoder of the same tables. -/

namespace Sys2Proof

/-- Why a word is not an instruction. -/
inductive DecodeError where
  /-- Fewer bytes than one word. -/
  | short
  /-- The word is 0, or its OPC is unassigned (R305, R327). -/
  | unassignedOpc
  /-- A field of an assigned OPC breaks R305. -/
  | illegalField
  /-- The EOP is unlisted (R329). -/
  | unlistedEop
  /-- A custom-0 word that matches no X instruction (R332). -/
  | unassignedCustom0
  /-- A RISC-V word outside the custom-0 space: the cited RISC-V architecture gives it (R2, R247). -/
  | baseWord
  deriving DecidableEq, Repr

namespace Decode

/-- The fields of format VR (R307). -/
def getVR (w : W64) : VR :=
  { fn := w.extractLsb' 52 4,
    vd := w.extractLsb' 43 9,
    va := w.extractLsb' 34 9,
    vb := w.extractLsb' 25 9,
    vc := w.extractLsb' 16 9,
    ks := w.extractLsb' 13 3,
    oc := w.extractLsb' 10 3,
    tr := w.extractLsb' 9 1,
    ty := w.extractLsb' 5 4,
    rm := w.extractLsb' 3 2,
    sat := w.extractLsb' 2 1,
    na := w.extractLsb' 1 1,
    nc := w.extractLsb' 0 1 }

/-- The fields of format VI (R309). -/
def getVI (w : W64) : VI :=
  { ty := w.extractLsb' 52 4,
    vd := w.extractLsb' 43 9,
    va := w.extractLsb' 34 9,
    ka := w.extractLsb' 33 1,
    tr := w.extractLsb' 32 1,
    imm := w.extractLsb' 0 32 }

/-- The fields of format FS (R310). -/
def getFS (w : W64) : FS :=
  { fn := w.extractLsb' 52 4,
    sd := w.extractLsb' 46 6,
    sa := w.extractLsb' 40 6,
    sb := w.extractLsb' 34 6,
    ib := w.extractLsb' 33 1,
    w := w.extractLsb' 32 1,
    imm := w.extractLsb' 0 32 }

/-- The fields of format FC (R311). -/
def getFC (w : W64) : FC :=
  { fn := w.extractLsb' 52 4,
    cnd := w.extractLsb' 48 4,
    sa := w.extractLsb' 42 6,
    mask := w.extractLsb' 38 4,
    rsv := w.extractLsb' 32 6,
    off := w.extractLsb' 0 32 }

/-- The fields of format FC2 (R312). -/
def getFC2 (w : W64) : FC2 :=
  { fn := w.extractLsb' 52 4,
    mask := w.extractLsb' 48 4,
    rsv := w.extractLsb' 32 16,
    tgt := w.extractLsb' 16 16,
    rc := w.extractLsb' 0 16 }

/-- The fields of format FM (R313). -/
def getFM (w : W64) : FM :=
  { am := w.extractLsb' 55 1,
    fn := w.extractLsb' 52 3,
    vd := w.extractLsb' 43 9,
    va := w.extractLsb' 34 9,
    tb := w.extractLsb' 30 4,
    rsv := w.extractLsb' 28 2,
    brx := w.extractLsb' 20 8,
    sz := w.extractLsb' 17 3,
    st := w.extractLsb' 15 2,
    sc := w.extractLsb' 12 3,
    ch := w.extractLsb' 10 2,
    off := w.extractLsb' 0 10 }

/-- The fields of format FA (R314). -/
def getFA (w : W64) : FA :=
  { fn := w.extractLsb' 52 4,
    vd := w.extractLsb' 43 9,
    va := w.extractLsb' 34 9,
    vb := w.extractLsb' 25 9,
    vc := w.extractLsb' 16 9,
    tb := w.extractLsb' 12 4,
    sz := w.extractLsb' 10 2,
    st := w.extractLsb' 8 2,
    sc := w.extractLsb' 5 3,
    am := w.extractLsb' 4 1,
    rsv := w.extractLsb' 0 4 }

/-- The fields of format FE (R315). -/
def getFE (w : W64) : FE :=
  { ws := w.extractLsb' 48 8,
    sg := w.extractLsb' 40 8,
    f := w.extractLsb' 0 40 }

/-- The fields of an engine command word (R328). -/
def getCmd (w : W64) : Cmd := { wait := w.extractLsb' 56 8, sig := w.extractLsb' 48 8, f := w.extractLsb' 0 40 }

/-- The register fields of an X instruction (R248). -/
def getXR (w : W32) : XR := { rd := w.extractLsb' 7 5, rs1 := w.extractLsb' 15 5, rs2 := w.extractLsb' 20 5 }

/-- The instruction of an OPC, with its fields unchecked (R319 to R326). -/
def ofOpc (opc : Nat) (w : W64) : Option Instr :=
  match opc with
  | 0x01 => some (.nop (getFC w))
  | 0x02 => some (.jmp (getFC w))
  | 0x03 => some (.call (getFC w))
  | 0x04 => some (.ret (getFC w))
  | 0x05 => some (.br (getFC w))
  | 0x06 => some (.brs (getFC2 w))
  | 0x07 => some (.join (getFC w))
  | 0x08 => some (.exit (getFC w))
  | 0x09 => some (.trap (getFC w))
  | 0x0A => some (.brkpt (getFC w))
  | 0x0B => some (.bar (getFC w))
  | 0x0C => some (.cbar (getFC w))
  | 0x0D => some (.sleep (getFC w))
  | 0x0E => some (.uliret (getFC w))
  | 0x10 => some (.sadd (getFS w))
  | 0x11 => some (.ssub (getFS w))
  | 0x12 => some (.smul (getFS w))
  | 0x13 => some (.sand (getFS w))
  | 0x14 => some (.sor (getFS w))
  | 0x15 => some (.sxor (getFS w))
  | 0x16 => some (.sshl (getFS w))
  | 0x17 => some (.sshr (getFS w))
  | 0x18 => some (.scmp (getFS w))
  | 0x19 => some (.smov (getFS w))
  | 0x1A => some (.ssel (getFS w))
  | 0x1B => some (.sld (getFS w))
  | 0x1C => some (.sst (getFS w))
  | 0x1D => some (.sxlat (getFS w))
  | 0x20 => some (.vadd (getVR w))
  | 0x21 => some (.vsub (getVR w))
  | 0x22 => some (.vmul (getVR w))
  | 0x23 => some (.vmad (getVR w))
  | 0x24 => some (.vdot4 (getVR w))
  | 0x25 => some (.vand (getVR w))
  | 0x26 => some (.vor (getVR w))
  | 0x27 => some (.vxor (getVR w))
  | 0x28 => some (.vshl (getVR w))
  | 0x29 => some (.vshr (getVR w))
  | 0x2A => some (.vmin (getVR w))
  | 0x2B => some (.vmax (getVR w))
  | 0x2C => some (.vcmp (getVR w))
  | 0x2D => some (.vsel (getVR w))
  | 0x2E => some (.vbfe (getVR w))
  | 0x2F => some (.vbfi (getVR w))
  | 0x30 => some (.vpopc (getVR w))
  | 0x31 => some (.vclz (getVR w))
  | 0x32 => some (.vmov (getVR w))
  | 0x38 => some (.vaddImm (getVI w))
  | 0x39 => some (.vmulImm (getVI w))
  | 0x3A => some (.vandImm (getVI w))
  | 0x3B => some (.vorImm (getVI w))
  | 0x3C => some (.vcmpImm (getVI w))
  | 0x3D => some (.vmovImm (getVI w))
  | 0x3E => some (.vfaddImm (getVI w))
  | 0x3F => some (.vfmulImm (getVI w))
  | 0x40 => some (.vfadd (getVR w))
  | 0x41 => some (.vfmul (getVR w))
  | 0x42 => some (.vfma (getVR w))
  | 0x43 => some (.vfmin (getVR w))
  | 0x44 => some (.vfmax (getVR w))
  | 0x45 => some (.vfcmp (getVR w))
  | 0x46 => some (.vfdiv (getVR w))
  | 0x47 => some (.vfsqrt (getVR w))
  | 0x48 => some (.vrcp (getVR w))
  | 0x49 => some (.vrsq (getVR w))
  | 0x4A => some (.vexp2 (getVR w))
  | 0x4B => some (.vlog2 (getVR w))
  | 0x4C => some (.vsincos (getVR w))
  | 0x4D => some (.vfrnd (getVR w))
  | 0x4E => some (.vfract (getVR w))
  | 0x4F => some (.vfdot2 (getVR w))
  | 0x60 => some (.vcvt (getVR w))
  | 0x61 => some (.vqmx (getVR w))
  | 0x62 => some (.vdqmx (getVR w))
  | 0x63 => some (.decode (getVR w))
  | 0x70 => some (.vqswz (getVI w))
  | 0x71 => some (.vshfl (getVR w))
  | 0x72 => some (.vrdl (getVR w))
  | 0x73 => some (.vwrl (getVR w))
  | 0x74 => some (.ballot (getVR w))
  | 0x75 => some (.vred (getVR w))
  | 0x76 => some (.vscan (getVR w))
  | 0x77 => some (.mop (getVR w))
  | 0x78 => some (.msave (getVR w))
  | 0x79 => some (.mrest (getVR w))
  | 0x7A => some (.mpop (getVR w))
  | 0x80 => some (.ld (getFM w))
  | 0x81 => some (.st (getFM w))
  | 0x82 => some (.lds (getFM w))
  | 0x83 => some (.sts (getFM w))
  | 0x84 => some (.ldt (getFM w))
  | 0x85 => some (.pref (getFM w))
  | 0x86 => some (.cpya (getFM w))
  | 0x87 => some (.cbatch (getFS w))
  | 0x88 => some (.cwait (getFS w))
  | 0xC3 => some (.sample (getFM w))
  | 0xA0 => some (.atom (getFA w))
  | 0xA1 => some (.atoms (getFA w))
  | 0xA2 => some (.semp (getFS w))
  | 0xA3 => some (.semv (getFS w))
  | 0xA4 => some (.semrd (getFS w))
  | 0xA5 => some (.fence (getFC w))
  | 0xA6 => some (.tlwait (getFS w))
  | 0xA7 => some (.tlrd (getFS w))
  | 0xA8 => some (.trig (getFC w))
  | 0xB0 => some (.mloop (getFE w))
  | 0xB1 => some (.menq (getFS w))
  | 0xB2 => some (.vxm (getVR w))
  | 0xC0 => some (.temit (getFS w))
  | 0xC1 => some (.memit (getVR w))
  | 0xC2 => some (.rtrace (getVR w))
  | 0xD0 => some (.srd (getFS w))
  | 0xD1 => some (.swr (getFS w))
  | 0xD2 => some (.launch (getFS w))
  | 0xD3 => some (.nq (getFS w))
  | 0xD4 => some (.rqxfer (getFS w))
  | _ => none

/-- A wave word (R305): its instruction, or why it is none. -/
def wave (w : W64) : Except DecodeError Instr :=
  match ofOpc (w.extractLsb' 56 8).toNat w with
  | none => .error .unassignedOpc
  | some i => if WellFormed.ok i then .ok i else .error .illegalField

/-- An engine command word (R329): EOP 0x30 is FPUT.Q when its Q bit, F[23], is set (R270). -/
def command (w : W64) : Except DecodeError Instr :=
  let c := getCmd w
  match (w.extractLsb' 40 8).toNat with
  | 0x00 => .ok (.idle c)
  | 0x10 => .ok (.mxzero c)
  | 0x11 => .ok (.mxloop c)
  | 0x12 => .ok (.mxedge c)
  | 0x13 => .ok (.mxst c)
  | 0x14 => .ok (.mxld c)
  | 0x20 => .ok (.cpy c)
  | 0x21 => .ok (.cpyt c)
  | 0x22 => .ok (.cpyq c)
  | 0x23 => .ok (.cpyx c)
  | 0x24 => .ok (.cpyf c)
  | 0x25 => .ok (.cpyc c)
  | 0x26 => .ok (.cpym c)
  | 0x30 => .ok (if c.f.getLsbD 23 then .fputQ c else .fput c)
  | 0x31 => .ok (.fget c)
  | 0x32 => .ok (.fcomp c)
  | 0x33 => .ok (.fsig c)
  | 0x40 => .ok (.tbegin c)
  | 0x41 => .ok (.tend c)
  | _ => .error .unlistedEop

/-- The X instruction of a match value of R332, with its fields unchecked. -/
def ofMatch (m : Nat) (r : XR) : Option Instr :=
  match m with
  | 0x0000000B => some (.xpush r)
  | 0x0200000B => some (.xpushm r)
  | 0x0000100B => some (.xfence r)
  | 0x0000200B => some (.xtlrd r)
  | 0x0200200B => some (.xtlwait r)
  | 0x0000300B => some (.xsemp r)
  | 0x0200300B => some (.xsemv r)
  | 0x0400300B => some (.xsemrd r)
  | 0x0600300B => some (.xsemwr r)
  | 0x0000400B => some (.xtick r)
  | 0x0200400B => some (.xtkbar r)
  | 0x0000500B => some (.xmsend r)
  | 0x0200500B => some (.xmrecv r)
  | 0x0000600B => some (.xhlaunch r)
  | 0x0000700B => some (.xdrain r)
  | 0x0200700B => some (.xwmark r)
  | _ => none

/-- A gaffer word (R332): the X instruction it matches under mask 0xFE00_707F. -/
def gaffer (w : W32) : Except DecodeError Instr :=
  if w.extractLsb' 0 7 = 0x0B#7 then
    match ofMatch (w &&& 0xFE00707F#32).toNat (getXR w) with
    | some i => if WellFormed.ok i then .ok i else .error .unassignedCustom0
    | none => .error .unassignedCustom0
  else .error .baseWord

/-- Little-endian bytes as a number (R3). -/
def leNat : List Byte → Nat
  | [] => 0
  | b :: bs => b.toNat + 256 * leNat bs

/-- A wave instruction from the bytes at its address (R304). -/
def waveBytes (bs : List Byte) : Except DecodeError (Instr × List Byte) :=
  if bs.length < 8 then .error .short
  else (wave (BitVec.ofNat 64 (leNat (bs.take 8)))).map (·, bs.drop 8)

/-- A gaffer instruction from the bytes at its address (R248). -/
def gafferBytes (bs : List Byte) : Except DecodeError (Instr × List Byte) :=
  if bs.length < 4 then .error .short
  else (gaffer (BitVec.ofNat 32 (leNat (bs.take 4)))).map (·, bs.drop 4)

/-- `n` little-endian bytes of a number (R3). -/
def leBytes : Nat → Nat → List Byte
  | 0, _ => []
  | n + 1, w => BitVec.ofNat 8 w :: leBytes n (w / 256)

end Decode

namespace Encode

/-- A word of format VR (R307). -/
def putVR (opc : BitVec 8) (f : VR) : W64 :=
  opc ++ f.fn ++ f.vd ++ f.va ++ f.vb ++ f.vc ++ f.ks ++ f.oc ++ f.tr ++ f.ty ++ f.rm ++ f.sat ++ f.na ++ f.nc

/-- A word of format VI (R309). -/
def putVI (opc : BitVec 8) (f : VI) : W64 :=
  opc ++ f.ty ++ f.vd ++ f.va ++ f.ka ++ f.tr ++ f.imm

/-- A word of format FS (R310). -/
def putFS (opc : BitVec 8) (f : FS) : W64 :=
  opc ++ f.fn ++ f.sd ++ f.sa ++ f.sb ++ f.ib ++ f.w ++ f.imm

/-- A word of format FC (R311). -/
def putFC (opc : BitVec 8) (f : FC) : W64 :=
  opc ++ f.fn ++ f.cnd ++ f.sa ++ f.mask ++ f.rsv ++ f.off

/-- A word of format FC2 (R312). -/
def putFC2 (opc : BitVec 8) (f : FC2) : W64 :=
  opc ++ f.fn ++ f.mask ++ f.rsv ++ f.tgt ++ f.rc

/-- A word of format FM (R313). -/
def putFM (opc : BitVec 8) (f : FM) : W64 :=
  opc ++ f.am ++ f.fn ++ f.vd ++ f.va ++ f.tb ++ f.rsv ++ f.brx ++ f.sz ++ f.st ++ f.sc ++ f.ch ++ f.off

/-- A word of format FA (R314). -/
def putFA (opc : BitVec 8) (f : FA) : W64 :=
  opc ++ f.fn ++ f.vd ++ f.va ++ f.vb ++ f.vc ++ f.tb ++ f.sz ++ f.st ++ f.sc ++ f.am ++ f.rsv

/-- A word of format FE (R315). -/
def putFE (opc : BitVec 8) (f : FE) : W64 :=
  opc ++ f.ws ++ f.sg ++ f.f

/-- An engine command word (R328). -/
def putCmd (eop : BitVec 8) (c : Cmd) : W64 := c.wait ++ c.sig ++ eop ++ c.f

/-- An X instruction word (R437). -/
def putXR (funct7 : BitVec 7) (funct3 : BitVec 3) (r : XR) : W32 :=
  funct7 ++ r.rs2 ++ r.rs1 ++ funct3 ++ r.rd ++ 0x0B#7

/-- The word of a wave instruction; none for the other rows. -/
def wave : Instr → Option W64
  | .nop f => some (putFC 0x01 f)
  | .jmp f => some (putFC 0x02 f)
  | .call f => some (putFC 0x03 f)
  | .ret f => some (putFC 0x04 f)
  | .br f => some (putFC 0x05 f)
  | .brs f => some (putFC2 0x06 f)
  | .join f => some (putFC 0x07 f)
  | .exit f => some (putFC 0x08 f)
  | .trap f => some (putFC 0x09 f)
  | .brkpt f => some (putFC 0x0A f)
  | .bar f => some (putFC 0x0B f)
  | .cbar f => some (putFC 0x0C f)
  | .sleep f => some (putFC 0x0D f)
  | .uliret f => some (putFC 0x0E f)
  | .sadd f => some (putFS 0x10 f)
  | .ssub f => some (putFS 0x11 f)
  | .smul f => some (putFS 0x12 f)
  | .sand f => some (putFS 0x13 f)
  | .sor f => some (putFS 0x14 f)
  | .sxor f => some (putFS 0x15 f)
  | .sshl f => some (putFS 0x16 f)
  | .sshr f => some (putFS 0x17 f)
  | .scmp f => some (putFS 0x18 f)
  | .smov f => some (putFS 0x19 f)
  | .ssel f => some (putFS 0x1A f)
  | .sld f => some (putFS 0x1B f)
  | .sst f => some (putFS 0x1C f)
  | .sxlat f => some (putFS 0x1D f)
  | .vadd f => some (putVR 0x20 f)
  | .vsub f => some (putVR 0x21 f)
  | .vmul f => some (putVR 0x22 f)
  | .vmad f => some (putVR 0x23 f)
  | .vdot4 f => some (putVR 0x24 f)
  | .vand f => some (putVR 0x25 f)
  | .vor f => some (putVR 0x26 f)
  | .vxor f => some (putVR 0x27 f)
  | .vshl f => some (putVR 0x28 f)
  | .vshr f => some (putVR 0x29 f)
  | .vmin f => some (putVR 0x2A f)
  | .vmax f => some (putVR 0x2B f)
  | .vcmp f => some (putVR 0x2C f)
  | .vsel f => some (putVR 0x2D f)
  | .vbfe f => some (putVR 0x2E f)
  | .vbfi f => some (putVR 0x2F f)
  | .vpopc f => some (putVR 0x30 f)
  | .vclz f => some (putVR 0x31 f)
  | .vmov f => some (putVR 0x32 f)
  | .vaddImm f => some (putVI 0x38 f)
  | .vmulImm f => some (putVI 0x39 f)
  | .vandImm f => some (putVI 0x3A f)
  | .vorImm f => some (putVI 0x3B f)
  | .vcmpImm f => some (putVI 0x3C f)
  | .vmovImm f => some (putVI 0x3D f)
  | .vfaddImm f => some (putVI 0x3E f)
  | .vfmulImm f => some (putVI 0x3F f)
  | .vfadd f => some (putVR 0x40 f)
  | .vfmul f => some (putVR 0x41 f)
  | .vfma f => some (putVR 0x42 f)
  | .vfmin f => some (putVR 0x43 f)
  | .vfmax f => some (putVR 0x44 f)
  | .vfcmp f => some (putVR 0x45 f)
  | .vfdiv f => some (putVR 0x46 f)
  | .vfsqrt f => some (putVR 0x47 f)
  | .vrcp f => some (putVR 0x48 f)
  | .vrsq f => some (putVR 0x49 f)
  | .vexp2 f => some (putVR 0x4A f)
  | .vlog2 f => some (putVR 0x4B f)
  | .vsincos f => some (putVR 0x4C f)
  | .vfrnd f => some (putVR 0x4D f)
  | .vfract f => some (putVR 0x4E f)
  | .vfdot2 f => some (putVR 0x4F f)
  | .vcvt f => some (putVR 0x60 f)
  | .vqmx f => some (putVR 0x61 f)
  | .vdqmx f => some (putVR 0x62 f)
  | .decode f => some (putVR 0x63 f)
  | .vqswz f => some (putVI 0x70 f)
  | .vshfl f => some (putVR 0x71 f)
  | .vrdl f => some (putVR 0x72 f)
  | .vwrl f => some (putVR 0x73 f)
  | .ballot f => some (putVR 0x74 f)
  | .vred f => some (putVR 0x75 f)
  | .vscan f => some (putVR 0x76 f)
  | .mop f => some (putVR 0x77 f)
  | .msave f => some (putVR 0x78 f)
  | .mrest f => some (putVR 0x79 f)
  | .mpop f => some (putVR 0x7A f)
  | .ld f => some (putFM 0x80 f)
  | .st f => some (putFM 0x81 f)
  | .lds f => some (putFM 0x82 f)
  | .sts f => some (putFM 0x83 f)
  | .ldt f => some (putFM 0x84 f)
  | .pref f => some (putFM 0x85 f)
  | .cpya f => some (putFM 0x86 f)
  | .cbatch f => some (putFS 0x87 f)
  | .cwait f => some (putFS 0x88 f)
  | .sample f => some (putFM 0xC3 f)
  | .atom f => some (putFA 0xA0 f)
  | .atoms f => some (putFA 0xA1 f)
  | .semp f => some (putFS 0xA2 f)
  | .semv f => some (putFS 0xA3 f)
  | .semrd f => some (putFS 0xA4 f)
  | .fence f => some (putFC 0xA5 f)
  | .tlwait f => some (putFS 0xA6 f)
  | .tlrd f => some (putFS 0xA7 f)
  | .trig f => some (putFC 0xA8 f)
  | .mloop f => some (putFE 0xB0 f)
  | .menq f => some (putFS 0xB1 f)
  | .vxm f => some (putVR 0xB2 f)
  | .temit f => some (putFS 0xC0 f)
  | .memit f => some (putVR 0xC1 f)
  | .rtrace f => some (putVR 0xC2 f)
  | .srd f => some (putFS 0xD0 f)
  | .swr f => some (putFS 0xD1 f)
  | .launch f => some (putFS 0xD2 f)
  | .nq f => some (putFS 0xD3 f)
  | .rqxfer f => some (putFS 0xD4 f)
  | _ => none

/-- The word of an engine command; none for the other rows. -/
def command : Instr → Option W64
  | .idle c => some (putCmd 0x00 c)
  | .mxzero c => some (putCmd 0x10 c)
  | .mxloop c => some (putCmd 0x11 c)
  | .mxedge c => some (putCmd 0x12 c)
  | .mxst c => some (putCmd 0x13 c)
  | .mxld c => some (putCmd 0x14 c)
  | .cpy c => some (putCmd 0x20 c)
  | .cpyt c => some (putCmd 0x21 c)
  | .cpyq c => some (putCmd 0x22 c)
  | .cpyx c => some (putCmd 0x23 c)
  | .cpyf c => some (putCmd 0x24 c)
  | .cpyc c => some (putCmd 0x25 c)
  | .cpym c => some (putCmd 0x26 c)
  | .fput c => some (putCmd 0x30 c)
  | .fget c => some (putCmd 0x31 c)
  | .fcomp c => some (putCmd 0x32 c)
  | .fsig c => some (putCmd 0x33 c)
  | .tbegin c => some (putCmd 0x40 c)
  | .tend c => some (putCmd 0x41 c)
  | .fputQ c => some (putCmd 0x30 c)
  | _ => none

/-- The word of an X instruction; none for the other rows. -/
def gaffer : Instr → Option W32
  | .xpush r => some (putXR 0 0 r)
  | .xpushm r => some (putXR 1 0 r)
  | .xfence r => some (putXR 0 1 r)
  | .xtlrd r => some (putXR 0 2 r)
  | .xtlwait r => some (putXR 1 2 r)
  | .xsemp r => some (putXR 0 3 r)
  | .xsemv r => some (putXR 1 3 r)
  | .xsemrd r => some (putXR 2 3 r)
  | .xsemwr r => some (putXR 3 3 r)
  | .xtick r => some (putXR 0 4 r)
  | .xtkbar r => some (putXR 1 4 r)
  | .xmsend r => some (putXR 0 5 r)
  | .xmrecv r => some (putXR 1 5 r)
  | .xhlaunch r => some (putXR 0 6 r)
  | .xdrain r => some (putXR 0 7 r)
  | .xwmark r => some (putXR 1 7 r)
  | _ => none

end Encode

/-- The instruction that the decoder reads from a word of `nbits` bits: a 32-bit word is a gaffer instruction (R248),
laid out in memory least significant byte first; a longer word is a wave instruction of 8 bytes (R304). -/
def decodeTableWord (nbits w : Nat) : Option Instr :=
  if nbits ≤ 32 then
    match Decode.gafferBytes (Decode.leBytes 4 (w % 2 ^ nbits)) with
    | .ok (i, _) => some i
    | .error _ => none
  else
    match Decode.waveBytes (Decode.leBytes 8 (w % 2 ^ nbits)) with
    | .ok (i, _) => some i
    | .error _ => none

end Sys2Proof
end

