-- ==== Sys2Proof/Machine/Uses.lean ====
section
/-! DEFINITION. What an engine command names (R88 to R97, R177, R178, R224, R270): its engine, its tensor records, the
bytes it reads and writes through each of them, and its accumulator tile. -/

namespace Sys2Proof.Machine

open Sys2Proof

/-- BASE of a tensor record (R88). -/
def trBase (r : BitVec 512) : Nat := recF r 63 0
/-- SBASE of a tensor record. -/
def trSbase (r : BitVec 512) : Nat := recF r 127 64
/-- XBASE of a tensor record. -/
def trXbase (r : BitVec 512) : Nat := recF r 191 128
/-- STRIDE of a tensor record. -/
def trStride (r : BitVec 512) : Nat := recF r 223 192
/-- XSTRIDE of a tensor record. -/
def trXstride (r : BitVec 512) : Nat := recF r 255 224
/-- FMT of a tensor record. -/
def trFmt (r : BitVec 512) : Nat := recF r 259 256
/-- SPACE of a tensor record: 0 VIRT, 1 BSTORE, 2 VAULT. -/
def trSpace (r : BitVec 512) : Nat := recF r 261 260
/-- MV of a tensor record. -/
def trMv (r : BitVec 512) : Bool := bitOf r.toNat 262
/-- XL of a tensor record. -/
def trXl (r : BitVec 512) : Bool := bitOf r.toNat 263
/-- SSTRIDE of a tensor record. -/
def trSstride (r : BitVec 512) : Nat := recF r 279 264

/-- A record whose fields are out of range or reserved, in the layout its MV selects (R88, R91, R452). -/
def trBad (r : BitVec 512) : Bool :=
  if trMv r then
    !([0, 3, 4, 6].contains (trFmt r)) || trSpace r == 3 || trXl r || recF r 255 176 != 0 || recF r 511 264 != 0
      || recF r 79 64 == 0 || recF r 95 80 == 0 || recF r 111 96 == 0 || recF r 111 96 % 64 != 0
  else
    7 < trFmt r || trSpace r == 3 || (trXl r && trFmt r != 2) || (trFmt r == 7 && trSpace r != 0) || recF r 511 280 != 0

/-- Bytes of a 32-element block of a format; T5 holds two blocks in 13 bytes (R74, R75, R89). -/
def fmtBlock (fmt : Nat) : Nat := if fmt = 2 then 16 else if fmt = 6 then 64 else 32

/-- Bytes of `n` blocks of a row of a format (R89). -/
def fmtBytes (fmt n : Nat) : Nat := if fmt = 1 then 13 * ((n + 1) / 2) else n * fmtBlock fmt

/-- Bytes of the scales of `n` blocks of a row (R89): E8M0 a block, or BF16 a group of two. -/
def scaleBytes (fmt n : Nat) : Nat := if fmt = 1 then 2 * ((n + 1) / 2) else if fmt = 2 || fmt = 5 then n else 0

/-- The dimensions of a marver record (R91, R92): H, W, C, KH, KW, SH, SW, DH, DW, PH, PW, P0. -/
structure Marver where
  h : Nat
  w : Nat
  c : Nat
  kh : Nat
  kw : Nat
  sh : Nat
  sw : Nat
  dh : Nat
  dw : Nat
  ph : Nat
  pw : Nat
  p0 : Nat
  deriving DecidableEq, Repr

/-- The marver fields of a record (R91). -/
def Marver.of (r : BitVec 512) : Marver :=
  { h := recF r 79 64, w := recF r 95 80, c := recF r 111 96, kh := recF r 115 112 + 1, kw := recF r 119 116 + 1,
    sh := recF r 123 120 + 1, sw := recF r 127 124 + 1, dh := recF r 131 128 + 1, dw := recF r 135 132 + 1,
    ph := recF r 139 136, pw := recF r 143 140, p0 := recF r 175 144 }

/-- An output extent (R92), which can be negative. -/
def outExtent (n pad dil k stride : Nat) : Int :=
  Int.fdiv ((n + 2 * pad : Nat) - (dil * (k - 1) + 1 : Nat)) stride + 1

/-- The address of the 64 elements of K-step `s` in A row `i` (R92), none where they are exact zeros. -/
def Marver.rowAddr (m : Marver) (base size i s : Nat) : Option Nat :=
  let hout := outExtent m.h m.ph m.dh m.kh m.sh
  let wout := outExtent m.w m.pw m.dw m.kw m.sw
  let p : Int := (m.p0 + i : Nat)
  if hout * wout ≤ p then none
  else
    let t := 64 * s / m.c
    let c := 64 * s % m.c
    let iy : Int := Int.fdiv p wout * m.sh - m.ph + (t / m.kw * m.dh : Nat)
    let ix : Int := Int.fmod p wout * m.sw - m.pw + (t % m.kw * m.dw : Nat)
    if iy < 0 || (m.h : Int) ≤ iy || ix < 0 || (m.w : Int) ≤ ix then none
    else some (base + ((iy.toNat * m.w + ix.toNat) * m.c + c) * size)

/-- Bytes of an element of a marver format. -/
def marverSize (r : BitVec 512) : Nat := if trFmt r = 6 then 2 else 1

/-- What an MXLOOP reads through the marver (R92). -/
def marverRuns (r : BitVec 512) (steps : Nat) : List (Nat × Nat) :=
  (List.range 64).flatMap fun i => (List.range steps).filterMap fun s =>
    ((Marver.of r).rowAddr (trBase r) (marverSize r) i s).map fun a => (a, 64 * marverSize r)

/-- The bytes a command reads or writes through one record, from one of its bases. -/
structure Use where
  trec : Nat
  tr : BitVec 512
  write : Bool
  base : Nat
  runs : List (Nat × Nat)
  deriving DecidableEq, Repr

/-- What a command reads of `rows` rows of `n` blocks of a plain operand: elements, scales and side lists (R89). -/
def operandUses (trec : Nat) (r : BitVec 512) (rows n : Nat) : List Use :=
  let runs (base stride len : Nat) : List (Nat × Nat) := (List.range rows).map fun i => (base + i * stride, len)
  [⟨trec, r, false, trBase r, runs (trBase r) (trStride r) (fmtBytes (trFmt r) n)⟩]
    ++ (if scaleBytes (trFmt r) n = 0 then [] else
        [⟨trec, r, false, trSbase r, runs (trSbase r) (trSstride r) (scaleBytes (trFmt r) n)⟩])
    ++ (if trXl r then [⟨trec, r, false, trXbase r, runs (trXbase r) (trXstride r) (8 * n)⟩] else [])

/-- Rows of bytes through a record. -/
def rowRuns (r : BitVec 512) (rows n : Nat) : List (Nat × Nat) :=
  (List.range rows).map fun i => (trBase r + i * trStride r, n)

/-- A field of an engine command word (R328). -/
def cmdF (w : W64) (hi lo : Nat) : Nat := bitsOf w.toNat hi lo

/-- EOP of a command word. -/
def cmdEop (w : W64) : Nat := cmdF w 47 40

/-- The tensor records a command names (R93, R177, R224, R270), in the order of its fields. -/
def cmdRecs (w : W64) : List Nat :=
  let a := cmdF w 39 32
  let b := cmdF w 31 24
  match cmdEop w with
  | 0x11 => [a, b]
  | 0x12 => [a, b, cmdF w 23 16]
  | 0x13 => [a]
  | 0x14 => [a]
  | 0x20 => [a, b]
  | 0x21 => [a, b]
  | 0x22 => [a, b, cmdF w 23 16]
  | 0x23 => [a, b]
  | 0x24 => [b]
  | 0x25 => [a, b]
  | 0x26 => [a, b]
  | 0x30 => if bitOf w.toNat 23 then [a, b, cmdF w 22 15] else [a, b]
  | 0x31 => [a, b]
  | 0x32 => [a]
  | 0x40 => [a]
  | _ => []

/-- The tile a command acts on, whether it writes it, and whether it reads it in the sense of R43 (R87). -/
def cmdTile (w : W64) : Option (Nat × Bool × Bool) :=
  match cmdEop w with
  | 0x10 => some (cmdF w 22 20, true, false)
  | 0x11 => some (cmdF w 22 20, true, false)
  | 0x13 => some (cmdF w 22 20, bitOf w.toNat 17, true)
  | 0x14 => some (cmdF w 22 20, true, false)
  | _ => none

/-- Bytes of an element that CPYX writes (R347). -/
def cpyxZ (w : W64) : Nat := if cmdF w 1 0 = 0 then 2 else if cmdF w 1 0 = 1 then 4 else 1

/-- Bytes of an FCOMP payload (R278, R360): colour of CF, then depth. -/
def State.compBytes (s : State) (g : Nat) : Nat :=
  if (s.dev.composites.get g {}).word.getLsbD 2 then 3072 else 2048

/-- What a command reads and writes through its records (R89 to R97, R178, R180, R271, R273, R348): `recs` are the copies
taken at its issue. -/
def State.cmdUses (s : State) (w : W64) (recs : Tbl (BitVec 512)) : List Use :=
  let a := cmdF w 39 32
  let b := cmdF w 31 24
  let ra := recs.get a 0
  let rb := recs.get b 0
  let rd (n : Nat) (r : BitVec 512) (runs : List (Nat × Nat)) : Use := ⟨n, r, false, trBase r, runs⟩
  let wr (n : Nat) (r : BitVec 512) (runs : List (Nat × Nat)) : Use := ⟨n, r, true, trBase r, runs⟩
  let crc (n : Nat) (r : BitVec 512) : Use := ⟨n, r, true, trXbase r, [(trXbase r, 4)]⟩
  let srcCrc : List Use := if trXbase ra != 0 && !trXl ra then [crc a ra] else []
  let dstCrc : List Use := if trXbase rb != 0 then [crc b rb] else []
  let rows := cmdF w 23 12 + 1
  let bytes := 16 * (cmdF w 11 0 + 1)
  match cmdEop w with
  | 0x11 =>
    let n := cmdF w 19 8 + 1
    (if trMv ra then [rd a ra (marverRuns ra n)] else operandUses a ra 64 (2 * n)) ++ operandUses b rb 64 (2 * n)
  | 0x12 =>
    let c := cmdF w 23 16
    let rc := recs.get c 0
    let nt := cmdF w 14 10 + 1
    let ng := cmdF w 9 4 + 1
    [rd a ra [(trBase ra, 48 * nt)], rd b rb [(trBase rb, 128 * ng)], wr c rc (rowRuns rc nt (8 * ng))]
  | 0x13 => [wr a ra (rowRuns ra 64 (if cmdF w 19 18 = 0 then 256 else 128))]
  | 0x14 => [rd a ra (rowRuns ra 64 256)]
  | 0x20 => [rd a ra (rowRuns ra rows bytes), wr b rb (rowRuns rb rows bytes)] ++ srcCrc ++ dstCrc
  | 0x21 =>
    let cols := cmdF w 11 2 + 1
    let es := 2 ^ cmdF w 1 0
    [rd a ra (rowRuns ra rows (cols * es)), wr b rb (rowRuns rb cols (rows * es))] ++ srcCrc ++ dstCrc
  | 0x22 =>
    let c := cmdF w 23 16
    let rc := recs.get c 0
    let nb := cmdF w 15 4 + 1
    let cullet := [(trBase rc, nb * (if bitOf w.toNat 2 then 64 else 128))]
    [rd a ra [(trBase ra, nb * (if bitOf w.toNat 3 then 128 else 64))],
     wr b rb [(trBase rb, nb * fmtBlock (trFmt rb))], ⟨b, rb, true, trSbase rb, [(trSbase rb, nb)]⟩, rd c rc cullet, wr c rc cullet] ++ srcCrc ++ dstCrc
  | 0x23 =>
    let nr := cmdF w 23 13 + 1
    let nb := cmdF w 12 4 + 1
    let z := cpyxZ w
    let dst := if bitOf w.toNat 3 then rowRuns rb (32 * nb) (nr * z) else rowRuns rb nr (32 * nb * z)
    operandUses a ra nr nb ++ [wr b rb dst] ++ srcCrc ++ dstCrc
  | 0x24 => [wr b rb (rowRuns rb rows bytes)] ++ dstCrc
  | 0x25 => [rd a ra (rowRuns ra rows bytes), wr b rb [(trBase rb, 4)]]
  | 0x30 =>
    if bitOf w.toNat 23 then
      let c := cmdF w 22 15
      let rc := recs.get c 0
      let nb := cmdF w 14 4 + 1
      let cullet := [(trBase rc, nb * (if bitOf w.toNat 2 then 64 else 128))]
      [rd a ra [(trBase ra, nb * (if bitOf w.toNat 3 then 128 else 64))],
       wr b rb [(trBase rb, nb * fmtBlock (trFmt rb))], ⟨b, rb, true, trSbase rb, [(trSbase rb, nb)]⟩, rd c rc cullet, wr c rc cullet]
        ++ srcCrc ++ dstCrc
    else
      let nr := cmdF w 22 12 + 1
      [rd a ra (rowRuns ra nr bytes), wr b rb (rowRuns rb nr bytes)] ++ srcCrc ++ dstCrc
  | 0x31 =>
    let nr := cmdF w 22 12 + 1
    [rd a ra (rowRuns ra nr bytes), wr b rb (rowRuns rb nr bytes)] ++ srcCrc ++ dstCrc
  | 0x32 => [rd a ra (rowRuns ra (cmdF w 27 24 + 1) (s.compBytes (cmdF w 31 28)))]
  | _ => []

/-- 4 KiB pages of the page size PGS (R126, R177). -/
def pgsPages (p : Nat) : Nat :=
  match p with
  | 0 => 1
  | 1 => 4
  | 2 => 16
  | 3 => 512
  | 4 => 16 * 512
  | 5 => 512 ^ 2
  | 6 => 16 * 512 ^ 2
  | _ => 512 ^ 3

/-- What a CPYM writes apart from its records' uses (R179): the destination page, and the leaf once it has found it. -/
def cpymWrites (w : W64) (recs : Tbl (BitVec 512)) (aux : List Nat) : List (Nat × Nat) :=
  if cmdEop w = 0x26 then
    (trBase (recs.get (cmdF w 31 24) 0) % 2 ^ 44, 4096 * pgsPages (cmdF w 23 20)) :: (aux.drop 1).map fun a => (a % 2 ^ 44, 8)
  else []

end Sys2Proof.Machine
end

