-- ==== Sys2Proof/Machine/Order.lean ====
section
/-! DEFINITION. The order of engine commands: which ring's head issues (R37 to R39, R41), which issued command an engine
works on (R98, R105, R227), and which command waits for its tile (R84, R87, R383, R448). -/

namespace Sys2Proof.Machine

open Sys2Proof

/-- The issue cycle of the head of a timed ring (R41). -/
def Ring.due (r : Ring) (w : W64) : Nat := r.lastT + 1 + bitsOf w.toNat 63 56 + r.slip

/-- An issued command of a bench, with its ring. -/
structure Issued where
  slot : Nat
  r : Ring
  a : Active
  deriving DecidableEq, Repr

/-- The issued commands of a bench. -/
def Bench.issued (b : Bench) : List Issued :=
  (b.rings.filter fun p => p.2.bound).flatMap fun p => p.2.active.map fun a => ⟨p.1, p.2, a⟩

/-- Commands of an engine context that are issued and not complete (R37), those included whose SIG increment is owed (R39). -/
def Bench.held (b : Bench) (e : Engine) (ctx : Nat) : Nat :=
  (b.issued.filter fun i => i.r.eng == e && i.r.ctx == ctx).length

/-! ## Tiles -/

/-- A command of an engine context stands at a fault (R383). -/
def Bench.engHalted (b : Bench) (e : Engine) (ctx : Nat) : Bool :=
  b.rings.any fun p => p.2.bound && p.2.eng == e && p.2.ctx == ctx && p.2.active.any fun a => a.halted

/-- A command that counts as retired for those of context `ctx` on its tile: its ring is stopped by the drain of another
context (R448), or a command of its engine context stands at a fault and it is that one or has not begun (R87, R383). -/
def Bench.setAside (b : Bench) (ctx : Nat) (i : Issued) : Bool :=
  (i.r.ctx != ctx && b.cmdStops i.r i.a) || (b.engHalted i.r.eng i.r.ctx && (i.a.halted || !i.a.begun))

/-- A command has retired (R105): its writes are performed. One whose completing increment is owed (R39) has. -/
def Issued.retired (i : Issued) (now : Nat) : Bool := i.a.owesSig || (i.r.timed && i.a.retire.any (· ≤ now))

/-- Whether command `a` of context `ctx` has to wait for an issued command that comes before it on its tile and is not set
aside (R84, R87): an MXLOOP for the work of an earlier MXLOOP, any other for the retirement of an earlier writer, given by
`retired`; a writer for the work of an earlier reader. -/
def Bench.tileHeld (y : Bench) (ctx : Nat) (a : Active) (retired : Issued → Bool) (i : Issued) : Bool :=
  match cmdTile a.word, cmdTile i.a.word with
  | some (t, wr, _), some (t', wr', _) =>
    t' == t && i.r.eng == .matrix && i.a.seq < a.seq && !y.setAside ctx i
      && (if wr' && !(cmdEop i.a.word == 0x11 && cmdEop a.word == 0x11) then !retired i else (wr || wr') && !i.a.worked)
  | _, _ => false

/-- A command of a ring has to wait for its tile (R84, R87). -/
def State.tileWaits (s : State) (b slot : Nat) (a : Active) : Bool :=
  let y := s.bench b
  let now := s.cycle b
  y.issued.any (y.tileHeld (y.ring slot).ctx a fun i => i.retired now)

/-! ## Work -/

/-- Whether the commands of ring `q` come in one order of work with those of ring `r` (R98): those of one engine context; on
the matrix engine, whose array takes one command at a time, those of all contexts, but for timed commands, whose cycles
R105 fixes among themselves. Each ring of the tiling engine goes on by itself (R227). -/
def Bench.inTurn (r : Ring) (q : Ring) : Bool :=
  q.bound && q.eng == r.eng && (q.ctx == r.ctx || (if r.timed then q.timed else r.eng == .matrix))

/-- The command of a ring that comes next to be worked: its lowest-numbered one with work left. None where it stands at a
fault (R100) or is stopped (R200). -/
def Bench.firstOf (b : Bench) (r : Ring) : Option Active :=
  if !(r.state == .running || r.state == .halted) then none
  else
    let first := (r.active.filter fun a => !a.worked).foldl (fun o a => match o with
      | none => some a
      | some x => if a.num < x.num then some a else some x) (none : Option Active)
    first.bind fun a => if a.halted || b.cmdStops r a then none else some a

/-- The issued command with work left that the engine takes for a ring: of the rings in one order with it, the command that is
on the array until its last unit (R98), and otherwise the earliest issued of those that come next in them. One that a command
behind it in another ring would have to go before on its tile, after a resume has placed it there (R383, R448), does not hold
the others up (DEDUCED, log entry 107). -/
def Bench.nextWork (b : Bench) (slot : Nat) : Option Active :=
  let r := b.ring slot
  let rings := if r.eng == .tiling then [(slot, r)] else b.rings.filter fun p => Bench.inTurn r p.2
  let next := rings.filterMap fun p => (b.firstOf p.2).map fun a => (p.1, a)
  let least (l : List (Nat × Active)) : Option (Nat × Active) := l.foldl (fun o c => match o with
    | none => some c
    | some x => if c.2.seq < x.2.seq then some c else some x) none
  let free (p : Nat × Active) : Bool := !b.issued.any (b.tileHeld (b.ring p.1).ctx p.2 fun i => i.a.worked)
  match least (next.filter fun p => p.2.begun && !p.2.off), least (next.filter free) with
  | some p, _ => if p.1 = slot then some p.2 else none
  | none, some p => if p.1 = slot then some p.2 else none
  | none, none => none

/-- The cycle at which a command of a timed ring next works (R105). -/
def Bench.workAt (b : Bench) (e : Engine) (a : Active) : Nat :=
  if a.begun then a.start else max a.start (b.arrayFree.get e.code 0)

/-! ## Heads -/

/-- The head of a ring may issue: RUNNING and not ARMED, its context not stopped, within the end count (R38, R42, R200). -/
def Bench.hasHead (b : Bench) (slot : Nat) : Bool :=
  let r := b.ring slot
  r.state == .running && !r.armed && !b.ringStops r && r.rp < r.wp &&
    match r.fin with
    | some e => r.rp < e
    | none => true

/-- The engine has no place for the head of a dynamic ring (R37, R181); a ring of the tiling engine issues none before the
one before it is complete, an IDLE neither (R405). -/
def State.headFull (s : State) (b slot : Nat) (w : W64) : Bool :=
  let y := s.bench b
  let r := y.ring slot
  !r.timed && ((cmdEop w != 0 && (8 ≤ y.held r.eng r.ctx || (r.eng == .copy && 128 ≤ y.inFlight)))
    || (r.eng == .tiling && r.active != []))

/-- The head of a dynamic ring is ready (R39): the engine has a place, and the head has its semaphore. -/
def State.headReady (s : State) (b slot : Nat) : Bool :=
  let r := s.ring b slot
  let w := s.ringWord b slot (r.rp + 1)
  (s.bench b).hasHead slot && !r.timed && !s.headFull b slot w && (cmdF w 63 56 == 0xFF || r.tookWait)

/-- It is a dynamic ring's turn among the ready heads of its engine: round-robin in order of slot number (R39). -/
def State.headTurn (s : State) (b slot : Nat) : Bool :=
  let x := s.bench b
  let e := (x.ring slot).eng
  let pos (k : Nat) : Nat := match x.lastHead.get? e.code with
    | some l => (k + 15 - l) % 16
    | none => k
  !x.rings.any fun p => p.2.eng == e && pos p.1 < pos slot && s.headReady b p.1

/-- The head of a ring takes its turn now: a timed one at its cycle, a ready dynamic one in round-robin order, and one that
is not ready to look for its semaphore. -/
def State.headNow (s : State) (b slot : Nat) : Bool :=
  let r := s.ring b slot
  (s.bench b).hasHead slot &&
    (if r.timed then r.due (s.ringWord b slot (r.rp + 1)) ≤ s.cycle b else !s.headReady b slot || s.headTurn b slot)

end Sys2Proof.Machine
end

