-- ==== Sys2Proof/Machine/RvCsr.lean ====
section
/-! DEFINITION. The control and status registers of control cores and host cores (R2, R247, R250): those of the cited RISC-V
architecture (PRESUMED, log entry 23), and for a gaffer the Siresha CSRs. -/

namespace Sys2Proof.Machine

open Sys2Proof

/-- Bits of a register that take a write, over its old value. -/
def csrMask (mask : Nat) (old v : W64) : W64 := (old &&& ~~~w64 mask) ||| (v &&& w64 mask)

/-- The bits of mstatus that hold a value: SIE, MIE, SPIE, MPIE, SPP, MPP, FS, MPRV, SUM, MXR, TVM, TW and TSR. -/
def mstatusBits : Nat := 0x7E79AA
/-- The bits of mstatus that sstatus shows: SIE, SPIE, SPP, FS, SUM and MXR. -/
def sstatusBits : Nat := 0xC6122
/-- The interrupts that mie can enable. -/
def mieBits : Nat := 0x1000AAA
/-- The exceptions that medeleg can delegate. -/
def medelegBits : Nat := 0xB3FF

/-- mstatus as it reads: UXL and SXL are 64 bits, and SD shows that FS is Dirty. -/
def Csrs.mstatusRead (c : Csrs) : W64 := c.mstatus ||| w64 (0xA00000000 + if bitsOf c.mstatus.toNat 14 13 = 3 then 2 ^ 63 else 0)

/-- sstatus as it reads. -/
def Csrs.sstatusRead (c : Csrs) : W64 := c.mstatusRead &&& w64 (sstatusBits + 0x8000000300000000)

/-- A write of mstatus through some bits: MPP takes only the numbers of modes. -/
def Csrs.mstatusWrite (c : Csrs) (mask : Nat) (v : W64) : Csrs :=
  let mask := if bitsOf v.toNat 12 11 = 2 then mask &&& (mstatusBits - 0x1800) else mask
  { c with mstatus := csrMask mask c.mstatus v }

/-- The floating-point unit is on: FS is not Off. -/
def Csrs.fsOn (c : Csrs) : Bool := bitsOf c.mstatus.toNat 14 13 != 0

/-- FS becomes Dirty. -/
def Csrs.dirty (c : Csrs) : Csrs := { c with mstatus := w64 (setBits c.mstatus.toNat 14 13 3) }

/-- Whether a mode reads a counter (number 0 to 31): M mode always, S mode by mcounteren, U mode by scounteren too. -/
def Hart.counts (h : Hart) (k : Nat) : Bool :=
  h.mode == .m || (h.csr.mcounteren.getLsbD k && (h.mode == .s || h.csr.scounteren.getLsbD k))

/-- A CSR of the cited architecture as it reads: none for one that the hart has not. `pend` are the pending interrupts, `id`
is mhartid, and `n` an open value for the counter of time (log entry 23). -/
def Hart.readCsr (h : Hart) (pend id n num : Nat) : Option W64 :=
  let c := h.csr
  match num with
  | 0x001 => if c.fsOn then some (c.fcsr.setWidth 64 &&& 0x1F) else none
  | 0x002 => if c.fsOn then some (c.fcsr.setWidth 64 >>> 5) else none
  | 0x003 => if c.fsOn then some (c.fcsr.setWidth 64) else none
  | 0x100 => some c.sstatusRead
  | 0x104 => some (c.mie &&& c.mideleg)
  | 0x105 => some c.stvec
  | 0x106 => some (c.scounteren.setWidth 64)
  | 0x10A => some 0
  | 0x140 => some c.sscratch
  | 0x141 => some c.sepc
  | 0x142 => some c.scause
  | 0x143 => some c.stval
  | 0x144 => some (w64 pend &&& c.mideleg)
  | 0x180 => if h.mode = .s && c.mstatus.getLsbD 20 then none else some c.satp
  | 0x300 => some c.mstatusRead
  | 0x301 => some 0x800000000014112D
  | 0x302 => some c.medeleg
  | 0x303 => some c.mideleg
  | 0x304 => some c.mie
  | 0x305 => some c.mtvec
  | 0x306 => some (c.mcounteren.setWidth 64)
  | 0x30A => some 0x4000000000000000
  | 0x320 => some 0
  | 0x340 => some c.mscratch
  | 0x341 => some c.mepc
  | 0x342 => some c.mcause
  | 0x343 => some c.mtval
  | 0x344 => some (w64 pend)
  | 0xF11 => some 0
  | 0xF12 => some 0
  | 0xF13 => some 0
  | 0xF14 => some (w64 id)
  | 0xF15 => some 0
  | _ =>
    if 0xC00 ≤ num && num < 0xC20 then
      if h.counts (num - 0xC00) then
        some (if num = 0xC00 then c.mcycle else if num = 0xC01 then w64 n else if num = 0xC02 then c.minstret else 0)
      else none
    else if num = 0xB00 then some c.mcycle
    else if num = 0xB02 then some c.minstret
    else if 0xB03 ≤ num && num < 0xB20 then some 0
    else if 0x323 ≤ num && num < 0x340 then some 0
    else if 0x3A0 ≤ num && num < 0x3B0 && num % 2 = 0 then some 0
    else if 0x3B0 ≤ num && num < 0x3F0 then some 0
    else none

/-- A write of a CSR of the cited architecture, through the bits that it has; a read-only one and one of constant value keep
theirs. The instruction that writes minstret does not count in it. -/
def Csrs.write (c : Csrs) (num : Nat) (v : W64) : Csrs :=
  match num with
  | 0x001 => { c with fcsr := (c.fcsr &&& 0xE0) ||| (v.setWidth 8 &&& 0x1F) }.dirty
  | 0x002 => { c with fcsr := (c.fcsr &&& 0x1F) ||| (v.setWidth 8 <<< 5) }.dirty
  | 0x003 => { c with fcsr := v.setWidth 8 }.dirty
  | 0x100 => c.mstatusWrite sstatusBits v
  | 0x104 => { c with mie := csrMask (c.mideleg.toNat &&& mieBits) c.mie v }
  | 0x105 => { c with stvec := v &&& ~~~2 }
  | 0x106 => { c with scounteren := v.setWidth 32 }
  | 0x140 => { c with sscratch := v }
  | 0x141 => { c with sepc := v &&& ~~~1 }
  | 0x142 => { c with scause := v }
  | 0x143 => { c with stval := v }
  | 0x144 => { c with mip := csrMask (c.mideleg.toNat &&& 2) c.mip v }
  -- satp: Bare, or Sv57; a write of another mode has no effect
  | 0x180 => if [0, 10].contains (v.toNat / 2 ^ 60) then { c with satp := v } else c
  | 0x300 => c.mstatusWrite mstatusBits v
  | 0x302 => { c with medeleg := csrMask medelegBits c.medeleg v }
  | 0x303 => { c with mideleg := csrMask 0x222 c.mideleg v }
  | 0x304 => { c with mie := csrMask mieBits c.mie v }
  | 0x305 => { c with mtvec := v &&& ~~~2 }
  | 0x306 => { c with mcounteren := v.setWidth 32 }
  | 0x340 => { c with mscratch := v }
  | 0x341 => { c with mepc := v &&& ~~~1 }
  | 0x342 => { c with mcause := v }
  | 0x343 => { c with mtval := v }
  | 0x344 => { c with mip := csrMask 0x222 c.mip v }
  | 0xB00 => { c with mcycle := v }
  | 0xB02 => { c with minstret := v - 1 }
  | _ => c

/-- The Siresha CSRs (R247). -/
def isSiresha (num : Nat) : Bool := 0x5C0 ≤ num && num < 0x600

/-- What a CSR instruction does to its CSR: it may be only read, or written with a function of its old value. -/
structure CsrOp where
  num : Nat
  reads : Bool
  write : Option (W64 → W64)

/-- A CSR instruction (R247, R250): the old value and the state, or none where it is an illegal instruction: a CSR that the
hart has not or its mode may not reach, or a write of one whose number is read-only. An access of CSDATA steps CSIDX once
(R250, DEDUCED, log entry 23). Since the last access of a CSR of the architecture an open number of cycles has passed. -/
def State.csrOp (s : State) (cx : Hcx) (o : CsrOp) : Option (W64 × State) :=
  if cx.h.mode.code < bitsOf o.num 9 8 || (o.write.isSome && bitsOf o.num 11 10 = 3) then none
  else
    match isSiresha o.num, cx.bench with
    | true, none => none
    | true, some b =>
      match (s.bench b).readCsr o.num with
      | none => none
      | some old =>
        let s := match o.write with
          | some f => s.writeCsr b o.num (f (w64 old))
          | none => if o.num = 0x5D7 && o.reads then
              s.modBench b fun x => { x with csr := { x.csr with csidx := (x.csr.csidx + 1) % 4096 } } else s
        some (w64 old, s)
    | false, _ =>
      let (n, s) := s.fresh
      let id := match cx.bench, cx.host with
        | some b, _ => b
        | none, some h => 0x100 + h
        | none, none => 0
      let tick (h : Hart) : Hart := { h with csr := { h.csr with mcycle := h.csr.mcycle + w64 (n / 2 ^ 64 % 2 ^ 32) } }
      let s := s.modHart cx.at_ tick
      match (tick cx.h).readCsr (s.pendingInts cx) id n o.num with
      | none => none
      | some old =>
        some (old, match o.write with
          | some f => s.modHart cx.at_ fun h => { h with csr := h.csr.write o.num (f old) }
          | none => s)

end Sys2Proof.Machine
end

