-- ==== Sys2Proof/Machine/RvExpand.lean ====
section
/-! DEFINITION. The 16-bit words of RV64GC (R2, R247; the C extension of the cited RISC-V architecture): each is the 32-bit
word that it stands for. -/

namespace Sys2Proof.Machine

open Sys2Proof

/-- An I-type word. -/
def rvI (op rd f3 rs1 imm : Nat) : Nat := op + rd * 2 ^ 7 + f3 * 2 ^ 12 + rs1 * 2 ^ 15 + imm % 4096 * 2 ^ 20

/-- An R-type word. -/
def rvR (op rd f3 rs1 rs2 f7 : Nat) : Nat := op + rd * 2 ^ 7 + f3 * 2 ^ 12 + rs1 * 2 ^ 15 + rs2 * 2 ^ 20 + f7 * 2 ^ 25

/-- An S-type word. -/
def rvS (op f3 rs1 rs2 imm : Nat) : Nat :=
  op + imm % 32 * 2 ^ 7 + f3 * 2 ^ 12 + rs1 * 2 ^ 15 + rs2 * 2 ^ 20 + imm / 32 % 128 * 2 ^ 25

/-- A B-type word. -/
def rvB (f3 rs1 rs2 imm : Nat) : Nat :=
  0x63 + bitsOf imm 11 11 * 2 ^ 7 + bitsOf imm 4 1 * 2 ^ 8 + f3 * 2 ^ 12 + rs1 * 2 ^ 15 + rs2 * 2 ^ 20
    + bitsOf imm 10 5 * 2 ^ 25 + bitsOf imm 12 12 * 2 ^ 31

/-- A J-type word. -/
def rvJ (rd imm : Nat) : Nat :=
  0x6F + rd * 2 ^ 7 + bitsOf imm 19 12 * 2 ^ 12 + bitsOf imm 11 11 * 2 ^ 20 + bitsOf imm 10 1 * 2 ^ 21
    + bitsOf imm 20 20 * 2 ^ 31

/-- A field of `k` bits sign-extended to 32 bits. -/
def rvSext (k v : Nat) : Nat := if bitOf v (k - 1) then 2 ^ 32 - 2 ^ k + v % 2 ^ k else v % 2 ^ k

/-- The immediate of the 6-bit CI forms. -/
def rvImm6 (c : Nat) : Nat := bitsOf c 12 12 * 32 + bitsOf c 6 2

/-- The 32-bit word of a quadrant-0 word: loads and stores on the short registers, and C.ADDI4SPN. -/
def rvQuad0 (c : Nat) : Option Nat :=
  let rd := 8 + bitsOf c 4 2
  let rs1 := 8 + bitsOf c 9 7
  let immD := bitsOf c 12 10 * 8 + bitsOf c 6 5 * 64
  let immW := bitsOf c 12 10 * 8 + bitsOf c 6 6 * 4 + bitsOf c 5 5 * 64
  match bitsOf c 15 13 with
  | 0 =>
    let n := bitsOf c 12 11 * 16 + bitsOf c 10 7 * 64 + bitsOf c 6 6 * 4 + bitsOf c 5 5 * 8
    if n = 0 then none else some (rvI 0x13 rd 0 2 n)
  | 1 => some (rvI 0x07 rd 3 rs1 immD)
  | 2 => some (rvI 0x03 rd 2 rs1 immW)
  | 3 => some (rvI 0x03 rd 3 rs1 immD)
  | 5 => some (rvS 0x27 3 rs1 rd immD)
  | 6 => some (rvS 0x23 2 rs1 rd immW)
  | 7 => some (rvS 0x23 3 rs1 rd immD)
  | _ => none

/-- The 32-bit word of a quadrant-1 word: immediates, arithmetic on the short registers, and branches. -/
def rvQuad1 (c : Nat) : Option Nat :=
  let rd := bitsOf c 11 7
  let rs := 8 + bitsOf c 9 7
  let rt := 8 + bitsOf c 4 2
  let i6 := rvSext 6 (rvImm6 c)
  let br := rvSext 9 (bitsOf c 12 12 * 256 + bitsOf c 11 10 * 8 + bitsOf c 6 5 * 64 + bitsOf c 4 3 * 2 + bitsOf c 2 2 * 32)
  match bitsOf c 15 13 with
  | 0 => some (rvI 0x13 rd 0 rd i6)
  | 1 => if rd = 0 then none else some (rvI 0x1B rd 0 rd i6)
  | 2 => some (rvI 0x13 rd 0 0 i6)
  | 3 =>
    if rd = 2 then
      let n := bitsOf c 12 12 * 512 + bitsOf c 6 6 * 16 + bitsOf c 5 5 * 64 + bitsOf c 4 3 * 128 + bitsOf c 2 2 * 32
      if n = 0 then none else some (rvI 0x13 2 0 2 (rvSext 10 n))
    else if rvImm6 c = 0 then none
    else some (0x37 + rd * 2 ^ 7 + i6 % 2 ^ 20 * 2 ^ 12)
  | 4 =>
    match bitsOf c 11 10 with
    | 0 => some (rvI 0x13 rs 5 rs (rvImm6 c))
    | 1 => some (rvI 0x13 rs 5 rs (0x400 + rvImm6 c))
    | 2 => some (rvI 0x13 rs 7 rs i6)
    | _ =>
      match bitsOf c 12 12, bitsOf c 6 5 with
      | 0, 0 => some (rvR 0x33 rs 0 rs rt 0x20)
      | 0, 1 => some (rvR 0x33 rs 4 rs rt 0)
      | 0, 2 => some (rvR 0x33 rs 6 rs rt 0)
      | 0, _ => some (rvR 0x33 rs 7 rs rt 0)
      | _, 0 => some (rvR 0x3B rs 0 rs rt 0x20)
      | _, 1 => some (rvR 0x3B rs 0 rs rt 0)
      | _, _ => none
  | 5 =>
    let n := bitsOf c 12 12 * 2048 + bitsOf c 11 11 * 16 + bitsOf c 10 9 * 256 + bitsOf c 8 8 * 1024 + bitsOf c 7 7 * 64
      + bitsOf c 6 6 * 128 + bitsOf c 5 3 * 2 + bitsOf c 2 2 * 32
    some (rvJ 0 (rvSext 12 n))
  | 6 => some (rvB 0 rs 0 br)
  | _ => some (rvB 1 rs 0 br)

/-- The 32-bit word of a quadrant-2 word: accesses by the stack pointer, moves and register jumps. -/
def rvQuad2 (c : Nat) : Option Nat :=
  let rd := bitsOf c 11 7
  let rt := bitsOf c 6 2
  let ldD := bitsOf c 12 12 * 32 + bitsOf c 6 5 * 8 + bitsOf c 4 2 * 64
  let ldW := bitsOf c 12 12 * 32 + bitsOf c 6 4 * 4 + bitsOf c 3 2 * 64
  let stD := bitsOf c 12 10 * 8 + bitsOf c 9 7 * 64
  let stW := bitsOf c 12 9 * 4 + bitsOf c 8 7 * 64
  match bitsOf c 15 13 with
  | 0 => some (rvI 0x13 rd 1 rd (rvImm6 c))
  | 1 => some (rvI 0x07 rd 3 2 ldD)
  | 2 => if rd = 0 then none else some (rvI 0x03 rd 2 2 ldW)
  | 3 => if rd = 0 then none else some (rvI 0x03 rd 3 2 ldD)
  | 4 =>
    if bitOf c 12 then
      if rt != 0 then some (rvR 0x33 rd 0 rd rt 0)
      else if rd != 0 then some (rvI 0x67 1 0 rd 0)
      else some 0x00100073
    else if rt != 0 then some (rvR 0x33 rd 0 0 rt 0)
    else if rd != 0 then some (rvI 0x67 0 0 rd 0)
    else none
  | 5 => some (rvS 0x27 3 2 rt stD)
  | 6 => some (rvS 0x23 2 2 rt stW)
  | _ => some (rvS 0x23 3 2 rt stD)

/-- The 32-bit word that a hart's word stands for, and its length in bytes: none for a 16-bit word that is reserved. -/
def rvExpand (w : Nat) : Option (Nat × Nat) :=
  match w % 4 with
  | 0 => (rvQuad0 w).map fun x => (x, 2)
  | 1 => (rvQuad1 w).map fun x => (x, 2)
  | 2 => (rvQuad2 w).map fun x => (x, 2)
  | _ => some (w, 4)

end Sys2Proof.Machine
end

