-- ==== Sys2Proof/Machine/RiscV.lean ====
section
/-! DEFINITION. The RV64GC instructions of control cores and host cores (R2, R146, R247; the cited RISC-V architecture,
PRESUMED, log entry 23): what their base words do, beside the X instructions of the opcode table. -/

namespace Sys2Proof.Machine

open Sys2Proof

/-- What a base instruction comes to. -/
inductive RvRes where
  /-- It completes: the state, and the hart with pc past the instruction changed. -/
  | go (s : State) (f : Hart → Hart)
  /-- It waits for another package. -/
  | stay (s : State)
  /-- It raises an exception and has no effect. -/
  | raise (e : Exc)

/-- A register written with a value. -/
def RvRes.put (s : State) (rd : Nat) (v : W64) : RvRes := .go s fun h => h.set rd v

/-- An illegal-instruction exception of a hart. -/
def Hcx.bad (cx : Hcx) : RvRes := .raise ⟨excIllegal, cx.h.pc.toNat, 0⟩

/-- A result, or an illegal-instruction exception where there is none. -/
def Hcx.result (cx : Hcx) (s : State) (rd : Nat) (v : Option W64) : RvRes :=
  match v with
  | some v => .put s rd v
  | none => cx.bad

/-! ## Fields -/

/-- rd. -/
def rvRd (w : Nat) : Nat := bitsOf w 11 7
/-- rs1. -/
def rvRs1 (w : Nat) : Nat := bitsOf w 19 15
/-- rs2. -/
def rvRs2 (w : Nat) : Nat := bitsOf w 24 20
/-- funct3. -/
def rvF3 (w : Nat) : Nat := bitsOf w 14 12
/-- funct7. -/
def rvF7 (w : Nat) : Nat := bitsOf w 31 25
/-- The immediate of an I-type word. -/
def rvImmI (w : Nat) : W64 := BitVec.ofInt 64 (sext 12 (bitsOf w 31 20))
/-- The immediate of an S-type word. -/
def rvImmS (w : Nat) : W64 := BitVec.ofInt 64 (sext 12 (bitsOf w 31 25 * 32 + bitsOf w 11 7))
/-- The offset of a B-type word. -/
def rvImmB (w : Nat) : W64 :=
  BitVec.ofInt 64 (sext 13 (bitsOf w 31 31 * 4096 + bitsOf w 7 7 * 2048 + bitsOf w 30 25 * 32 + bitsOf w 11 8 * 2))
/-- The immediate of a U-type word. -/
def rvImmU (w : Nat) : W64 := BitVec.ofInt 64 (sext 32 (bitsOf w 31 12 * 4096))
/-- The offset of a J-type word. -/
def rvImmJ (w : Nat) : W64 :=
  BitVec.ofInt 64 (sext 21 (bitsOf w 31 31 * 2 ^ 20 + bitsOf w 19 12 * 4096 + bitsOf w 20 20 * 2048 + bitsOf w 30 21 * 2))

/-! ## Integer arithmetic -/

/-- Division and remainder of the M extension: by zero −1 and the dividend; on overflow the dividend and 0. -/
def rvDiv {n : Nat} (f3 : Nat) (a b : BitVec n) : BitVec n :=
  match f3 with
  | 4 => if b = 0 then -1 else a.sdiv b
  | 5 => if b = 0 then -1 else a / b
  | 6 => if b = 0 then a else a.srem b
  | _ => if b = 0 then a else a % b

/-- The operations on whole registers, by funct7 and funct3. -/
def rvAlu (f7 f3 : Nat) (a b : W64) : Option W64 :=
  let sh := b.toNat % 64
  match f7, f3 with
  | 0, 0 => some (a + b)
  | 0x20, 0 => some (a - b)
  | 0, 1 => some (a <<< sh)
  | 0, 2 => some (if a.toInt < b.toInt then 1 else 0)
  | 0, 3 => some (if a.toNat < b.toNat then 1 else 0)
  | 0, 4 => some (a ^^^ b)
  | 0, 5 => some (a >>> sh)
  | 0x20, 5 => some (a.sshiftRight sh)
  | 0, 6 => some (a ||| b)
  | 0, 7 => some (a &&& b)
  | 1, 0 => some (a * b)
  | 1, 1 => some (BitVec.ofInt 64 (a.toInt * b.toInt / 2 ^ 64))
  | 1, 2 => some (BitVec.ofInt 64 (a.toInt * b.toNat / 2 ^ 64))
  | 1, 3 => some (BitVec.ofNat 64 (a.toNat * b.toNat / 2 ^ 64))
  | 1, f => some (rvDiv f a b)
  | _, _ => none

/-- The operations on words, sign-extended, by funct7 and funct3. -/
def rvAluW (f7 f3 : Nat) (x y : W64) : Option W64 :=
  let a : W32 := x.setWidth 32
  let b : W32 := y.setWidth 32
  let sh := b.toNat % 32
  let r : Option W32 := match f7, f3 with
    | 0, 0 => some (a + b)
    | 0x20, 0 => some (a - b)
    | 0, 1 => some (a <<< sh)
    | 0, 5 => some (a >>> sh)
    | 0x20, 5 => some (a.sshiftRight sh)
    | 1, 0 => some (a * b)
    | 1, 4 => some (rvDiv 4 a b)
    | 1, 5 => some (rvDiv 5 a b)
    | 1, 6 => some (rvDiv 6 a b)
    | 1, 7 => some (rvDiv 7 a b)
    | _, _ => none
  r.map fun v => v.signExtend 64

/-- Operations with an immediate on whole registers: the shifts have a six-bit amount. -/
def rvAluImm (w : Nat) (a : W64) : Option W64 :=
  match rvF3 w with
  | 1 => if bitsOf w 31 26 = 0 then rvAlu 0 1 a (rvImmI w) else none
  | 5 => if bitsOf w 31 26 = 0 then rvAlu 0 5 a (rvImmI w)
         else if bitsOf w 31 26 = 0x10 then rvAlu 0x20 5 a (rvImmI w) else none
  | f3 => rvAlu 0 f3 a (rvImmI w)

/-- Operations with an immediate on words. -/
def rvAluImmW (w : Nat) (a : W64) : Option W64 :=
  match rvF3 w with
  | 0 => rvAluW 0 0 a (rvImmI w)
  | 1 => if rvF7 w = 0 then rvAluW 0 1 a (rvImmI w) else none
  | 5 => if rvF7 w = 0 || rvF7 w = 0x20 then rvAluW (rvF7 w) 5 a (rvImmI w) else none
  | _ => none

/-- Whether a branch is taken: none for a funct3 that is no branch. -/
def rvTaken (f3 : Nat) (a b : W64) : Option Bool :=
  match f3 with
  | 0 => some (a == b)
  | 1 => some (a != b)
  | 4 => some (decide (a.toInt < b.toInt))
  | 5 => some (decide (b.toInt ≤ a.toInt))
  | 6 => some (decide (a.toNat < b.toNat))
  | 7 => some (decide (b.toNat ≤ a.toNat))
  | _ => none

/-! ## Memory (R146, R247) -/

/-- A load of `n` bytes: misaligned it raises; strong relaxed at SYSTEM scope. -/
def State.rvLoad (s : State) (cx : Hcx) (va n : Nat) (use : Nat → Hart → Hart) : RvRes :=
  if va % n != 0 then .raise ⟨excLoadAlign, va, 0⟩
  else
    match s.hartRead cx (cx.mu s) va n with
    | .error e => .raise e
    | .ok (bs, m) => if m.waits then .stay (m.send s) else .go (m.s.dropRemotes cx.who) (use (leNat bs))

/-- A store of `n` bytes: misaligned it raises; strong relaxed at SYSTEM scope. -/
def State.rvStore (s : State) (cx : Hcx) (va n v : Nat) : RvRes :=
  if va % n != 0 then .raise ⟨excStoreAlign, va, 0⟩
  else
    match s.hartWrite cx (cx.mu s) va (leBytes n v) with
    | .error e => .raise e
    | .ok m => if m.waits then .stay (m.send s) else .go (m.s.dropRemotes cx.who) id

/-- An integer load, by funct3. -/
def State.rvLoadX (s : State) (cx : Hcx) (rd f3 va : Nat) : RvRes :=
  if f3 = 7 then cx.bad
  else
    let n := 2 ^ (f3 % 4)
    s.rvLoad cx va n fun v h => h.set rd (if f3 < 4 then BitVec.ofInt 64 (sext (8 * n) v) else w64 v)

/-- Release(SYSTEM) and Acquire(SYSTEM) of a hart (R146): those of its bench; a host core has no L1. -/
def State.hartRelease (s : State) (cx : Hcx) : State :=
  match cx.bench with
  | some b => s.release b 6
  | none => s

/-- Acquire(SYSTEM) of a hart (R146). -/
def State.hartAcquireSys (s : State) (cx : Hcx) : State :=
  match cx.bench with
  | some b => s.acquire b 6
  | none => s

/-- The place of an LR, SC or AMO is local memory that holds atomics (R156). -/
def Place.holdsAtomics (p : Place) : Bool :=
  match p with
  | .lpddr _ => true
  | .vault _ => true
  | .view _ => true
  | _ => false

/-- The value that a load of an atomic leaves in rd: words are sign-extended. -/
def rvExt (n v : Nat) : W64 := BitVec.ofInt 64 (sext (8 * n) v)

/-- LR: the sector of its address is reserved. It reaches local memory that holds atomics alone. -/
def State.rvLr (s : State) (cx : Hcx) (rd va n : Nat) (aq : Bool) : RvRes :=
  if va % n != 0 then .raise ⟨excLoadAlign, va, 0⟩
  else
    match s.hartPieces cx va n .read with
    | .error e => .raise e
    | .ok (ps, s1) =>
      match ps with
      | [p] =>
        if !(s.place p.pa).holdsAtomics then .raise ⟨excLoadAccess, va, 0⟩
        else
          match s1.pointRead cx.die p.pa n with
          | .error r => .raise ⟨excLoadAccess, va, r.cause⟩
          | .ok (bs, s2) =>
            let s2 := { s2 with resv := (cx.who, p.pa % 2 ^ 44 / 64) :: s2.resv.filter fun r => r.1 != cx.who }
            .put (if aq then s2.hartAcquireSys cx else s2) rd (rvExt n (leNat bs))
      | _ => .raise ⟨excLoadAccess, va, 0⟩

/-- SC: it stores and writes 0 while its sector is reserved, else it writes 1; the reservation ends. -/
def State.rvSc (s : State) (cx : Hcx) (rd va n v : Nat) (aq rl : Bool) : RvRes :=
  if va % n != 0 then .raise ⟨excStoreAlign, va, 0⟩
  else
    match s.hartPieces cx va n .write with
    | .error e => .raise e
    | .ok (ps, s1) =>
      match ps with
      | [p] =>
        if !(s.place p.pa).holdsAtomics then .raise ⟨excStoreAccess, va, 0⟩
        else
          let held := s.resv.contains (cx.who, p.pa % 2 ^ 44 / 64)
          let s1 := { s1 with resv := s1.resv.filter fun r => r.1 != cx.who }
          if !held then .put s1 rd 1
          else
            match (if rl then s1.hartRelease cx else s1).pointWrite cx.die p.pa (leBytes n v) with
            | .error r => .raise ⟨excStoreAccess, va, r.cause⟩
            | .ok s2 => .put (if aq then s2.hartAcquireSys cx else s2) rd 0
      | _ => .raise ⟨excStoreAccess, va, 0⟩

/-- The operation of R157 that an AMO is, by funct5. -/
def rvAmoOp (f5 : Nat) : Option Nat :=
  match f5 with
  | 0x00 => some 2
  | 0x01 => some 0
  | 0x04 => some 5
  | 0x08 => some 4
  | 0x0C => some 3
  | 0x10 => some 6
  | 0x14 => some 7
  | 0x18 => some 8
  | 0x1C => some 9
  | _ => none

/-- An AMO: one indivisible atomic at its point (R146, R156), on another package by an AT flit (R269). -/
def State.rvAmo (s : State) (cx : Hcx) (rd op va n b : Nat) (aq rl : Bool) : RvRes :=
  if va % n != 0 then .raise ⟨excStoreAlign, va, 0⟩
  else
    let done (s : State) (x : Nat) : RvRes := .put (if aq then s.hartAcquireSys cx else s) rd (rvExt n x)
    match s.hartPieces cx va n .atomic with
    | .error e => .raise e
    | .ok (ps, s1) =>
      let s1 := if rl then s1.hartRelease cx else s1
      match ps with
      | [p] =>
        match s.place p.pa with
        | .remote pkg =>
          match (cx.mu s1).request pkg va [] (requestFlit flitAT 0 0 0 n op (if n = 8 then 1 else 0) p.pa (leBytes n b)) with
          | .error r => .raise ⟨excStoreAccess, va, r.cause⟩
          | .ok (bs, m) => if m.waits then .stay (m.send s1) else done (m.s.dropRemotes cx.who) (leNat bs)
        | k =>
          if !k.holdsAtomics then .raise ⟨excStoreAccess, va, 0⟩
          else
            match s1.reachAll cx.die p.pa n with
            | some c => .raise ⟨excStoreAccess, va, c⟩
            | none =>
              let ks := sectorsOf (p.pa % 2 ^ 44) n
              let t := s1.fillViews p.pa ks
              match t.readPoison (p.pa % 2 ^ 44) n with
              | some r => .raise ⟨excStoreAccess, va, (s1.fillRaise t ks r).cause⟩
              | none => let (x, s2) := t.atomAt p.pa n op b 0; done s2 x
      | _ => .raise ⟨excStoreAccess, va, 0⟩

/-- The AMO opcode: LR, SC and the AMOs of words and doublewords. -/
def State.rvAtomic (s : State) (cx : Hcx) (w : Nat) : RvRes :=
  let f5 := bitsOf w 31 27
  let va := (cx.h.get (rvRs1 w)).toNat
  let n := if rvF3 w = 3 then 8 else 4
  let v := (cx.h.get (rvRs2 w)).toNat % 2 ^ (8 * n)
  let aq := bitOf w 26
  let rl := bitOf w 25
  if rvF3 w != 2 && rvF3 w != 3 then cx.bad
  else if f5 = 2 then (if rvRs2 w = 0 then (if rl then s.hartRelease cx else s).rvLr cx (rvRd w) va n aq else cx.bad)
  else if f5 = 3 then s.rvSc cx (rvRd w) va n v aq rl
  else
    match rvAmoOp f5 with
    | some op => s.rvAmo cx (rvRd w) op va n v aq rl
    | none => cx.bad

/-! ## Floating point -/

/-- The flags of the model in the layout of fflags. -/
def rvFlags (fl : FFlags) : BitVec 8 :=
  BitVec.ofNat 8 ((if bitOf fl 0 then 16 else 0) + (if bitOf fl 1 then 8 else 0) + (if bitOf fl 2 then 4 else 0)
    + (if bitOf fl 3 then 2 else 0) + (if bitOf fl 4 then 1 else 0))

/-- The format of an F or D instruction. -/
def rvFmt (dbl : Bool) : Fmt := if dbl then .f64 else .f32

/-- A floating-point register as an operand: a single that is not NaN-boxed is the default NaN. -/
def Hart.getF (h : Hart) (dbl : Bool) (r : Nat) : Nat :=
  let v := (h.f.get r 0).toNat
  if dbl then v else if v / 2 ^ 32 = 2 ^ 32 - 1 then v % 2 ^ 32 else Fmt.f32.defNaN

/-- A floating-point register written, a single NaN-boxed, with the flags that the instruction raises. -/
def Hart.setF (h : Hart) (dbl : Bool) (r v : Nat) (fl : FFlags) : Hart :=
  { h with f := h.f.set r (w64 (if dbl then v else v % 2 ^ 32 + (2 ^ 32 - 1) * 2 ^ 32)),
           csr := { h.csr with fcsr := h.csr.fcsr ||| rvFlags fl }.dirty }

/-- An integer register written by a floating-point instruction, with the flags that it raises. -/
def Hart.setXF (h : Hart) (r : Nat) (v : W64) (fl : FFlags) : Hart :=
  let h := h.set r v
  if fl = 0 then h else { h with csr := { h.csr with fcsr := h.csr.fcsr ||| rvFlags fl }.dirty }

/-- The rounding mode of an instruction: that of frm for 7; none for a reserved one. -/
def Hart.rm (h : Hart) (w : Nat) : Option Nat :=
  let r := if rvF3 w = 7 then h.csr.fcsr.toNat / 32 else rvF3 w
  if r ≤ 4 then some r else none

/-- An element with its sign flipped. -/
def rvNeg (f : Fmt) (x : Nat) : Nat := x ^^^ f.signBit true

/-- The class of FCLASS. -/
def rvClass (f : Fmt) (x : Nat) : Nat :=
  match FVal.decode f x with
  | .nan q => if q then 256 else 512
  | .inf n => if n then 1 else 128
  | .fin n m _ =>
    let sub := bitsOf x (f.ew + f.mw - 1) f.mw = 0
    if m = 0 then (if n then 8 else 16) else if sub then (if n then 4 else 32) else if n then 2 else 64

/-- A value to an integer of a form of FCVT: 0 W, 1 WU, 2 L, 3 LU. A NaN is the largest. -/
def rvToInt (form rm : Nat) (v : FVal) : W64 × FFlags :=
  let w := if form < 2 then 32 else 64
  let lo : Int := if form % 2 = 0 then -(2 ^ (w - 1) : Nat) else 0
  let hi : Int := if form % 2 = 0 then (2 ^ (w - 1) : Nat) - 1 else (2 ^ w : Nat) - 1
  let r := if v.isNaN then (hi, fNV) else convInt lo hi rm v
  (BitVec.ofInt 64 (sext w (wrap w r.1)), r.2)

/-- The integer of a form of FCVT in a register. -/
def rvFromInt (form : Nat) (x : W64) : Int :=
  match form with
  | 0 => sext 32 x.toNat
  | 1 => (x.toNat % 2 ^ 32 : Nat)
  | 2 => x.toInt
  | _ => (x.toNat : Int)

/-- A single or double to a floating-point register. -/
def rvPutF (s : State) (dbl : Bool) (rd : Nat) (r : Nat × FFlags) : RvRes := .go s fun h => h.setF dbl rd r.1 r.2

/-- The OP-FP opcode, by funct7 without its format. -/
def State.rvFloat (s : State) (cx : Hcx) (w : Nat) : RvRes :=
  let h := cx.h
  let dbl := bitOf w 25
  let f := rvFmt dbl
  let rd := rvRd w
  let k := rvRs2 w
  let f3 := rvF3 w
  let x := h.getF dbl (rvRs1 w)
  let y := h.getF dbl k
  let rounded (op : Nat → Nat × FFlags) : RvRes :=
    match h.rm w with
    | some rm => rvPutF s dbl rd (op rm)
    | none => cx.bad
  let raw := (h.f.get (rvRs1 w) 0).toNat
  match bitsOf w 31 26 * 2 with
  | 0x00 => rounded fun rm => faddEl f rm x y
  | 0x04 => rounded fun rm => faddEl f rm x (rvNeg f y)
  | 0x08 => rounded fun rm => fmulEl f rm x y
  | 0x0C => rounded fun rm => fdivEl f rm x y
  | 0x2C => if k = 0 then rounded fun rm => fsqrtEl f rm x else cx.bad
  | 0x10 =>
    let sg := f.signBit true
    let mag := x % sg
    let sx := x / sg % 2
    let sy := y / sg % 2
    match f3 with
    | 0 => rvPutF s dbl rd (mag + sy * sg, 0)
    | 1 => rvPutF s dbl rd (mag + (1 - sy) * sg, 0)
    | 2 => rvPutF s dbl rd (mag + (sx + sy) % 2 * sg, 0)
    | _ => cx.bad
  | 0x14 => if f3 < 2 then rvPutF s dbl rd (fminmaxEl f (f3 == 1) false x y) else cx.bad
  | 0x20 =>
    if k = (if dbl then 0 else 1) then
      rounded fun rm => convFloat f rm false (.decode (rvFmt !dbl) (h.getF (!dbl) (rvRs1 w)))
    else cx.bad
  | 0x50 =>
    let c (n : Nat) : RvRes :=
      let r := floatCond n (.decode f x) (.decode f y)
      .go s fun h => h.setXF rd (if r.1 then 1 else 0) r.2
    match f3 with
    | 0 => c 3
    | 1 => c 2
    | 2 => c 0
    | _ => cx.bad
  | 0x60 =>
    match h.rm w with
    | some rm => if k < 4 then let r := rvToInt k rm (.decode f x); .go s fun h => h.setXF rd r.1 r.2 else cx.bad
    | none => cx.bad
  | 0x68 => if k < 4 then rounded fun rm => convFloat f rm false (.ofInt (rvFromInt k (h.get (rvRs1 w)))) else cx.bad
  | 0x70 =>
    if k != 0 then cx.bad
    else if f3 = 0 then .put s rd (if dbl then w64 raw else BitVec.ofInt 64 (sext 32 raw))
    else if f3 = 1 then .put s rd (w64 (rvClass f x))
    else cx.bad
  | 0x78 => if k = 0 && f3 = 0 then rvPutF s dbl rd ((h.get (rvRs1 w)).toNat, 0) else cx.bad
  | _ => cx.bad

/-- The fused multiply-add opcodes: the product and the addend with their signs as `np` and `nc` say. -/
def State.rvFma (s : State) (cx : Hcx) (w : Nat) (np nc : Bool) : RvRes :=
  let dbl := bitsOf w 26 25 == 1
  let f := rvFmt dbl
  let get (r : Nat) (neg : Bool) : Nat := if neg then rvNeg f (cx.h.getF dbl r) else cx.h.getF dbl r
  match cx.h.rm w with
  | some rm =>
    if 1 < bitsOf w 26 25 then cx.bad
    else rvPutF s dbl (rvRd w) (ffmaEl f rm (get (rvRs1 w) np) (get (rvRs2 w) false) (get (bitsOf w 31 27) nc))
  | none => cx.bad

/-! ## System -/

/-- SFENCE.VMA: the hart's cached translations of an address, an address space, or all; a global one stays where an address
space is named. -/
def State.rvSfence (s : State) (cx : Hcx) (w : Nat) : State :=
  let va := (cx.h.get (rvRs1 w)).toNat % 2 ^ 57 / 4096
  let asid := (cx.h.get (rvRs2 w)).toNat % 2 ^ 16
  let hit (e : TlbEntry) : Bool :=
    (rvRs1 w == 0 || (e.vpn ≤ va && va < e.vpn + e.pages)) && (rvRs2 w == 0 || (e.asid == asid && !e.pte.getLsbD 5))
  { s with tlbs := s.tlbs.filter fun p => !(p.1 == cx.tlb && hit p.2) }

/-- A CSR instruction: funct3 gives the form; an immediate form takes its rs1 field as the operand. -/
def State.rvCsr (s : State) (cx : Hcx) (w : Nat) : RvRes :=
  let src : W64 := if bitOf w 14 then w64 (rvRs1 w) else cx.h.get (rvRs1 w)
  let none_ := rvRs1 w == 0
  let o : CsrOp :=
    { num := bitsOf w 31 20, reads := rvF3 w % 4 != 1 || rvRd w != 0,
      write := match rvF3 w % 4 with
        | 1 => some fun _ => src
        | 2 => if none_ then none else some fun old => old ||| src
        | _ => if none_ then none else some fun old => old &&& ~~~src }
  match s.csrOp cx o with
  | some (old, s) => .put s (rvRd w) old
  | none => cx.bad

/-- The SYSTEM opcode: ECALL, EBREAK, SRET, MRET, WFI — which does nothing, as the architecture allows —, SFENCE.VMA and the
CSR instructions. -/
def State.rvSystem (s : State) (cx : Hcx) (w : Nat) : RvRes :=
  let h := cx.h
  let st := h.csr.mstatus
  if rvF3 w = 4 then cx.bad
  else if rvF3 w != 0 then s.rvCsr cx w
  else if w = 0x00000073 then .raise { code := 8 + h.mode.code, tval := 0 }
  else if w = 0x00100073 then .raise { code := 3, tval := h.pc.toNat }
  else if w = 0x10200073 then
    if h.mode = .u || (h.mode = .s && st.getLsbD 22) then cx.bad else .go s Hart.sret
  else if w = 0x30200073 then (if h.mode = .m then .go s Hart.mret else cx.bad)
  else if w = 0x10500073 then .go s id
  else if rvF7 w = 9 && rvRd w = 0 then
    if h.mode = .u || (h.mode = .s && st.getLsbD 20) then cx.bad else .go (s.rvSfence cx w) id
  else cx.bad

/-- FENCE (R146): with every earlier and every later access in its sets it is FENCE.SC.SYSTEM; the accesses of a hart are
performed as they issue, so a lesser one has nothing to wait for. FENCE.I has none either: words are fetched from their
point. -/
def State.rvFence (s : State) (cx : Hcx) (w : Nat) : RvRes :=
  match rvF3 w with
  | 0 =>
    let both := bitsOf w 27 24 &&& bitsOf w 23 20 &&& 3
    .go (match cx.bench with
      | some b => if both = 3 then s.fence b 3 6 else s
      | none => s) id
  | 1 => .go s id
  | _ => cx.bad

/-! ## One base instruction -/

/-- What a 32-bit base word does in a hart; `next` is the address of the word after it. -/
def State.rvExec (s : State) (cx : Hcx) (w : Nat) (next : W64) : RvRes :=
  let h := cx.h
  let rd := rvRd w
  let a := h.get (rvRs1 w)
  let b := h.get (rvRs2 w)
  let f3 := rvF3 w
  let fp (r : RvRes) : RvRes := if h.csr.fsOn then r else cx.bad
  match w % 128 with
  | 0x37 => .put s rd (rvImmU w)
  | 0x17 => .put s rd (h.pc + rvImmU w)
  | 0x6F => .go s fun h' => { h'.set rd next with pc := h.pc + rvImmJ w }
  | 0x67 => if f3 = 0 then .go s fun h' => { h'.set rd next with pc := (a + rvImmI w) &&& ~~~1 } else cx.bad
  | 0x63 =>
    match rvTaken f3 a b with
    | some t => .go s fun h' => if t then { h' with pc := h.pc + rvImmB w } else h'
    | none => cx.bad
  | 0x03 => s.rvLoadX cx rd f3 (a + rvImmI w).toNat
  | 0x23 => if f3 < 4 then s.rvStore cx (a + rvImmS w).toNat (2 ^ f3) b.toNat else cx.bad
  | 0x13 => cx.result s rd (rvAluImm w a)
  | 0x1B => cx.result s rd (rvAluImmW w a)
  | 0x33 => cx.result s rd (rvAlu (rvF7 w) f3 a b)
  | 0x3B => cx.result s rd (rvAluW (rvF7 w) f3 a b)
  | 0x0F => s.rvFence cx w
  | 0x2F => s.rvAtomic cx w
  | 0x73 => s.rvSystem cx w
  | 0x07 => fp (if f3 = 2 || f3 = 3 then
      s.rvLoad cx (a + rvImmI w).toNat (2 ^ f3) fun v h' => h'.setF (f3 == 3) rd v 0 else cx.bad)
  | 0x27 => fp (if f3 = 2 || f3 = 3 then
      s.rvStore cx (a + rvImmS w).toNat (2 ^ f3) (h.f.get (rvRs2 w) 0).toNat else cx.bad)
  | 0x43 => fp (s.rvFma cx w false false)
  | 0x47 => fp (s.rvFma cx w false true)
  | 0x4B => fp (s.rvFma cx w true false)
  | 0x4F => fp (s.rvFma cx w true true)
  | 0x53 => fp (if bitsOf w 26 26 = 0 then s.rvFloat cx w else cx.bad)
  | _ => cx.bad

/-- A hart executes a base word of RV64GC: it completes, waits for another package, or takes an exception. -/
def State.runBase (s : State) (cx : Hcx) (w : W32) : State :=
  match rvExpand w.toNat with
  | none => s.hartExc cx (w64 excIllegal) cx.h.pc.toNat
  | some (x, len) =>
    let next := cx.h.pc + w64 len
    match s.rvExec cx x next with
    | .go s f => s.modHart cx.at_ fun h => f { h.retired with pc := next }
    | .stay s => s
    | .raise e => s.hartRaise cx e

end Sys2Proof.Machine
end

