-- ==== Sys2Proof/Machine/Turns.lean ====
section
/-! DEFINITION. What a turn does before its instruction: the fragment that a quarter issues (R31, R32) and its fetch (R304),
the command that a ring's engine works or issues (R37 to R43), the word at a hart's pc with interrupt 24 (R253), a device
step, and the passing of a clock cycle. -/

namespace Sys2Proof.Machine

open Sys2Proof

/-- What a turn comes to: an instruction of the table to execute, or a state with none left to execute. -/
inductive Todo where
  | run (i : Instr) (s : State)
  | still (s : State)
  deriving DecidableEq, Repr

/-- The package has power and no thermal cut has been made (R292). -/
def State.powered (s : State) : Bool := !s.dev.power.off

/-- The instructions that reach the registers of other lanes than their fragment's own (R55, R57), by OPC: the cross-lane ones,
VXM, RQXFER, and LDS and STS in REG space. -/
def reachesRegs (w : W64) : Bool :=
  let opc := bitsOf w.toNat 63 56
  [0x62, 0x63, 0x70, 0x71, 0x72, 0xB2, 0xD4].contains opc
    || ([0x82, 0x83].contains opc && (Decode.getFM w).fn.toNat / 2 == 1)

/-- A fragment waits on nothing: for another package until every response has come (R269), for an earlier access of its wave
until none is outstanding (R57), for room until there is some (R32). -/
def State.waitOver (s : State) (b slot e : Nat) (w : Wave) (f : Frag) : Bool :=
  match f.wait with
  | none => true
  | some .back => true
  | some .remote => !s.remoteOpen (.frag b slot e)
  | some .order => !w.frags.any fun p => p.1 != e && p.2.outFor (reachesRegs f.word)
  | some (.room n) => (s.bench b).inFlight + n ≤ 128
  | _ => false

/-- A fragment is ready (R32): a RUN entry on chip, waiting on nothing; of a draining context only inside a bypass window or
with an instruction under way (R200). A suspended one ends the instruction that it has under way, and takes no other (R221;
DEDUCED, log entry 107); no fragment of a wave that a PRIVGROW parks whole (R29) is ready. -/
def State.fragReady (s : State) (b slot e : Nat) (w : Wave) (f : Frag) : Bool :=
  !f.waiting && f.onChip && (!f.susp || f.inFlight) && !w.holds e && s.waitOver b slot e w f
    && match s.group? b w.group with
       | none => false
       | some g =>
         let c := (s.bench b).ctx g.ctx
         !(c.draining || c.drained) || (c.draining && (f.win.left != 0 || f.underWay))

/-- Whether one candidate of a quarter goes before another (R31): ready longer, then the lower slot, then the earlier
created entry. Fragments unissued for 64 cycles are among the longest ready, so their class changes nothing. -/
def before (a b : Nat × Nat × Frag) : Bool :=
  a.2.2.since < b.2.2.since
    || (a.2.2.since == b.2.2.since && (a.1 < b.1 || (a.1 == b.1 && a.2.2.created < b.2.2.created)))

/-- A fragment with the cycle since which it has been ready: `now` where its wait is over since the last cycle. -/
def Frag.ready (f : Frag) (now : Nat) : Frag :=
  if f.wait.isNone || f.wait = some .back then f else { f with since := now }

/-- Fragments whose wait is over are ready from this cycle on (R31, R32). -/
def State.settleWave (s : State) (b slot : Nat) (w : Wave) : Wave :=
  let now := s.cycle b
  let go (e : Nat) (f : Frag) : Frag :=
    if f.wait.isNone || f.wait = some .back || !s.waitOver b slot e w f then f
    else { f with since := now, wait := if f.wait = some .remote then some .back else none }
  { w with frags := w.frags.mapVal go }

/-- The fragment that a quarter issues (R31). -/
def State.pick (s : State) (b q : Nat) : Option (Nat × Nat) :=
  let cands := ((s.bench b).waves.filter fun p => p.1 % 4 == q).flatMap fun p =>
    (p.2.frags.filter fun f => s.fragReady b p.1 f.1 p.2 f.2).map fun f => (p.1, f.1, f.2.ready (s.cycle b))
  (cands.foldl (fun a c => match a with
    | none => some c
    | some x => if before c x then some c else some x) (none : Option (Nat × Nat × Frag))).map fun c => (c.1, c.2.1)

/-- What the reads before an instruction come to. -/
inductive Fetch (α : Type) where
  | got (a : α) (s : State)
  | wait (s : State)
  | bad (r : Raise)

/-- An 8-byte-aligned read that a fragment makes before its instruction: weak, at its point; on another package it waits
for its response (R269), under a key above those of the instruction's own accesses. It gives the physical address and the
bytes. -/
def State.fetchRead (s : State) (cx : Wcx) (key va n : Nat) (acc : Acc) (access : Nat) : Fetch (Nat × List Byte) :=
  let bad (r : Raise) : Fetch (Nat × List Byte) := .bad { r with access := access }
  match privGrow (s.desc cx.g.ctx) cx.b cx.slot va n with
  | some top => bad { cause := Cause.privGrow, va := va, aux := top }
  | none =>
    match s.translateCtx [.bench cx.b] cx.b cx.g.ctx va acc with
    | .error c => bad { cause := c, va := va }
    | .ok (x, s) =>
      if s.place x.pa = .device then bad { cause := Cause.perm, va := va }
      else
        match ({ (cx.mu s) with keys := key } : Mu).read none false { va := va, pa := x.pa, n := n, ord := x.ord } with
        | .error r => bad r
        | .ok (bs, m) =>
          if m.waits then .wait ((m.send m.s).modFrag cx.b cx.slot cx.e fun f => { f with wait := some .remote })
          else .got (x.pa, bs) m.s

/-- The requests that a fragment made before its instruction are over. -/
def State.dropFetches (s : State) (cx : Wcx) : State :=
  if s.dev.fabric.remotes = [] then s
  else s.modFabric fun x => { x with remotes := x.remotes.filter fun r =>
    !(r.who == .frag cx.b cx.slot cx.e && 1000 ≤ r.key) }

/-- The words of a group's record table from word `k` on (R166), `n` of them. -/
def State.tableWords (s : State) (cx : Wcx) (base : Nat) : Nat → Nat → Fetch (List Byte)
  | 0, _ => .got [] s
  | n + 1, k =>
    match s.fetchRead cx (2000 + k) (base + 8 * k) 8 .read (accessByte 1 8 false) with
    | .bad r => .bad r
    | .wait s => .wait s
    | .got (_, bs) s =>
      match s.tableWords cx base n (k + 1) with
      | .got cs s => .got (bs ++ cs) s
      | x => x

/-- The record table of a group is loaded before the first instruction of the group (R166, R192): a fault is a wave fault
at the entry. -/
def State.loadTable (s : State) (cx : Wcx) : Fetch Unit :=
  if !cx.g.brt.getLsbD 0 then .got () s
  else
    match s.tableWords cx (cx.g.brt.toNat / 64 * 64) (5 * cx.g.brn) 0 with
    | .bad r => .bad r
    | .wait s => .wait s
    | .got bs s =>
      let recs : Tbl (BitVec 320) := (List.range cx.g.brn).map fun i =>
        (i, BitVec.ofNat 320 (leNat ((bs.drop (40 * i)).take 40)))
      .got () (s.modGroup cx.b cx.w.group fun g => { g with brecs := recs, brt := g.brt - 1 })

/-- The instruction word that is executed, of the one that memory holds now at an address (R306). Where it has been stored
since the group started, the wave may have fetched the one before: which of the two is an open choice. Of several stores the
old value is the one at the group's start (DEDUCED, log entry 107). -/
def State.wordRun (s : State) (cx : Wcx) (pa : Nat) (bs : List Byte) : List Byte × State :=
  let was : Option (List Byte) := match cx.g.text, s.place pa with
    | some m, .lpddr _ => some (Mem.read m (pa % 2 ^ 44) 8)
    | some m, .vault _ => some (Mem.read m (pa % 2 ^ 44) 8)
    | _, _ => none
  match was with
  | none => (bs, s)
  | some old => if old = bs then (bs, s) else let (n, s) := s.fresh; (if n % 2 = 0 then bs else old, s)

/-- The word at a fragment's PC (R304, R306): a weak read through the bench TLB of a page that permits execution. -/
def State.fetchWave (s : State) (cx : Wcx) : Fetch W64 :=
  match s.loadTable cx with
  | .bad r => .bad r
  | .wait s => .wait s
  | .got _ s =>
    match s.fetchRead cx 1000 cx.f.pc.toNat 8 .fetch (4 + 3 * 32) with
    | .bad r => .bad r
    | .wait s => .wait s
    | .got (pa, bs) s =>
      let (bs, s) := s.wordRun cx pa bs
      .got (w64 (leNat bs)) (s.dropFetches cx)

/-- A user-level interrupt is due in a wave (R220): a code is pending, delivery is enabled, and the wave is the
lowest-numbered of its group that has not exited and is in no handler. -/
def State.uliDue (s : State) (b slot : Nat) (w : Wave) (g : Group) : Bool :=
  g.uli != 0 && (s.ctxBlock g.ctx).ulivec != 0
    && (g.waves.find? fun n => (s.wave? b n).any fun x => x.frags != []) == some slot
    && !w.frags.any fun p => p.2.handler

/-- The instructions that are issued only when no access of the wave before them is outstanding (R57, R136, R147): those of
memory, synchronisation and the engines, the cross-lane ones, and the branches that reach other lanes, by OPC. -/
def inOrder (w : W64) : Bool :=
  let opc := bitsOf w.toNat 63 56
  (128 ≤ opc && opc != 0xD0 && opc != 0xD1)
    || [0x0B, 0x0C, 0x0E, 0x1B, 0x1C, 0x62, 0x63, 0x70, 0x71, 0x72].contains opc

/-- An instruction of a fragment waits for the outstanding accesses of its siblings. Past atomics that the order gate holds
an ATOM comes to `execAtom`, which knows the pages of its lanes (R141). -/
def Wcx.ordered (cx : Wcx) (w : W64) : Bool :=
  let out := cx.w.frags.filter fun p => p.1 != cx.e && p.2.outFor (reachesRegs w)
  let past := bitsOf w.toNat 63 56 == 0xA0 && out.all fun p => p.2.wait == some .gate
  inOrder w && out != [] && !past

/-- An instruction of the fragment is under way, rather than a read that comes before its next one. -/
def State.goesOn (s : State) (b slot e : Nat) (f : Frag) : Bool :=
  f.inFlight && !s.dev.fabric.remotes.any fun r => r.who == .frag b slot e && 1000 ≤ r.key

/-- An instruction of a fragment is executed: its wait is over, and it is the word under way. -/
def State.runWord (s : State) (b slot e : Nat) (w : W64) : Todo :=
  let s := s.modFrag b slot e fun f => { f with wait := none, reads := [], writes := [], word := w }
  match Decode.wave w with
  | .ok i => .run i s
  | .error _ => .run (.unassignedOpc w) s

/-- The turn of a quarter (R31): the instruction that the fragment has under way; a due user-level interrupt, where a fragment
outside a bypass window would issue (R220); or the next instruction. The fragments of a cell that is not ON do nothing
(R291). -/
def State.turnQuarter (s : State) (b q : Nat) : Todo :=
  if !s.cellOn (cellOf b) then .still s else
  match s.pick b q with
  | none => .still s
  | some (slot, e) =>
    let s := { s with cur := .wave b slot e }
    match s.wcx with
    | none => .still s
    | some cx =>
      if s.goesOn b slot e cx.f then s.runWord b slot e cx.f.word
      else if cx.f.win.left = 0 && s.uliDue b slot cx.w cx.g then .run (.uliDelivery b slot) s else
      match s.fetchWave cx with
      | .bad r => .still ((s.dropFetches cx).fault cx r)
      | .wait s => .still s
      | .got w s =>
        if cx.ordered w then .still (s.modFrag b slot e fun f => { f with wait := some .order, word := w })
        else s.runWord b slot e w

/-- The engine that an EOP names (R329); none for IDLE, which every engine takes. -/
def engineOf (w : W64) : Option Engine :=
  match bitsOf w.toNat 47 44 with
  | 1 => some .matrix
  | 2 => some .copy
  | 3 => some .fabric
  | 4 => some .tiling
  | _ => none

/-- The number of the command that a turn of a ring takes: one with work left, or the head. In a timed ring each comes at
its cycle, the work first: a head due in the very cycle in which a checksum rerun begins counts as not yet issued, and slips
(R44; DESIGN CHOICE, log entry 107). In a dynamic ring the order of the two is an open choice. -/
def State.ringPick (s : State) (b slot : Nat) : Option (Nat × State) :=
  let x := s.bench b
  let r := x.ring slot
  let now := s.cycle b
  let work := match x.nextWork slot with
    | some a => if !r.timed || x.workAt r.eng a ≤ now then some a.num else none
    | none => none
  let head := if s.headNow b slot then some (r.rp + 1) else none
  match work, head with
  | none, none => none
  | some k, none => some (k, s)
  | none, some k => some (k, s)
  | some k, some h => if r.timed then some (k, s) else let (n, s) := s.fresh; some (if n % 2 = 0 then k else h, s)

/-- The word of a command that is issued or is the head. -/
def State.cmdWord (s : State) (b slot num : Nat) : W64 :=
  match (s.ring b slot).active.find? fun a => a.num == num with
  | some a => a.word
  | none => s.ringWord b slot num

/-- The turn of a ring slot. The rings of a cell that is not ON do nothing (R291). -/
def State.turnRing (s : State) (b slot : Nat) : Todo :=
  if !s.cellOn (cellOf b) then .still s else
  match s.ringPick b slot with
  | none => .still s
  | some (k, s) =>
    let w := s.cmdWord b slot k
    let s := { s with cur := .ring b slot k }
    match Decode.command w with
    | .ok i => if (engineOf w).all fun e => e == (s.ring b slot).eng then .run i s else .run (.unlistedEop w) s
    | .error _ => .run (.unlistedEop w) s

/-- A hart fetches and decodes its word: an X instruction, or a base word of RV64GC (R247), which it executes. -/
def State.turnHart (s : State) (i : Issuer) : Todo :=
  let s := { s with cur := i }
  match s.hcx with
  | none => .still s
  | some cx =>
    match s.interrupt cx with
    | some k => .still (s.hartExc cx (w64 (2 ^ 63 + k)) 0)
    | none =>
      match s.hartFetch cx with
      | .error e => .still (s.hartRaise cx e)
      | .ok (none, s) => .still s
      | .ok (some w, s) =>
        match Decode.gaffer w with
        | .ok i => .run i s
        | .error .unassignedCustom0 => .run (.unassignedCustom0 w) s
        | .error _ => .still (s.runBase cx w)

/-- The turn of a gaffer: interrupt 24 when it may be taken (R253), otherwise its next word. The gaffers of a cell that is
not ON do nothing (R291), nor does any before the boot has started the firmware (R286). -/
def State.turnGaffer (s : State) (b : Nat) : Todo :=
  if s.cellOn (cellOf b) && s.dev.boot.stage = 5 then s.turnHart (.gaffer b) else .still s

/-- A timed ring has something to do at or before this cycle, so that the cycle cannot pass yet (R41, R43, R105). -/
def State.ringHolds (s : State) (b slot : Nat) (r : Ring) : Bool :=
  let now := s.cycle b
  let x := s.bench b
  r.timed && (r.state == .running || r.state == .halted) &&
    ((match x.nextWork slot with
      | some a => x.workAt r.eng a ≤ now && !s.tileWaits b slot a
      | none => false)
      || (!x.ringStops r &&
          ((r.active.any fun a => a.worked && !a.owesSig && a.retire.any (· ≤ now))
            || (r.state == .running && !r.armed && r.begun &&
                (if x.hasHead slot then r.due (s.ringWord b slot (r.rp + 1)) ≤ now
                 else r.wp == r.rp && r.fin.isNone && r.lastT + 256 + r.slip < now)))))

/-- One cycle of a die's bench clock passes (R11, R45), unless a timed ring of its domain still has to act at this one. -/
def State.tick (s : State) (die : Nat) : State :=
  if s.domain die != die then s
  else if s.benches.any fun p => s.domain (dieOf p.1) == die && p.2.rings.any fun k => s.ringHolds p.1 k.1 k.2 then s
  else
    let settle (b : Nat) (x : Bench) : Bench :=
      if s.domain (dieOf b) = die then { x with waves := x.waves.mapVal fun slot w => s.settleWave b slot w } else x
    ({ s with benches := s.benches.mapVal settle } : State).modDie die fun d => { d with cycle := d.cycle + 1 }

/-- A row of the table that happens of itself or by a register write, rather than by a unit that executes a word. -/
def isEvent (i : Instr) : Bool :=
  (Encode.wave i).isNone && (Encode.command i).isNone && (Encode.gaffer i).isNone &&
    match i with
    | .unassignedOpc _ => false
    | .unlistedEop _ => false
    | .unassignedCustom0 _ => false
    | _ => true

/-- The turn that comes next, and the state with it taken from the agenda, or from the schedule when the agenda is empty
(log entry 3). -/
def State.nextTurn (s : State) : Turn × State :=
  match s.agenda with
  | t :: ts => (t, { s with agenda := ts, cur := .none })
  | [] => (Config.schedule s.free, { s with free := s.free + 1, cur := .none })

/-- A wave, ring, gaffer or host core that the device has (R7, R8). -/
def unitReal (u : UnitRef) : Bool :=
  match u with
  | .frag b slot _ => b < 256 && slot < 32
  | .ring b slot => b < 256 && slot < 16
  | .gaffer b => b < 256
  | .host h => h < 32

/-- The parts that an event names by number are parts of the device (R7, R8, R11, R277, R284). -/
def eventReal (i : Instr) : Bool :=
  match i with
  | .rbind b _ | .rctlResume b | .rctlUnbind b | .rctlClrerr b | .rctlFinish b | .gent b _ | .csdata b _ _ | .cxcmdSave b
  | .cxcmdRestore b | .cxcmdHwm b | .smap b _ | .replay b _ | .ulipost b _ | .latchRel b | .latchedMessage b | .l1Evict b _
  | .semaphoreGrant b _ | .laneCopy b _ | .drainComplete b _ | .sliceSaveRestoreDone b _ | .registerWrite (.csr b _) _ => b < 256
  | .commandComplete b slot _ | .missingCommand b slot => b < 256 && slot < 16
  | .barrierComplete b slot | .clusterBarrierComplete b slot | .sleepExpiry b slot _ | .uliDelivery b slot
  | .splitTableFill b slot _ => b < 256 && slot < 32
  | .watchdog u | .timelineWaitMet u => unitReal u
  | .arbitrationModeWrite die _ | .gateRelease die | .ordergate die | .thermalTrip die | .timedRingRendezvous die _
  | .placeGroup die => die < 2
  | .cellPowerReq c _ | .cellOffReached c | .cellWakeDone c => c < 32
  | .compositeGroupWrite g _ _ | .compositeFrameEnd g | .nodeDeadline g => g < 16
  | .headFlip h | .headWrite h _ _ | .verticalBlanking h => h < 4
  | .launchPredicate q => q < 64
  | .tilingSplit _ pn | .splitResume _ pn | .meshGroupPlace _ pn => pn < 16
  | _ => true

/-- The bench of an event that is a write of one of its gaffer's CSRs (R250), which only the gaffer itself makes. -/
def csrBench (i : Instr) : Option Nat :=
  match i with
  | .rbind b _ | .rctlResume b | .rctlUnbind b | .rctlClrerr b | .rctlFinish b | .gent b _ | .csdata b _ _ | .cxcmdSave b
  | .cxcmdRestore b | .cxcmdHwm b | .smap b _ | .replay b _ | .ulipost b _ | .registerWrite (.csr b _) _ => some b
  | _ => none

/-- An event may happen: a write of a CSR only where the cell of its gaffer is ON (R291). -/
def State.eventOn (s : State) (i : Instr) : Bool := (csrBench i).all fun b => s.cellOn (cellOf b)

/-- The units of the device (R7, R8): 256 benches of four quarters and 16 ring slots, 32 host cores, two dies. -/
def Turn.isUnit (t : Turn) : Bool :=
  match t with
  | .quarter b q => b < 256 && q < 4
  | .ring b slot => b < 256 && slot < 16
  | .gaffer b => b < 256
  | .host h => h < 32
  | .cycle die => die < 2
  | .event i => eventReal i
  | .nanosecond => true

/-- What the machine does next. -/
def State.todo (s : State) : Todo :=
  let (t, s) := s.nextTurn
  if (!s.powered && t != .event .deviceReset) || !t.isUnit then .still s
  else
    match t with
    | .quarter b q => s.turnQuarter b q
    | .ring b slot => s.turnRing b slot
    | .gaffer b => s.turnGaffer b
    | .host h => s.turnHart (.host h)
    | .event i => if isEvent i && s.eventOn i then .run i s else .still s
    | .cycle die => .still (s.tick die)
    | .nanosecond => .still s.nanosecond

/-! ## Placing an instruction for the next step -/

/-- The words of an instruction of `nbits` bits, laid out as the hardware stores it: least significant byte first. -/
def wordBytes (nbits w : Nat) : List Byte := leBytes (if nbits ≤ 32 then 4 else 8) (w % 2 ^ nbits)

/-- A context descriptor with its root table, V = 1, and the fixed fields at their least values (R186). -/
def probeDesc (root : Nat) : Nat :=
  root + 2 ^ 61 + 16 * 2 ^ 128 + 16 * 2 ^ 136 + 4 * 2 ^ 248

/-- The state with a gaffer word at gaffer 0's pc, in vault 0, the boot over, and the turn given to it. -/
def State.placeGaffer (s : State) (nbits w : Nat) : State :=
  let s := { s with mem := Mem.write s.mem vaultBase (wordBytes nbits w), agenda := .gaffer 0 :: s.agenda }
  let s := s.modDev fun d => { d with boot := { d.boot with stage := 5 } }
  s.modBench 0 fun b => { b with gaffer := { b.gaffer with pc := w64 vaultBase, mode := .m } }

/-- The state with a wave word at the PC of a wave of bench 0, slot 0, and the turn given to it: context 0 has a
descriptor in vault 0 and a page table whose one leaf maps virtual 0 to the vaults, with every permission. -/
def State.placeWave (s : State) (nbits w : Nat) : State :=
  let base := vaultBase
  let ptr (i : Nat) : List Byte := leBytes 8 (1 + (base / 4096 + i) * 2 ^ 10)
  let leaf : List Byte := leBytes 8 (0xDF + 0x80000000000 / 4096 * 2 ^ 10)
  let m := Mem.write s.mem base (leBytes 64 (probeDesc (base / 4096 + 1)))
  let m := Mem.write m (base + 0x1000) (ptr 2)
  let m := Mem.write m (base + 0x2000) leaf
  let m := Mem.write m (base + 0x4000) (wordBytes nbits w)
  let f : Frag := { mask := 0xFFFFFFFF, pc := 0x4000 }
  let wv : Wave := { group := 0, index := 0, frags := [(0, f)], made := 1, b0 := 0, g0 := 64 }
  let g : Group := { ctx := 0, part := 0, origin := .grid 0 1, launch := 0, groupId := 0, waves := [0],
                     granules := [64], scratch := 1024 }
  let s := { s with mem := m, agenda := .quarter 0 0 :: s.agenda }
  let s := s.modDev fun d => { d with ctxBase := BitVec.ofNat 50 (base / 64) }
  s.modBench 0 fun b => { b with waves := b.waves.set 0 wv, groups := b.groups.set 0 g }

end Sys2Proof.Machine
end

