-- ==== Sys2Proof/Machine/Engine.lean ====
section
/-! DEFINITION. Engine commands (R37 to R43, R87, R98, R100, R105, R328 to R331): the checks at issue, WAIT, an engine's
accesses, its units of work, the order of commands on the array and on a tile, halting, and completion. -/

namespace Sys2Proof.Machine

open Sys2Proof

/-- The command whose turn it is: its bench, ring slot, number, ring and word. -/
structure Ecx where
  b : Nat
  slot : Nat
  num : Nat
  r : Ring
  w : W64
  deriving DecidableEq, Repr

/-- The records of a command as it copied them at issue (R88). -/
abbrev Recs := Tbl (BitVec 512)

/-- The agent of a command. -/
def Ecx.who (x : Ecx) : Agent := .ring x.b x.slot x.num

/-- The engine context of a command (R252). -/
def State.ctxOf (s : State) (x : Ecx) : EngCtx := (s.bench x.b).eng x.r.eng x.r.ctx

/-- Counts of an engine context added to (R73, R104), saturating. -/
def State.count (s : State) (x : Ecx) (wz esc t5 sat : Nat) : State :=
  s.modEng x.b x.r.eng x.r.ctx fun e =>
    { e with windowZero := sat32 (e.windowZero + wz), escOvf := sat32 (e.escOvf + esc), t5Bad := sat32 (e.t5Bad + t5),
             satI32 := sat32 (e.satI32 + sat) }

/-! ## Accesses of an engine -/

/-- A run cut at 128-byte boundaries: no access of an engine is longer. -/
def cutRun (a n : Nat) : List (Nat × Nat) :=
  if n = 0 then [] else
  (List.range ((a + n - 1) / 128 - a / 128 + 1)).map fun k =>
    let lo := max a (128 * (a / 128 + k))
    (lo, min (a + n) (128 * (a / 128 + k) + 128) - lo)

/-- The local physical address of a byte of a BSTORE or VAULT record (R90). -/
def Ecx.localPa (x : Ecx) (space a : Nat) : Nat := if space = 1 then storePa x.b a else vaultBase + a % 2 ^ 32

/-- What caches the translations of a command (R90, R129, R130): a matrix or copy queue has its page registers, behind which
stands its bench's TLB. -/
def Ecx.tlb (x : Ecx) : List TlbUnit :=
  match x.r.eng with
  | .fabric => [.fabric (dieOf x.b)]
  | .tiling => [.tiling (cellOf x.b)]
  | _ => [.queue x.b x.slot, .bench x.b]

/-- The early walk of a matrix or copy queue (R130): within PGDIST of the end of its page, the page that follows is walked
into the next-page register, and a fault of that walk is discarded. It sets A and no D (DEDUCED, log entry 103). -/
def Ecx.walkAhead (x : Ecx) (s : State) (va left : Nat) : State :=
  let d := 4096 * (s.ctxOf x).pgdist.toNat
  if (x.r.eng == .matrix || x.r.eng == .copy) && left ≤ d then
    match s.translateCtx x.tlb x.b x.r.ctx ((va + left) % 2 ^ 64) .read with
    | .ok (_, s) => s
    | .error _ => s
  else s

/-- Pieces of a run of a VIRT record (R90, R125): CMDILLEGAL where a record that must be local reaches another package. -/
def Ecx.pieces (x : Ecx) (s : State) (onlyLocal : Bool) (acc : Acc) (a n : Nat) : Except Raise (List Piece × State) :=
  let step (p : List Piece × State) (c : Nat × Nat) : Except Raise (List Piece × State) :=
    let va := c.1 % 2 ^ 64
    match p.2.translateCtx x.tlb x.b x.r.ctx va acc with
    | .error e => .error { cause := e, va := va }
    | .ok (t, s) =>
      let away := match s.place t.pa with
        | .remote _ => onlyLocal
        | _ => false
      if away then .error { cause := Cause.cmdIllegal, va := va }
      else .ok (p.1 ++ [{ va := va, pa := t.pa, n := c.2, ord := t.ord, nc := t.nc }], x.walkAhead s va t.left)
  foldE step (cutRun a n) ([], s)

/-- A command's accesses as they are made: the accumulator and the command. -/
structure Em where
  m : Mu
  a : Active

/-- An error of an access through a record: its TREC and ACCESS, of 8 bytes as in R448 (DEDUCED, log entry 53). What AUX
holds is the command's to say (R100, R184). -/
def Raise.through (r : Raise) (trec : Nat) (kind : Nat) : Raise := { r with trec := trec, access := kind + 3 * 32, aux := 0 }

/-- Bytes of an image by address (R180). -/
def putImg (t : Tbl Byte) (a : Nat) (bs : List Byte) : Tbl Byte :=
  (List.range bs.length).foldl (fun t i => t.set (a + i) (bs.getD i 0)) t

/-- A run is read through a record; with `img` it joins the source image of the command's checksum (R180). -/
def Ecx.get (x : Ecx) (e : Em) (trec : Nat) (r : BitVec 512) (a n : Nat) (onlyLocal img : Bool) :
    Except Raise (List Byte × Em) :=
  let res : Except Raise (List Byte × Mu) :=
    if trSpace r = 0 then
      match x.pieces e.m.s onlyLocal .read a n with
      | .error r => .error r
      | .ok (ps, s) => ({ e.m with s := s } : Mu).readAll none false ps
    else
      let pa := x.localPa (trSpace r) a
      match e.m.s.readPoison pa n with
      | some q => .error { q with va := a + q.va }
      | none => .ok (Mem.read e.m.s.mem pa n, e.m)
  match res with
  | .error q => .error (q.through trec 1)
  | .ok (bs, m) => .ok (bs, { m := m, a := if img then { e.a with srcImg := putImg e.a.srcImg a bs } else e.a })

/-- Bytes are written through a record; a timed ring's writes wait for the retirement (R154). -/
def Ecx.put (x : Ecx) (e : Em) (trec : Nat) (r : BitVec 512) (a : Nat) (bs : List Byte) (onlyLocal img : Bool) :
    Except Raise Em :=
  let a' := if img then { e.a with dstImg := putImg e.a.dstImg a bs } else e.a
  let res : Except Raise Em :=
    if trSpace r = 0 then
      match x.pieces e.m.s onlyLocal .write a bs.length with
      | .error q => .error q
      | .ok (ps, s) => (({ e.m with s := s } : Mu).writeAll none false [] ps bs).map fun m => { m := m, a := a' }
    else
      let pa := x.localPa (trSpace r) a
      match e.m.s.writePoison pa bs.length with
      | some q => .error { q with va := a + q.va }
      | none =>
        if x.r.timed then .ok { e with a := { a' with wbuf := a'.wbuf ++ [(pa, bs)] } }
        else
          let s := (e.m.s.localWrite pa bs).clearPoison pa bs.length
          .ok { m := { e.m with s := s }, a := a' }
  match res with
  | .error q => .error (q.through trec 2)
  | .ok e => .ok e

/-- What a unit of a command's work comes to. -/
inductive EWork where
  /-- The unit is done and others remain; it took so many array cycles. -/
  | next (s : State) (a : Active) (cycles : Nat)
  /-- The last unit is done; the command retires so many cycles after the array. -/
  | done (s : State) (a : Active) (cycles drain : Nat)
  /-- It cannot go on now. -/
  | wait (s : State)
  /-- It halts at the unit; the state and the command hold what stays done. -/
  | fault (s : State) (a : Active) (r : Raise)

/-- A unit of accesses: a fault discards what the unit did (R100, R184); responses of other packages are awaited (R269). -/
def Ecx.unit (x : Ecx) (s : State) (a : Active) (aux : Nat) (body : Em → Except Raise Em) (fin : Em → EWork) : EWork :=
  match body { m := { s := s, who := x.who, die := dieOf x.b }, a := a } with
  | .error r => .fault (s.dropRemotes x.who) a { r with aux := r.aux + aux }
  | .ok e =>
    if e.m.waits then
      -- reads and writes of the fabric engine travel on BULK (R267)
      let bulk (f : Flit) : Flit := if f.type = 0 || f.type = 2 then { f with vc := 3 } else f
      let asks := if x.r.eng = .fabric then e.m.asks.map fun p => (p.1, bulk p.2) else e.m.asks
      .wait (({ e.m with asks := asks } : Mu).send s)
    else fin { e with m := { e.m with s := e.m.s.dropRemotes x.who } }

/-! ## The order of commands -/

/-- A place in a bench's issue order after some have moved right behind place `at_`, in their order. -/
def movedSeq (at_ : Nat) (moved : List Nat) (k : Nat) : Nat :=
  if moved.contains k then at_ + 1 + (moved.filter (· < k)).length else if at_ < k then k + moved.length else k

/-- A command takes its turn on its tile: those set aside, which issued before it, come right behind it from then on (R383,
R448). -/
def State.takeTile (s : State) (x : Ecx) (a : Active) : State :=
  match cmdTile x.w with
  | none => s
  | some (t, _, _) =>
    let y := s.bench x.b
    let late (i : Issued) : Bool :=
      i.a.seq < a.seq && (cmdTile i.a.word).any (fun c => c.1 == t) && y.setAside (y.ring x.slot).ctx i && !i.a.worked
    let moved := (y.issued.filter late).map fun i => i.a.seq
    if moved = [] then s
    else s.modBench x.b fun y => { y with
      nextSeq := y.nextSeq + moved.length,
      rings := y.rings.mapVal fun _ r => { r with active := r.active.map fun i => { i with seq := movedSeq a.seq moved i.seq } } }

/-! ## Issue -/

/-- What an engine command is: its engine (none for IDLE), the "—" bits of F, its checks at issue in the order that the
chapters give (CMDILLEGAL, PERM that counts as CMDILLEGAL in R381, ALIGN, the late CMDILLEGAL of R347), whether it needs a
privileged context, the values it takes at issue, what its turn finds before its first unit, what it does at issue, and its
units. -/
structure CmdSpec where
  eng : Option Engine
  dash : Nat
  priv : Bool := false
  illegal : State → Ecx → Recs → Bool := fun _ _ _ => false
  permIllegal : Bool := false
  denied : State → Ecx → Bool := fun _ _ => false
  misaligned : Ecx → Recs → Bool := fun _ _ => false
  late : Ecx → Recs → Bool := fun _ _ => false
  atIssue : State → Ecx → List Nat := fun _ _ => []
  open_ : State → Ecx → Active → Except Raise (State × Active) := fun s _ a => .ok (s, a)
  enter : State → Ecx → Recs → State := fun s _ _ => s
  work : State → Ecx → Active → EWork

/-- The copies of a command's records, read from the table of its engine context (R88). A table that runs past the end of
the bench store goes on at its start, and its granules are not checked (DESIGN CHOICE, log entry 95). -/
def State.copyRecs (s : State) (x : Ecx) : Except Raise Recs :=
  let base := (s.ctxOf x).trbase.toNat
  foldE (fun (t : Recs) n =>
    let pa := storePa x.b ((base + 64 * n) % 0x400000)
    match s.readPoison pa 64 with
    | some r => .error { r with va := 0, trec := n, aux := 0 }
    | none => .ok (t.set n (BitVec.ofNat 512 (leNat (Mem.read s.mem pa 64))))) (cmdRecs x.w) []

/-- Whether a BSTORE record's bytes lie in BSCR granules of the ring's partition (R90). -/
def State.inScratch (s : State) (x : Ecx) (runs : List (Nat × Nat)) : Bool :=
  let y := s.bench x.b
  runs.all fun r => r.2 = 0 || (r.1 + r.2 ≤ 0x400000 &&
    (List.range ((r.1 + r.2 - 1) / 1024 - r.1 / 1024 + 1)).all fun k =>
      y.kind (r.1 / 1024 + k) == 3 && y.gpart (r.1 / 1024 + k) == x.r.part)

/-- The CMDILLEGAL of R90 of a use: upper address bits, or a range that leaves the vault its base names. SBASE and XBASE, of
which R90 does not speak, are taken as BASE is, each with the vault that it names (DESIGN CHOICE, log entry 107). -/
def Use.outside (u : Use) : Bool :=
  match trSpace u.tr with
  | 1 => 0x400000 ≤ u.base
  | 2 => 0x100000000 ≤ u.base || u.runs.any fun r =>
      r.2 != 0 && (r.1 / 0x8000000 != u.base / 0x8000000 || (r.1 + r.2 - 1) / 0x8000000 != u.base / 0x8000000)
  | _ => false

/-- A VIRT record of a copy command resolves to another package in a page that translates now (R347). -/
def State.useAway (s : State) (x : Ecx) (u : Use) : Bool :=
  trSpace u.tr == 0 && ((u.runs.flatMap fun q => cutRun q.1 q.2).any fun q =>
    match s.translateCtx x.tlb x.b x.r.ctx (q.1 % 2 ^ 64) (if u.write then .write else .read) with
    | .ok (t, s) => match s.place t.pa with
      | .remote _ => true
      | _ => false
    | .error _ => false)

/-- The PERM of R90 of a use: bytes outside the partition's scratch, or a vault that is not granted, touched or not. -/
def State.useDenied (s : State) (x : Ecx) (u : Use) : Bool :=
  match trSpace u.tr with
  | 1 => !s.inScratch x u.runs
  | 2 => !(s.ctxOf x).vgrant.getLsbD (u.base / 0x8000000)
  | _ => false

/-- A record that has MV = 1 is TRA of an MXLOOP with FL.MV = 1, and TRA of such an MXLOOP has it (R96, R452). -/
def mvBad (w : W64) (recs : Recs) : Bool :=
  let mv := cmdEop w == 0x11 && bitOf w.toNat 3
  let a := cmdF w 39 32
  recs.any (fun p => trMv p.2 && !(mv && p.1 == a)) || (mv && !trMv (recs.get a 0))
    || (mv && cmdF w 39 32 == cmdF w 31 24)

/-- A command's own checks at issue, first to last (R347, R359, R382, R452). TBEGIN's record has a layout of its own. -/
def State.ownCheck (s : State) (x : Ecx) (c : CmdSpec) (recs : Recs) : Option Raise :=
  let at_ (cause trec : Nat) : Option Raise := some { cause := cause, trec := trec }
  let us := s.cmdUses x.w recs
  let plain := c.eng != some .tiling
  let bad := recs.find? fun p => plain && trBad p.2
  let out := us.find? fun u => u.outside
  let away := us.find? fun u => s.useAway x u
  let denied := us.find? fun u => s.useDenied x u
  match bad, out, denied with
  | some p, _, _ => at_ Cause.cmdIllegal p.1
  | none, o, d =>
    if plain && mvBad x.w recs then at_ Cause.cmdIllegal 0xFF
    else if o.isSome then at_ Cause.cmdIllegal ((o.map (·.trec)).getD 0xFF)
    else if x.r.eng == .copy && away.isSome then at_ Cause.cmdIllegal ((away.map (·.trec)).getD 0xFF)
    else if c.illegal s x recs then at_ Cause.cmdIllegal 0xFF
    else if (cmdTile x.w).any fun t => !(s.ctxOf x).tmask.getLsbD t.1 then at_ Cause.perm 0xFF
    else
      match d with
      | some u => at_ (if c.permIllegal then Cause.cmdIllegal else Cause.perm) u.trec
      | none =>
        if c.denied s x then at_ Cause.perm 0xFF
        else if c.misaligned x recs then at_ Cause.align 0xFF
        else if c.late x recs then at_ Cause.cmdIllegal 0xFF
        else none

/-- Physical runs of a use of a ring's command in this package; a VIRT record's are translated where they can be. -/
def State.usePas (s : State) (b : Nat) (r : Ring) (slot : Nat) (u : Use) : List (Nat × Nat) :=
  let x : Ecx := ⟨b, slot, 0, r, 0⟩
  if trSpace u.tr = 0 then
    (u.runs.flatMap fun q => cutRun q.1 q.2).filterMap fun q =>
      match s.translateCtx x.tlb b r.ctx (q.1 % 2 ^ 64) (if u.write then .write else .read) with
      | .ok (t, s) => match s.place t.pa with
        | .remote _ => none
        | _ => some (t.pa % 2 ^ 44, q.2)
      | .error _ => none
  else u.runs.map fun q => (x.localPa (trSpace u.tr) q.1, q.2)

/-- The overlap condition of R43: what a timed command reads meets what a command that has not retired writes, or its MXST
reads a tile that such a command writes (R87). -/
def State.readsUnretired (s : State) (x : Ecx) (recs : Recs) : Bool :=
  let y := s.bench x.b
  let now := s.cycle x.b
  let retired (i : Issued) : Bool := i.a.owesSig || (i.r.timed && !y.ringStops i.r && i.a.retire.any (· < now))
  -- the fields of a misplaced record are not used (R452)
  let uses := if mvBad x.w recs then [] else s.cmdUses x.w recs
  let reads := (uses.filter fun u => !u.write).flatMap fun u => s.usePas x.b x.r x.slot u
  y.issued.any fun i =>
    !retired i &&
      ((((s.cmdUses i.a.word i.a.recs).filter fun u => u.write).flatMap (fun u => s.usePas x.b i.r i.slot u)
          ++ cpymWrites i.a.word i.a.recs i.a.aux).any (fun w => reads.any fun q => overlaps w.1 w.2 q.1 q.2)
        || (match cmdTile x.w, cmdTile i.a.word with
            | some (t, _, true), some (t', true, _) => t == t' && i.r.eng == .matrix
            | _, _ => false))

/-- A timed command's issue cycle has passed (R438). -/
def State.missed (s : State) (x : Ecx) : Bool := x.r.timed && x.r.due x.w < s.cycle x.b

/-- The conditions of R43 at the issue of a timed command. -/
def State.timedCheck (s : State) (x : Ecx) (c : CmdSpec) (recs : Recs) : Option Raise :=
  let y := s.bench x.b
  let engine := x.r.eng == .matrix || x.r.eng == .copy
  let away := recs.any (fun p => trSpace p.2 == 0) || cmdEop x.w == 0x26
  let busy := x.r.first && y.issued.any fun i => i.r.eng == x.r.eng && !i.r.timed && i.a.begun && !i.a.worked
    && !i.a.halted && !y.ringStops i.r
  if !engine || away then some (raiseOf Cause.cmdIllegal)
  else if busy || (c.eng.isSome && (8 ≤ y.held x.r.eng x.r.ctx || s.readsUnretired x recs)) then
    some (raiseOf Cause.timing)
  else none

/-- FILL of what a command reads or writes from one base (R105). -/
def fillOf (b : Nat) (u : Use) : Nat :=
  match trSpace u.tr with
  | 1 => if trMv u.tr then 24 else 20
  | 2 =>
    let v := u.base / 0x8000000
    if v = cellOf b then 80 else if v / 16 = dieOf b then 144 else 208
  | _ => 0

/-- The checks that precede an issue, from EOP on (R329, R382, R347), and before them the missed cycle of a timed command
(R438): the copies of the records, or the failure. -/
def State.issueCheck (s : State) (x : Ecx) (c : CmdSpec) : Except Raise Recs :=
  if s.missed x then .error (raiseOf Cause.timing)
  else if c.eng.any fun e => e != x.r.eng then .error (raiseOf Cause.cmdIllegal)
  else if x.w.toNat &&& c.dash != 0 then .error (raiseOf Cause.cmdIllegal)
  else
    match s.copyRecs x with
    | .error r => .error r
    | .ok recs =>
      match if x.r.timed then s.timedCheck x c recs else none with
      | some r => .error r
      | none =>
        if c.priv && !(s.desc x.r.ctx).priv then .error (raiseOf Cause.priv)
        else
          match s.ownCheck x c recs with
          | some r => .error r
          | none => .ok recs

/-- RP passes the command that issues (R36), which its engine's round-robin remembers (R39); WMK is set when WP − RP falls to
the watermark (R253). -/
def State.passHead (s : State) (x : Ecx) (act : List Active) : State :=
  let now := s.cycle x.b
  let crosses := x.r.wm < x.r.wp - x.r.rp && x.r.wp - (x.r.rp + 1) ≤ x.r.wm
  let s := s.modRing x.b x.slot fun r =>
    { r with rp := r.rp + 1, tookWait := false, head := none, lastT := now, slip := 0, first := false, active := r.active ++ act }
  let s := if x.r.timed then s else
    s.modBench x.b fun y => { y with lastHead := y.lastHead.set x.r.eng.code x.slot }
  if crosses then
    s.modBench x.b fun y => { y with csr := { y.csr with wmk := y.csr.wmk ||| BitVec.ofNat 16 (2 ^ x.slot) } }
  else s

/-- The head of a ring issues (R37, R39, R43, R329): it waits for a place, in a tiling ring for the ring's previous
command (R405), and for its semaphore; a failed check halts the
ring at it, with the unit it took. -/
def State.issueCmd (s : State) (x : Ecx) (c : CmdSpec) : State :=
  let y := s.bench x.b
  let now := s.cycle x.b
  if s.headFull x.b x.slot x.w then s
  else
    let wait := cmdF x.w 63 56
    let got : Bool × State :=
      if x.r.timed || wait = 0xFF || x.r.tookWait then (true, s)
      else
        match s.semTake x.b (y.physical x.r.ctx wait) (.ring x.slot) with
        | (true, s) => (true, s.modRing x.b x.slot fun r => { r with tookWait := true })
        | (false, s) => (false, s)
    match got with
    | (false, s) => s
    | (true, s) =>
      match s.issueCheck x c with
      | .error r => s.haltRing x.b x.slot x.num r
      | .ok recs =>
        let fill := maxList ((s.cmdUses x.w recs).map fun u => fillOf x.b u)
        let a : Active := { num := x.num, word := x.w, recs := recs, seq := y.nextSeq, start := now + fill, aux := c.atIssue s x }
        if c.eng.isNone then
          -- IDLE completes at issue (R330)
          ((s.passHead x [{ a with worked := true }]).retireCmd x.b x.slot { a with worked := true }).headArrives x.b x.slot
        else
          (c.enter ((s.passHead x [a]).modBench x.b fun y => { y with nextSeq := y.nextSeq + 1 }) x recs).headArrives
            x.b x.slot

/-! ## Work -/

/-- An issued command changed. -/
def State.setActive (s : State) (x : Ecx) (a : Active) : State :=
  s.modRing x.b x.slot fun r => { r with active := r.active.map fun i => if i.num = a.num then { a with seq := i.seq } else i }

/-- A command stands at a fault (R38, R100): its ring halts there. -/
def State.haltAt (s : State) (x : Ecx) (a : Active) (r : Raise) : State :=
  (s.setActive x { a with halted := true, off := true, sent := false }).haltRing x.b x.slot x.num r

/-- One unit of an issued command (R98, R100): it waits for its tile, finds its tile's state at its turn, and works. The
cycle of a timed command that waited for its tile counts from its turn (DEDUCED, log entry 94). -/
def State.workCmd (s : State) (x : Ecx) (a : Active) (c : CmdSpec) : State :=
  if s.tileWaits x.b x.slot a then s
  else
    let free := (s.bench x.b).workAt x.r.eng a
    let start := if x.r.timed then max free (s.cycle x.b) else free
    let begun : Except Raise (State × Active) :=
      if a.begun then .ok (s, a) else c.open_ s x { a with begun := true, start := start }
    match begun with
    | .error r => s.haltAt x a r
    | .ok (s, a) =>
      let s := s.takeTile x a
      let a := { a with off := false }
      match c.work s x a with
      | .wait s => s.setActive x { a with sent := s.dev.fabric.remotes.any fun q => q.who == x.who }
      | .fault s a r => s.haltAt x a r
      | .next s a n => s.setActive x { a with start := a.start + n, sent := false }
      | .done s a n drain =>
        let s := s.setActive x { a with worked := true, start := a.start + n, sent := false,
                                        retire := if x.r.timed then some (a.start + n + drain) else none }
        if x.r.timed then
          s.modBench x.b fun y => { y with arrayFree := y.arrayFree.set x.r.eng.code (a.start + n) }
        else s

/-- The command whose turn it is, as its word. -/
def State.ecx (s : State) (w : W64) : Option Ecx :=
  match s.cur with
  | .ring b slot num =>
    let r := s.ring b slot
    if r.bound then some ⟨b, slot, num, r, w⟩ else none
  | _ => none

/-- The turn of an engine command: the head issues; an issued command works (R37). -/
def State.command (s : State) (eop : BitVec 8) (c : Cmd) (spec : CmdSpec) : Host.Outcome State Fault Refusal :=
  match s.ecx (Encode.putCmd eop c) with
  | none => .fault .noIssuer
  | some x =>
    if x.num = x.r.rp + 1 then .next (s.issueCmd x spec)
    else
      match x.r.active.find? fun a => a.num == x.num with
      | some a => .next (s.workCmd x a spec)
      | none => .fault .noIssuer

/-- Bits `[hi:lo]` as a mask of F. -/
def fBits (hi lo : Nat) : Nat := (2 ^ (hi + 1 - lo) - 1) * 2 ^ lo

/-- IDLE (R330). -/
def idleSpec : CmdSpec :=
  { eng := none, dash := 0xFFFFFFFFFF, work := fun s _ a => .done s a 0 0 }

/-- The turn of IDLE. -/
def execIdle (c : Cmd) (s : State) : Host.Outcome State Fault Refusal := s.command 0x00 c idleSpec

/-- UNLISTED_EOP (R329): the head acquires WAIT and halts the ring with CMDILLEGAL. -/
def execUnlistedEop (w : W64) (s : State) : Host.Outcome State Fault Refusal :=
  match s.ecx w with
  | none => .fault .noIssuer
  | some x =>
    .next (s.issueCmd x { eng := some (if x.r.eng = .matrix then .copy else .matrix), dash := 0,
                          work := fun s _ a => .done s a 0 0 })

end Sys2Proof.Machine
end

