-- ==== Sys2Proof/Machine/Matrix.lean ====
section
/-! DEFINITION. The matrix engine: block conversion and accumulation (R72, R78 to R85), the tiles (R86), and the commands
MXZERO, MXLOOP, MXEDGE, MXST and MXLD (R93 to R105, R381 to R384). -/

namespace Sys2Proof.Machine

open Sys2Proof

/-! ## Blocks -/

/-- A K-block of one row of A or column of B (R79, R80): the window integers (for B sign times magnitude), the block
exponent, the true values and which elements are escapes, whether the array part is special (R82), the T5 scale, and the
counts of R73 with the side-list entries taken. -/
structure KBlock where
  q : List Int
  ex : Int := 0
  vals : List FVal := []
  esc : List Bool := []
  special : Bool := false
  scale : FVal := .fin false 1 0
  wz : Nat := 0
  extra : Nat := 0
  taken : Nat := 0
  deriving DecidableEq, Repr

/-- The window of R79 and R80: `top` is 14 for A, 7 or 15 for B. -/
def floatBlock (top : Int) (vs : List FVal) : KBlock :=
  let es := (vs.filter fun v => v.isFin && !v.isZero).map expOf
  let e := match es with
    | [] => 0
    | x :: xs => xs.foldl max x
  let q := vs.map fun v => if v.isFin then rneInt (v.scale (top - e)) else 0
  { q := q, ex := e - top, vals := vs, esc := vs.map fun _ => false, special := vs.any fun v => !v.isFin,
    wz := ((vs.zip q).filter fun p => p.1.isFin && !p.1.isZero && p.2 == 0).length }

/-- A block of INT8. -/
def int8Block (bs : List Byte) : KBlock :=
  let q := bs.map fun b => b.toInt
  { q := q, vals := q.map FVal.ofInt, esc := q.map fun _ => false }

/-- The elements of an MXFP4 block in order (R72): code, true value, whether it is an escape; `n` escapes so far. -/
def mxfp4Elems (x : Nat) (side : Option (List Byte)) : List Nat → Nat → List (Nat × FVal × Bool × Bool)
  | [], _ => []
  | c :: cs, n =>
    if c = 8 then
      match side with
      | none => (0, .fin true 0 0, false, false) :: mxfp4Elems x side cs n
      | some sd =>
        if n < 4 then
          (0, FVal.decode .bf16 (leNat ((sd.drop (2 * n)).take 2)), true, false) :: mxfp4Elems x side cs (n + 1)
        else (0, .fin false 0 0, false, true) :: mxfp4Elems x side cs n
    else (c, (e2m1Val c).scale ((x : Int) - 127), false, false) :: mxfp4Elems x side cs n

/-- The codes of 16 bytes of MXFP4, low half first (R74). -/
def nibbles (bs : List Byte) : List Nat := bs.flatMap fun b => [b.toNat % 16, b.toNat / 16]

/-- A block of MXFP4 with scale code `x` (R74, R79, R80). -/
def mxfp4Block (bs : List Byte) (x : Nat) (side : Option (List Byte)) : KBlock :=
  let es := mxfp4Elems x side (nibbles bs) 0
  { q := es.map fun e => rneInt ((e2m1Val e.1).scale 1), ex := (x : Int) - 128,
    vals := es.map fun e => if x = 255 then .nan false else e.2.1, esc := es.map fun e => e.2.2.1, special := x == 255,
    extra := (es.filter fun e => e.2.2.2).length, taken := (es.filter fun e => e.2.2.1).length }

/-- The elements of the formats that the window of `floatBlock` takes (R74, R89). -/
def floatElemsOf (fmt : Nat) (bs : List Byte) (x : Nat) : List FVal :=
  match fmt with
  | 3 => bs.map fun b => FVal.decode .e4m3 b.toNat
  | 4 => bs.map fun b => FVal.decode .e5m2 b.toNat
  | 5 => bs.map fun b => if x = 255 then .nan false else (FVal.decode .e4m3 b.toNat).scale ((x : Int) - 127)
  | _ => (List.range (bs.length / 2)).map fun i => FVal.decode .bf16 (leNat ((bs.drop (2 * i)).take 2))

/-- One block of a format but T5. -/
def oneBlock (fmt : Nat) (top : Int) (bs : List Byte) (x : Nat) (side : Option (List Byte)) : KBlock :=
  match fmt with
  | 0 => int8Block bs
  | 2 => mxfp4Block bs x side
  | _ => floatBlock top (floatElemsOf fmt bs x)

/-- The two blocks of a K-step of a row, with T5BAD (R75): `sc` are the two scale bytes, `side` the two side lists. -/
def stepBlocks (fmt : Nat) (isB : Bool) (bs sc : List Byte) (side : Option (List Byte)) : List KBlock × Nat :=
  if fmt = 1 then
    let (ts, bad) := t5Group bs
    let scale := FVal.decode .bf16 (leNat sc)
    let blk (q : List Int) : KBlock :=
      { q := q, vals := q.map FVal.ofInt, esc := q.map fun _ => false, special := scale.isNaN, scale := scale }
    ([blk (ts.take 32), blk (ts.drop 32)], bad)
  else
    let n := fmtBlock fmt
    let top : Int := if !isB then 14 else if fmt = 6 then 15 else 7
    ((List.range 2).map fun k =>
      oneBlock fmt top ((bs.drop (n * k)).take n) (sc.getD k 0).toNat (side.map fun s => (s.drop (8 * k)).take 8), 0)

/-- The block sum of R81. -/
def blockSum (a b : KBlock) : Int := (a.q.zip b.q).foldl (fun t p => t + p.1 * p.2) 0

/-- The side path of R83: the terms of the escapes, in element order. -/
def sidePath : List (FVal × FVal × Bool) → W32 → W32
  | [], bv => bv
  | (x, y, e) :: t, bv => sidePath t (if e then f32Add bv (f32Of (mulVal x y).1) else bv)

/-- The block value of R83 for B in format `fb`. A zero sum under a negative T5 scale gives −0 (DESIGN CHOICE, log entry
98). -/
def blockValue (fb : Nat) (a b : KBlock) : W32 :=
  let s := blockSum a b
  let bv := if a.special || b.special then f32NaN
    else if fb = 1 then f32Of (mulVal (.ofInt s) b.scale).1
    else f32Of ((FVal.ofInt s).scale (a.ex + b.ex))
  let es := (a.esc.zip b.esc).map fun p => p.1 || p.2
  if es.any id then sidePath (a.vals.zip (b.vals.zip es)) bv else bv

/-- One accumulation of an element (R83, R85), and whether it saturated. -/
def accumulate (int : Bool) (fb : Nat) (acc : W32) (a b : KBlock) : W32 × Nat :=
  if int then
    let v := acc.toInt + blockSum a b
    if v < -(2 ^ 31) then (0x80000000, 1) else if 2 ^ 31 ≤ v then (0x7FFFFFFF, 1) else (w32 (wrap 32 v), 0)
  else (f32Add acc (blockValue fb a b), 0)

/-- The pairs of R78. -/
def pairRuns (fa fb : Nat) (int : Bool) : Bool :=
  match fb with
  | 0 => fa == 0
  | 1 => fa == 0
  | _ => fb ≤ 6 && [2, 3, 4, 5, 6].contains fa && !int

/-- The plane count of R78. -/
def planesOf (fb : Nat) : Nat := if fb = 1 then 1 else if fb = 2 then 2 else if fb = 6 then 8 else 4

/-! ## Tiles -/

/-- The elements of a table from number `k` on, `n` of them. -/
def denseFrom : Nat → Nat → Tbl W32 → List W32
  | 0, _, _ => []
  | n + 1, k, [] => 0 :: denseFrom n (k + 1) []
  | n + 1, k, (i, v) :: t => if i = k then v :: denseFrom n (k + 1) t else 0 :: denseFrom n (k + 1) ((i, v) :: t)

/-- The 4,096 elements of a tile, row by row (R86). -/
def Tile.dense (t : Tile) : List W32 := denseFrom 4096 0 t.elems

/-- The table of nonzero elements of a list, numbered from `k`. -/
def sparseFrom (k : Nat) : List W32 → Tbl W32
  | [] => []
  | v :: t => if v = 0 then sparseFrom (k + 1) t else (k, v) :: sparseFrom (k + 1) t

/-- A tile of a bench (R86). -/
def State.tile (s : State) (b t : Nat) : Tile := (s.bench b).tiles.get t {}

/-- A tile changed. -/
def State.modTile (s : State) (b t : Nat) (f : Tile → Tile) : State :=
  s.modBench b fun x => { x with tiles := x.tiles.upd t {} f }

/-- An undetected error of the array leaves wrong values in a tile (R99): open ones; KIND and POISON stay. -/
def State.softError (s : State) (b t : Nat) : State :=
  let n := s.free
  ({ s with free := n + 4096 }).modTile b t fun x =>
    { x with elems := sparseFrom 0 ((List.range 4096).map fun i => w32 (Config.freeOf 24 (n + i) i)) }

/-- A K-step accumulated into a tile (R84): rows of A and columns of B, two blocks each; the tile, and SATI32. -/
def Tile.accumulate (t : Tile) (fb : Nat) (rows cols : List (List KBlock)) : Tile × Nat :=
  let d := t.dense
  let res := (rows.zip (List.range 64)).flatMap fun r =>
    (cols.zip ((d.drop (64 * r.2)).take 64)).map fun c =>
      (r.1.zip c.1).foldl (fun (p : W32 × Nat) ab =>
        let (v, n) := Sys2Proof.Machine.accumulate t.int fb p.1 ab.1 ab.2
        (v, p.2 + n)) (c.2, 0)
  ({ t with elems := sparseFrom 0 (res.map (·.1)) }, (res.map (·.2)).foldl (· + ·) 0)

/-- ACC of a matrix command. -/
def cmdAcc (w : W64) : Nat := cmdF w 22 20

/-! ## MXLOOP -/

/-- The format of a record's operand, and one above the tag range it resolves through, 0 for none (R89, R119); `many` says
that the command uses its STRIDE. -/
def Ecx.resolve (x : Ecx) (s : State) (trec : Nat) (r : BitVec 512) (aux : Nat) (many : Bool) :
    Except Raise ((Nat × Nat) × State) :=
  if trFmt r != 7 || trMv r then .ok ((trFmt r, 0), s)
  else
    let bad (c : Nat) : Raise := { cause := c, va := trBase r, trec := trec, aux := aux, access := 1 + 3 * 32 }
    match s.translateCtx x.tlb x.b x.r.ctx (trBase r) .read with
    | .error c => .error (bad c)
    | .ok (t, s) =>
      match s.tagOf t.pa with
      | none => .error (bad Cause.cmdIllegal)
      | some n =>
        let fmt := (s.range n).fmt
        -- a BF16 operand is aligned whichever way its format comes (R90)
        if fmt = 6 && (trBase r % 2 != 0 || (many && trStride r % 2 != 0)) then .error (bad Cause.align) else .ok ((fmt, n + 1), s)

/-- The physical address of byte `o` of a run in pieces. -/
def pieceAt : List Piece → Nat → Nat
  | [], _ => 0
  | p :: ps, o => if o < p.n then p.pa + o else pieceAt ps (o - p.n)

/-- SCB + ρ × SRS + β × z (R119) of the block at a physical address. With RSB = 0, which R118 does not refuse, the range is taken
as one row: ρ = 0 (DESIGN CHOICE, log entry 107). -/
def Range.scaleOf (r : Range) (pa : Nat) : Nat :=
  let rsb := bitsOf r.word.toNat 159 128
  let srs := bitsOf r.word.toNat 191 160
  let o := pa - r.base
  let size := if r.fmt = 1 then 13 else fmtBlock r.fmt
  r.scb + o / rsb * srs + o % rsb / size * (if r.fmt = 1 then 2 else 1)

/-- A run read through a tag range (R119): CMDILLEGAL where it leaves the range; with the scale bytes of its blocks. In the
source image (R180) the elements stand by virtual address, and the scale bytes after them by physical address (DESIGN
CHOICE, log entry 107). -/
def Ecx.getTagged (x : Ecx) (e : Em) (trec : Nat) (fmt rng a n blocks : Nat) (img : Bool) :
    Except Raise ((List Byte × List Byte) × Em) :=
  let r := e.m.s.range (rng - 1)
  let through (q : Raise) : Raise := q.through trec 1
  match x.pieces e.m.s false .read a n with
  | .error q => .error (through q)
  | .ok (ps, s) =>
    let in_ (p : Piece) : Bool := r.covers p.pa && r.covers (p.pa + p.n - 1)
    match ps.find? fun p => !in_ p with
    | some p =>
      let k := if r.covers p.pa then r.base + 4096 * r.size - p.pa else 0
      .error (through { cause := Cause.cmdIllegal, va := p.va + k })
    | none =>
      let z := if fmt = 1 then 2 else 1
      let size := if fmt = 1 then 13 else fmtBlock fmt
      let scs : List Piece := if scaleBytes fmt 1 = 0 then [] else (List.range blocks).map fun k =>
        { va := a + size * k, pa := r.scaleOf (pieceAt ps (size * k)), n := z }
      match ({ e.m with s := s } : Mu).readAll none false ps with
      | .error q => .error (through q)
      | .ok (bs, m) =>
        match m.readAll none false scs with
        | .error q => .error (through q)
        | .ok (sc, m) =>
          let a' := if img then
              scs.foldl (fun (v : Active × List Byte) p =>
                ({ v.1 with srcImg := putImg v.1.srcImg (2 ^ 64 + p.pa) (v.2.take p.n) }, v.2.drop p.n))
                ({ e.a with srcImg := putImg e.a.srcImg a bs }, sc) |>.1
            else e.a
          .ok ((bs, sc), { m := m, a := a' })

/-- One access of the fetch of a K-step (R89, R92, R98): a run of A or of B; with `blocks` above 0, a row of so many blocks
that is read through a tag range with its scales (R119). -/
structure Fetched where
  isB : Bool
  addr : Nat
  n : Nat
  blocks : Nat := 0
  deriving DecidableEq, Repr

/-- How an MXLOOP reads one operand: its record, its format and its tag range, as `Ecx.resolve` gives them. -/
structure Operand where
  isB : Bool
  trec : Nat
  r : BitVec 512
  fmt : Nat
  rng : Nat
  deriving DecidableEq, Repr

/-- Whether an operand is read through the marver (R91); B is not (R96). -/
def Operand.mv (o : Operand) : Bool := !o.isB && trMv o.r

/-- Whether an operand has side lists (R89). -/
def Operand.xl (o : Operand) : Bool := o.rng == 0 && trXl o.r && !o.mv

/-- The runs of row `i` of K-step `k` of an operand (R89, R92): elements, scales, side lists; none of a masked row. -/
def Operand.rowRuns (o : Operand) (i k : Nat) : List (Nat × Nat) :=
  if o.mv then
    match (Marver.of o.r).rowAddr (trBase o.r) (marverSize o.r) i k with
    | none => []
    | some a => [(a, 64 * marverSize o.r)]
  else
    let n := fmtBytes o.fmt 2
    let z := scaleBytes o.fmt 2
    [(trBase o.r + i * trStride o.r + k * n, n)]
      ++ (if z = 0 || o.rng != 0 then [] else [(trSbase o.r + i * trSstride o.r + k * z, z)])
      ++ (if o.xl then [(trXbase o.r + i * trXstride o.r + 16 * k, 16)] else [])

/-- The accesses of row `i` of K-step `k` of an operand, cut as the engine makes them. -/
def Operand.fetches (o : Operand) (i k : Nat) : List Fetched :=
  let runs := o.rowRuns i k
  if o.rng != 0 then runs.map fun r => ⟨o.isB, r.1, r.2, if o.fmt = 1 then 1 else 2⟩
  else runs.flatMap fun r => (cutRun r.1 r.2).map fun c => ⟨o.isB, c.1, c.2, 0⟩

/-- The bytes that row `i` of K-step `k` of an operand has among the fetched ones: elements, scales, side lists. -/
def Operand.lens (o : Operand) (i k : Nat) : List Nat :=
  match o.rowRuns i k with
  | [] => [0, 0, 0]
  | r :: _ => [r.2, if o.mv then 0 else scaleBytes o.fmt 2, if o.xl then 16 else 0]

/-- A row of a K-step formed from its fetched bytes: its blocks, T5BAD, and the bytes left. Masked rows are zeros (R92). -/
def Operand.row (o : Operand) (i k : Nat) (bs : List Byte) : (List KBlock × Nat) × List Byte :=
  let ns := o.lens i k
  let n0 := ns.getD 0 0
  let n1 := ns.getD 1 0
  let n2 := ns.getD 2 0
  let elems := if n0 = 0 then List.replicate (64 * marverSize o.r) 0 else bs.take n0
  let side := if o.xl then some ((bs.drop (n0 + n1)).take n2) else none
  (stepBlocks o.fmt o.isB elems ((bs.drop n0).take n1) side, bs.drop (n0 + n1 + n2))

/-- The 64 rows of a K-step of an operand, with T5BAD and the bytes left. -/
def Operand.rows (o : Operand) (k : Nat) : List Nat → List Byte → (List (List KBlock) × Nat) × List Byte
  | [], bs => (([], 0), bs)
  | i :: is, bs =>
    let ((ks, bad), bs) := o.row i k bs
    let ((rest, n), bs) := o.rows k is bs
    ((ks :: rest, bad + n), bs)

/-- One access of a fetch is made: its bytes; of a tagged row, the bytes and the scales. -/
def Ecx.fetchOne (x : Ecx) (e : Em) (o : Operand) (f : Fetched) : Except Raise (List Byte × Em) :=
  if f.blocks != 0 then
    (x.getTagged e o.trec o.fmt o.rng f.addr f.n f.blocks false).map fun p => (p.1.1 ++ p.1.2, p.2)
  else x.get e o.trec o.r f.addr f.n false false

/-- Accesses of a fetch are made in turn, up to a fault or one that waits (R100): what was fetched stays. -/
def Ecx.fetchAll (x : Ecx) (k : Nat) (oa ob : Operand) : List Fetched → Em → Em × Option Raise
  | [], e => (e, none)
  | f :: fs, e =>
    match x.fetchOne e (if f.isB then ob else oa) f with
    | .error q => (e, some { q with aux := k + (if f.isB then 4096 else 0) })
    | .ok (bs, e) =>
      if e.m.waits then (e, none)
      else x.fetchAll k oa ob fs { e with a := { e.a with sub := e.a.sub + 1, fetched := e.a.fetched ++ bs } }

/-- What an MXLOOP finds at its turn (R78, R96, R383): its formats, the pair and POISON; with FL.Z the tile is zeroed, once.
The command keeps its formats and ranges. -/
def mxloopOpen (s : State) (x : Ecx) (a : Active) : Except Raise (State × Active) :=
  let acc := cmdAcc x.w
  let t := s.tile x.b acc
  let ta := cmdF x.w 39 32
  let tb := cmdF x.w 31 24
  match x.resolve s ta (a.recs.get ta 0) 0 true with
  | .error r => .error r
  | .ok ((fa, ra), s) =>
    match x.resolve s tb (a.recs.get tb 0) 4096 true with
    | .error r => .error r
    | .ok ((fb, rb), s) =>
      if !pairRuns fa fb t.int then .error (raiseOf Cause.cmdIllegal)
      else if bitOf x.w.toNat 0 then
        .ok (s.modTile x.b acc fun t => { t with elems := [], poison := false }, { a with aux := [fa, ra, fb, rb] })
      else if t.poison then .error (raiseOf Cause.poison)
      else .ok (s, { a with aux := [fa, ra, fb, rb] })

/-- The A operand of an MXLOOP, with the format found at its turn. -/
def Active.opA (a : Active) : Operand :=
  let t := cmdF a.word 39 32
  ⟨false, t, a.recs.get t 0, a.aux.getD 0 0, a.aux.getD 1 0⟩

/-- The B operand of an MXLOOP. -/
def Active.opB (a : Active) : Operand :=
  let t := cmdF a.word 31 24
  ⟨true, t, a.recs.get t 0, a.aux.getD 2 0, a.aux.getD 3 0⟩

/-- A fetched K-step is accumulated (R96): the command goes on to the next one `cycles` later, or its work is done. -/
def mxloopAdd (s : State) (x : Ecx) (a : Active) (rows cols : List (List KBlock)) (cycles : Nat) : EWork :=
  let acc := cmdAcc x.w
  let (t, sat) := (s.tile x.b acc).accumulate (a.aux.getD 2 0) rows cols
  let s := (s.modTile x.b acc fun _ => t).count x 0 0 0 sat
  let a' := { a with idx := a.idx + 1, sub := 0, fetched := [], rerun := 0 }
  if a.idx = cmdF x.w 19 8 then .done s a' cycles (if bitOf x.w.toNat 1 then 14 else 10) else .next s a' cycles

/-- A K-step whose operands are fetched is worked (R96, R99). With FL.CK the outcome of the check is an open choice: no
mismatch; or one, whose rerun begins when the first run's cycles are over (R44) and mends it or not. Without FL.CK an
undetected error may leave the tile with open values: an open choice (R99). -/
def mxloopWork (s : State) (x : Ecx) (a : Active) : EWork :=
  let acc := cmdAcc x.w
  let k := a.idx
  let ((rows, _), rest) := a.opA.rows k (List.range 64) a.fetched
  let ((cols, bad), _) := a.opB.rows k (List.range 64) rest
  let all := rows.flatten ++ cols.flatten
  let sum (f : KBlock → Nat) : Nat := all.foldl (fun n b => n + f b) 0
  let len := max (planesOf a.opB.fmt) (sum (·.taken))
  match a.rerun with
  | 0 =>
    let s := s.count x (sum (·.wz)) (sum (·.extra)) bad 0
    let (n, s) := s.fresh
    if bitOf x.w.toNat 1 then
      if n % 2 = 0 then mxloopAdd s x a rows cols len else .next s { a with rerun := 1 } len
    else
      match mxloopAdd s x a rows cols len with
      | .next s a c => .next (if n % 2 = 0 then s else s.softError x.b acc) a c
      | .done s a c d => .done (if n % 2 = 0 then s else s.softError x.b acc) a c d
      | w => w
  | 1 =>
    let s := if x.r.timed then s.modRing x.b x.slot fun r => { r with slip := r.slip + len } else s
    .next s { a with rerun := 2 } len
  | _ =>
    let (n, s) := s.fresh
    if n % 2 = 0 then mxloopAdd s x a rows cols 0
    else
      .fault (s.modTile x.b acc fun t => { t with poison := true }) { a with rerun := 0 }
        { cause := Cause.checksum, aux := k }

/-- A unit of an MXLOOP (R96, R98, R100): one access of the fetch of its K-step (R103), in a timed ring all of them at the
cycle of the K-step (R45, R154); or, with all fetched, the K-step's work. -/
def mxloopStep (s : State) (x : Ecx) (a : Active) : EWork :=
  let fs := ((List.range 64).flatMap fun i => a.opA.fetches i a.idx) ++ (List.range 64).flatMap fun j => a.opB.fetches j a.idx
  match fs.drop a.sub with
  | [] => mxloopWork s x a
  | f :: rest =>
    let (e, bad) := x.fetchAll a.idx a.opA a.opB (if x.r.timed then f :: rest else [f])
      { m := { s := s, who := x.who, die := dieOf x.b }, a := a }
    match bad with
    | some q => .fault (s.dropRemotes x.who) e.a q
    | none =>
      if e.m.waits then .wait (e.m.send s)
      else if x.r.timed then mxloopWork (e.m.s.dropRemotes x.who) x e.a
      else .next (e.m.s.dropRemotes x.who) e.a 0

/-- MXLOOP (R96). -/
def mxloopSpec : CmdSpec :=
  { eng := some .matrix, dash := fBits 23 23 + fBits 7 4,
    illegal := fun _ x recs =>
      let ra := recs.get (cmdF x.w 39 32) 0
      let m := Marver.of ra
      trMv ra && cmdF x.w 19 8 + 1 != m.kh * m.kw * m.c / 64,
    misaligned := fun x recs =>
      let ra := recs.get (cmdF x.w 39 32) 0
      let rb := recs.get (cmdF x.w 31 24) 0
      let odd (r : BitVec 512) : Bool :=
        (trFmt r == 6 && (trBase r % 2 != 0 || (!trMv r && trStride r % 2 != 0)))
          || (trFmt r == 1 && !trMv r && (trSbase r % 2 != 0 || trSstride r % 2 != 0))
      odd ra || odd rb,
    open_ := mxloopOpen, work := mxloopStep }

/-- The turn of MXLOOP. -/
def execMxloop (c : Cmd) (s : State) : Host.Outcome State Fault Refusal := s.command 0x11 c mxloopSpec

/-! ## The other commands -/

/-- MXZERO (R94). -/
def mxzeroSpec : CmdSpec :=
  { eng := some .matrix, dash := fBits 39 23 + fBits 19 1,
    work := fun s x a =>
      .done (s.modTile x.b (cmdAcc x.w) fun _ => { elems := [], int := bitOf x.w.toNat 0, poison := false }) a 1 0 }

/-- The turn of MXZERO. -/
def execMxzero (c : Cmd) (s : State) : Host.Outcome State Fault Refusal := s.command 0x10 c mxzeroSpec

/-- The bytes of a row of a tile as MXST writes them (R95). -/
def tileRow (t : Tile) (ofmt i : Nat) : List Byte :=
  ((t.dense.drop (64 * i)).take 64).flatMap fun v =>
    match ofmt with
    | 0 => leBytes 4 v.toNat
    | 1 => leBytes 2 (roundVal .bf16 0 (f32Val v)).1
    | _ => leBytes 2 (roundVal .f16 0 (f32Val v)).1

/-- MXST (R95, R381). -/
def mxstSpec : CmdSpec :=
  let ofmt (x : Ecx) : Nat := cmdF x.w 19 18
  { eng := some .matrix, dash := fBits 31 23 + fBits 16 0,
    illegal := fun _ x recs =>
      let r := recs.get (cmdF x.w 39 32) 0
      ofmt x == 3 || trStride r < (if ofmt x = 0 then 256 else 128),
    misaligned := fun x recs =>
      let r := recs.get (cmdF x.w 39 32) 0
      let n := if ofmt x = 0 then 4 else 2
      trBase r % n != 0 || trStride r % n != 0,
    open_ := fun s x a =>
      let t := s.tile x.b (cmdAcc x.w)
      if t.int && ofmt x != 0 then .error (raiseOf Cause.cmdIllegal)
      else if t.poison then .error (raiseOf Cause.poison)
      else .ok (s, a),
    work := fun s x a =>
      let trec := cmdF x.w 39 32
      let r := a.recs.get trec 0
      let i := a.idx
      x.unit s a i (fun e => x.put e trec r (trBase r + i * trStride r) (tileRow (e.m.s.tile x.b (cmdAcc x.w)) (ofmt x) i)
          false false) fun e =>
        let a := { e.a with idx := i + 1 }
        let n := if ofmt x = 0 then 2 else 1
        if i = 63 then
          .done (if bitOf x.w.toNat 17 then e.m.s.modTile x.b (cmdAcc x.w) fun t => { t with elems := [] } else e.m.s) a n 12
        else .next e.m.s a n }

/-- The turn of MXST. -/
def execMxst (c : Cmd) (s : State) : Host.Outcome State Fault Refusal := s.command 0x13 c mxstSpec

/-- MXLD (R94). KIND is set and POISON cleared as it begins on the tile (DESIGN CHOICE, log entry 96). -/
def mxldSpec : CmdSpec :=
  { eng := some .matrix, dash := fBits 31 23 + fBits 19 17 + fBits 15 0,
    misaligned := fun x recs =>
      let r := recs.get (cmdF x.w 39 32) 0
      trBase r % 4 != 0 || trStride r % 4 != 0,
    open_ := fun s x a =>
      .ok (s.modTile x.b (cmdAcc x.w) fun t => { t with int := bitOf x.w.toNat 16, poison := false }, a),
    work := fun s x a =>
      let trec := cmdF x.w 39 32
      let r := a.recs.get trec 0
      let i := a.idx
      match x.get { m := { s := s, who := x.who, die := dieOf x.b }, a := a } trec r (trBase r + i * trStride r) 256
          false false with
      | .error q => .fault (s.dropRemotes x.who) a { q with aux := i }
      | .ok (bs, e) =>
        if e.m.waits then .wait (e.m.send s)
        else
          let row := (List.range 64).map fun j => w32 (leNat ((bs.drop (4 * j)).take 4))
          let s := (e.m.s.dropRemotes x.who).modTile x.b (cmdAcc x.w) fun t =>
            let d := t.dense
            { t with elems := sparseFrom 0 (d.take (64 * i) ++ row ++ d.drop (64 * i + 64)) }
          let a := { e.a with idx := i + 1 }
          if i = 63 then .done s a 2 4 else .next s a 2 }

/-- The turn of MXLD. -/
def execMxld (c : Cmd) (s : State) : Host.Outcome State Fault Refusal := s.command 0x14 c mxldSpec

/-- Coverage of a triangle at a sample (R97): every edge function is at least 0. -/
def covered (edges : List Byte) (x y : Nat) : Bool :=
  (List.range 3).all fun e =>
    let w := leNat ((edges.drop (16 * e)).take 9)
    0 ≤ sext 16 (bitsOf w 15 0) * (x : Int) + sext 16 (bitsOf w 31 16) * (y : Int) + sext 40 (bitsOf w 71 32)

/-- MXEDGE (R97, R381): a sample group is 64 samples. AUX of its faults is the sample group (DESIGN CHOICE, log entry 97). -/
def mxedgeSpec : CmdSpec :=
  { eng := some .matrix, dash := fBits 15 15 + fBits 3 0, permIllegal := true,
    illegal := fun _ x recs =>
      recs.any (fun p => trSpace p.2 != 1) || 20 < cmdF x.w 14 10
        || trStride (recs.get (cmdF x.w 23 16) 0) < 8 * (cmdF x.w 9 4 + 1),
    work := fun s x a =>
      let te := cmdF x.w 39 32
      let ts := cmdF x.w 31 24
      let td := cmdF x.w 23 16
      let re := a.recs.get te 0
      let rs := a.recs.get ts 0
      let ro := a.recs.get td 0
      let g := a.idx
      let nt := cmdF x.w 14 10 + 1
      x.unit s a g (fun e =>
        match x.get e te re (trBase re) (48 * nt) false false with
        | .error q => .error q
        | .ok (es, e) =>
          match x.get e ts rs (trBase rs + 128 * g) 128 false false with
          | .error q => .error q
          | .ok (ps, e) =>
            foldE (fun e t =>
              let bit (n : Nat) : Bool :=
                covered ((es.drop (48 * t)).take 48) (ps.getD (2 * n) 0).toNat (ps.getD (2 * n + 1) 0).toNat
              let bits := (List.range 64).foldl (fun v n => if bit n then v + 2 ^ n else v) 0
              x.put e td ro (trBase ro + t * trStride ro + 8 * g) (leBytes 8 bits) false false) (List.range nt) e)
        fun e =>
          let a := { e.a with idx := g + 1 }
          if g = cmdF x.w 9 4 then .done e.m.s a 4 6 else .next e.m.s a 4 }

/-- The turn of MXEDGE. -/
def execMxedge (c : Cmd) (s : State) : Host.Outcome State Fault Refusal := s.command 0x12 c mxedgeSpec

end Sys2Proof.Machine
end

