-- ==== Sys2Proof/Machine/Copy.lean ====
section
/-! DEFINITION. The copy engine: CPY, CPYT, CPYQ, CPYX, CPYF, CPYC and CPYM (R177 to R184, R346 to R350). -/

namespace Sys2Proof.Machine

open Sys2Proof

/-- How a copy command moves its destination image: the image's bytes in ascending address order, the bytes that are never
split, its cycles in a timed ring (R183), whether each cycle moves W bytes or the atoms are spread over the cycles, and the
move of the image bytes from `lo` below `hi`. -/
structure CopyPlan where
  size : Nat
  atom : Nat
  total : Nat
  byBytes : Option Nat
  move : Em → Nat → Nat → Except Raise Em

/-- Pieces of the image bytes `lo` to `hi` in rows of `n` bytes: row, offset in it, length. -/
def slices (n lo hi : Nat) : List (Nat × Nat × Nat) :=
  if hi ≤ lo then [] else
  (List.range ((hi - 1) / n - lo / n + 1)).map fun k =>
    let i := lo / n + k
    let a := max lo (i * n)
    (i, a - i * n, min hi ((i + 1) * n) - a)

/-- W of R183: 64 with every operand in bench store, else 32. -/
def copyW (recs : Recs) : Nat := if recs.all fun p => trSpace p.2 == 1 then 64 else 32

/-- The bytes that a cycle of a timed command moves (R154, R183). -/
def CopyPlan.cycle (p : CopyPlan) (c : Nat) : Nat × Nat :=
  match p.byBytes with
  | some w => (min p.size (w * c), min p.size (w * (c + 1)))
  | none =>
    let n := p.size / p.atom
    (p.atom * cdiv (c * n) p.total, p.atom * cdiv ((c + 1) * n) p.total)

/-- TRS's record has a source CRC, TRD's a destination CRC (R180). -/
def hasSrcCrc (r : BitVec 512) : Bool := trXbase r != 0 && !trXl r

/-- The bytes of an image in ascending address order. -/
def imgBytes (t : Tbl Byte) : List Byte := t.map (·.2)

/-- The checksums of a command, written last (R180): of the destination and of the source, or for CPYC that of the source at
TRD.BASE. -/
def Ecx.putCrcs (x : Ecx) (e : Em) (ts td : Nat) (only onlyLocal : Bool) : Except Raise Em :=
  let rs := e.a.recs.get ts 0
  let rd := e.a.recs.get td 0
  let src := leBytes 4 (crc32c (imgBytes e.a.srcImg)).toNat
  if only then x.put e td rd (trBase rd) src onlyLocal false
  else
    let e1 := if trXbase rd != 0 then
        x.put e td rd (trXbase rd) (leBytes 4 (crc32c (imgBytes e.a.dstImg)).toNat) onlyLocal false
      else .ok e
    match e1 with
    | .error q => .error q
    | .ok e => if ts != 256 && hasSrcCrc rs then x.put e ts rs (trXbase rs) src onlyLocal false else .ok e

/-- A unit of a copy command: a 4 KiB chunk of the image, whole or not at all (R178, R184), or in a timed ring the bytes of
one cycle; then the checksums. `ts` is 256 where there is no source record; the AUX of a fault is the chunk's number, or with
`own` what the move gives. -/
def Ecx.copyUnit (x : Ecx) (s : State) (a : Active) (p : CopyPlan) (ts td : Nat) (only : Bool) (own : Bool := false) :
    EWork :=
  let n := if x.r.timed then p.total else cdiv p.size 4096
  if a.idx < n then
    let (lo, hi) := if x.r.timed then p.cycle a.idx else (4096 * a.idx, min p.size (4096 * (a.idx + 1)))
    x.unit s a (if own then 0 else lo / 4096) (fun e => p.move e lo hi) fun e =>
      .next e.m.s { e.a with idx := a.idx + 1, mid := x.r.timed && hi < p.size && hi % 4096 != 0 } 1
  else
    x.unit s a (cdiv p.size 4096) (fun e => x.putCrcs e ts td only (x.r.eng != .fabric)) fun e => .done e.m.s e.a 0 8

/-- Rows copied from TRS to TRD (CPY), with `n` bytes a row. -/
def Ecx.rowsPlan (x : Ecx) (recs : Recs) (ts td rows n : Nat) (only fromLocal toLocal : Bool) : CopyPlan :=
  let rs := recs.get ts 0
  let rd := recs.get td 0
  { size := rows * n, atom := 16, total := cdiv (rows * n) (copyW recs), byBytes := some (copyW recs),
    move := fun e lo hi => foldE (fun e sl =>
      let (i, o, len) := sl
      match x.get e ts rs (trBase rs + i * trStride rs + o) len fromLocal (only || hasSrcCrc rs) with
      | .error q => .error q
      | .ok (bs, e) =>
        if only then .ok e
        else x.put e td rd (trBase rd + i * trStride rd + o) bs toLocal (trXbase rd != 0)) (slices n lo hi) e }

/-- TRS of a command. -/
def cmdTrs (w : W64) : Nat := cmdF w 39 32
/-- TRD of a copy command. -/
def cmdTrd (w : W64) : Nat := cmdF w 31 24

/-- A checksum address of a record that is not a multiple of 4 (R180). -/
def crcOdd (rs rd : BitVec 512) : Bool := (hasSrcCrc rs && trXbase rs % 4 != 0) || trXbase rd % 4 != 0

/-- BASE of a record, or STRIDE where the command uses it, which one of a single row does not, is no multiple of `n`
(R178, R347). -/
def baseOdd (r : BitVec 512) (n rows : Nat) : Bool := trBase r % n != 0 || (1 < rows && trStride r % n != 0)

/-- A record of a command with the side on which its BASE has to lie (R271, R347). -/
structure Side where
  trec : Nat
  write : Bool
  near : Bool

/-- The side of a VIRT record is known once its BASE is translated (R359): CMDILLEGAL where it is to be local and is not, and
PERM where no port leads to its package (R265). -/
def Ecx.side (x : Ecx) (recs : Recs) (s : State) (d : Side) : Except Raise State :=
  let r := recs.get d.trec 0
  if trSpace r != 0 then .ok s
  else
    let bad (c : Nat) : Raise :=
      { cause := c, va := trBase r, trec := d.trec, access := (if d.write then 2 else 1) + 3 * 32 }
    match s.translateCtx x.tlb x.b x.r.ctx (trBase r) (if d.write then .write else .read) with
    | .error c => .error (bad c)
    | .ok (t, s) =>
      match s.place t.pa with
      | .remote pkg =>
        if d.near then .error (bad Cause.cmdIllegal)
        else
          match s.linkTo (dieOf x.b) pkg with
          | some c => .error (bad c)
          | none => .ok s
      | _ => .ok s

/-- The sides of a command's records, which the engine finds as it begins (R347, R359). -/
def openSides (ds : Ecx → List Side) (s : State) (x : Ecx) (a : Active) : Except Raise (State × Active) :=
  (foldE (x.side a.recs) (ds x) s).map fun s => (s, a)

/-- CPY (R178, R347, R348). -/
def cpySpec : CmdSpec :=
  let rows (x : Ecx) : Nat := cmdF x.w 23 12 + 1
  let n (x : Ecx) : Nat := 16 * (cmdF x.w 11 0 + 1)
  { eng := some .copy, dash := 0,
    misaligned := fun x recs =>
      let rs := recs.get (cmdTrs x.w) 0
      let rd := recs.get (cmdTrd x.w) 0
      baseOdd rs 16 (rows x) || baseOdd rd 16 (rows x) || crcOdd rs rd,
    late := fun x recs => 1 < rows x && trStride (recs.get (cmdTrd x.w) 0) < n x,
    open_ := openSides fun x => [⟨cmdTrs x.w, false, true⟩, ⟨cmdTrd x.w, true, true⟩],
    work := fun s x a =>
      x.copyUnit s a (x.rowsPlan a.recs (cmdTrs x.w) (cmdTrd x.w) (rows x) (n x) false true true)
        (cmdTrs x.w) (cmdTrd x.w) false }

/-- The turn of CPY. -/
def execCpy (c : Cmd) (s : State) : Host.Outcome State Fault Refusal := s.command 0x20 c cpySpec

/-- CPYF (R178, R347, R348). -/
def cpyfSpec : CmdSpec :=
  let rows (x : Ecx) : Nat := cmdF x.w 23 12 + 1
  let n (x : Ecx) : Nat := 16 * (cmdF x.w 11 0 + 1)
  { eng := some .copy, dash := 0,
    misaligned := fun x recs =>
      let rd := recs.get (cmdTrd x.w) 0
      baseOdd rd 16 (rows x) || trXbase rd % 4 != 0,
    late := fun x recs => 1 < rows x && trStride (recs.get (cmdTrd x.w) 0) < n x,
    open_ := openSides fun x => [⟨cmdTrd x.w, true, true⟩],
    work := fun s x a =>
      let td := cmdTrd x.w
      let rd := a.recs.get td 0
      let w := copyW a.recs
      let fill (m : Nat) : List Byte := List.replicate m (BitVec.ofNat 8 (cmdF x.w 39 32))
      x.copyUnit s a
        { size := rows x * n x, atom := 16, total := cdiv (rows x * n x) w, byBytes := some w,
          move := fun e lo hi => foldE (fun e sl =>
            x.put e td rd (trBase rd + sl.1 * trStride rd + sl.2.1) (fill sl.2.2) true (trXbase rd != 0))
            (slices (n x) lo hi) e }
        256 td false }

/-- The turn of CPYF. -/
def execCpyf (c : Cmd) (s : State) : Host.Outcome State Fault Refusal := s.command 0x24 c cpyfSpec

/-- CPYC (R178, R347, R348): only the checksum of the source is written. -/
def cpycSpec : CmdSpec :=
  let rows (x : Ecx) : Nat := cmdF x.w 23 12 + 1
  let n (x : Ecx) : Nat := 16 * (cmdF x.w 11 0 + 1)
  { eng := some .copy, dash := 0,
    misaligned := fun x recs =>
      baseOdd (recs.get (cmdTrs x.w) 0) 16 (rows x) || trBase (recs.get (cmdTrd x.w) 0) % 4 != 0,
    open_ := openSides fun x => [⟨cmdTrs x.w, false, true⟩, ⟨cmdTrd x.w, true, true⟩],
    work := fun s x a =>
      x.copyUnit s a (x.rowsPlan a.recs (cmdTrs x.w) (cmdTrd x.w) (rows x) (n x) true true true)
        (cmdTrs x.w) (cmdTrd x.w) true }

/-- The turn of CPYC. -/
def execCpyc (c : Cmd) (s : State) : Host.Outcome State Fault Refusal := s.command 0x25 c cpycSpec

/-- CPYT (R178, R347, R348). -/
def cpytSpec : CmdSpec :=
  let rows (x : Ecx) : Nat := cmdF x.w 23 12 + 1
  let cols (x : Ecx) : Nat := cmdF x.w 11 2 + 1
  let es (x : Ecx) : Nat := 2 ^ cmdF x.w 1 0
  { eng := some .copy, dash := 0,
    misaligned := fun x recs =>
      let rs := recs.get (cmdTrs x.w) 0
      let rd := recs.get (cmdTrd x.w) 0
      baseOdd rs (es x) (rows x) || baseOdd rd (es x) (cols x) || crcOdd rs rd,
    late := fun x recs => 1 < cols x && trStride (recs.get (cmdTrd x.w) 0) < rows x * es x,
    open_ := openSides fun x => [⟨cmdTrs x.w, false, true⟩, ⟨cmdTrd x.w, true, true⟩],
    work := fun s x a =>
      let ts := cmdTrs x.w
      let td := cmdTrd x.w
      let rs := a.recs.get ts 0
      let rd := a.recs.get td 0
      let w := copyW a.recs
      let z := es x
      let size := rows x * cols x * z
      x.copyUnit s a
        { size := size, atom := z, total := cdiv size w, byBytes := some w,
          move := fun e lo hi => foldE (fun e k =>
            let j := k / rows x
            let i := k % rows x
            match x.get e ts rs (trBase rs + i * trStride rs + j * z) z true (hasSrcCrc rs) with
            | .error q => .error q
            | .ok (bs, e) => x.put e td rd (trBase rd + j * trStride rd + i * z) bs true (trXbase rd != 0))
            ((List.range ((hi - lo) / z)).map fun k => lo / z + k) e }
        ts td false }

/-- The turn of CPYT. -/
def execCpyt (c : Cmd) (s : State) : Host.Outcome State Fault Refusal := s.command 0x21 c cpytSpec

/-! ## CPYX -/

/-- The elements of one block, or one T5 group, of a source row (R178): their exact values, and the ESCOVF and T5BAD of its
decoding. -/
def Ecx.sourceUnit (x : Ecx) (e : Em) (ts : Nat) (r : BitVec 512) (fmt rng i u : Nat) :
    Except Raise ((List FVal × List Int × Nat × Nat) × Em) :=
  let n := if fmt = 1 then 13 else fmtBlock fmt
  let a := trBase r + i * trStride r + u * n
  let img := hasSrcCrc r
  let z := if fmt = 1 then 2 else 1
  let read : Except Raise ((List Byte × List Byte) × Em) :=
    if rng != 0 then x.getTagged e ts fmt rng a n 1 img
    else
      match x.get e ts r a n true img with
      | .error q => .error q
      | .ok (bs, e) =>
        if scaleBytes fmt 1 = 0 then .ok ((bs, []), e)
        else (x.get e ts r (trSbase r + i * trSstride r + z * u) z true img).map fun p => ((bs, p.1), p.2)
  match read with
  | .error q => .error q
  | .ok ((bs, sc), e) =>
    if fmt = 1 then
      let (t, bad) := t5Group bs
      let scale := FVal.decode .bf16 (leNat sc)
      .ok ((t.map fun v => (mulVal (.ofInt v) scale).1, t, 0, bad), e)
    else
      let side : Except Raise (Option (List Byte) × Em) := if trXl r && rng = 0 then
          (x.get e ts r (trXbase r + i * trXstride r + 8 * u) 8 true false).map fun p => (some p.1, p.2)
        else .ok (none, e)
      match side with
      | .error q => .error q
      | .ok (sd, e) =>
        let b := oneBlock fmt 14 bs (sc.getD 0 0).toNat sd
        .ok ((b.vals, b.q, b.extra, 0), e)

/-- The bytes of an element that CPYX writes (R348): BF16, F32, or I8. -/
def cpyxBytes (of : Nat) (v : FVal) (i : Int) : List Byte :=
  match of with
  | 0 => leBytes 2 (roundVal .bf16 0 v).1
  | 1 => leBytes 4 (f32Of v).toNat
  | _ => leBytes 1 (wrap 8 i)

/-- CPYX (R178, R347, R348). An element image is in destination order; each block counts its decode events with its first
element. -/
def cpyxSpec : CmdSpec :=
  let rows (x : Ecx) : Nat := cmdF x.w 23 13 + 1
  let nb (x : Ecx) : Nat := cmdF x.w 12 4 + 1
  let of (x : Ecx) : Nat := cmdF x.w 1 0
  let tr (x : Ecx) : Bool := bitOf x.w.toNat 3
  let fits (x : Ecx) (fmt : Nat) : Bool := !(of x == 2 && fmt != 1 && fmt != 0) && !(fmt == 1 && nb x % 2 == 1)
  { eng := some .copy, dash := fBits 2 2,
    illegal := fun _ x recs =>
      let f := trFmt (recs.get (cmdTrs x.w) 0)
      of x == 3 || (f != 7 && !fits x f),
    misaligned := fun x recs =>
      let rs := recs.get (cmdTrs x.w) 0
      let rd := recs.get (cmdTrd x.w) 0
      baseOdd rs (if trFmt rs = 6 then 2 else 1) (rows x)
        || baseOdd rd (cpyxZ x.w) (if tr x then 32 * nb x else rows x) || crcOdd rs rd
        || (trFmt rs == 1 && (trSbase rs % 2 != 0 || (1 < rows x && trSstride rs % 2 != 0))),
    late := fun x recs =>
      let n := if tr x then rows x * cpyxZ x.w else 32 * nb x * cpyxZ x.w
      (1 < rows x || tr x) && trStride (recs.get (cmdTrd x.w) 0) < n,
    open_ := fun s x a =>
      match openSides (fun x => [⟨cmdTrs x.w, false, true⟩, ⟨cmdTrd x.w, true, true⟩]) s x a with
      | .error q => .error q
      | .ok (s, a) =>
      match x.resolve s (cmdTrs x.w) (a.recs.get (cmdTrs x.w) 0) 0 (1 < rows x) with
      | .error q => .error q
      | .ok ((f, rng), s) =>
        if !fits x f then .error { cause := Cause.cmdIllegal, trec := cmdTrs x.w }
        else .ok (s, { a with aux := [f, rng] }),
    work := fun s x a =>
      let ts := cmdTrs x.w
      let td := cmdTrd x.w
      let rs := a.recs.get ts 0
      let rd := a.recs.get td 0
      let fmt := a.aux.getD 0 0
      let z := cpyxZ x.w
      let per := if fmt = 1 then 64 else 32
      let cols := 32 * nb x
      let size := rows x * cols * z
      let w := copyW a.recs
      -- element k of row i, with its block read again
      let one (e : Em) (i k : Nat) : Except Raise Em :=
        match x.sourceUnit e ts rs fmt (a.aux.getD 1 0) i (k / per) with
        | .error q => .error q
        | .ok ((vs, is, esc, bad), e) =>
          let e := if k % per = 0 then { e with m := { e.m with s := e.m.s.count x 0 esc bad 0 } } else e
          let d := if tr x then trBase rd + k * trStride rd + i * z else trBase rd + i * trStride rd + k * z
          x.put e td rd d (cpyxBytes (of x) (vs.getD (k % per) (.fin false 0 0)) (is.getD (k % per) 0)) true
            (trXbase rd != 0)
      -- a whole block of a row
      let blk (e : Em) (i u : Nat) : Except Raise Em :=
        match x.sourceUnit e ts rs fmt (a.aux.getD 1 0) i u with
        | .error q => .error q
        | .ok ((vs, is, esc, bad), e) =>
          let e := { e with m := { e.m with s := e.m.s.count x 0 esc bad 0 } }
          x.put e td rd (trBase rd + i * trStride rd + u * per * z)
            ((vs.zip is).flatMap fun p => cpyxBytes (of x) p.1 p.2) true (trXbase rd != 0)
      let atom := if tr x then z else per * z
      x.copyUnit s a
        { size := size, atom := atom, total := max (cdiv size w) (rows x * nb x), byBytes := none,
          move := fun e lo hi => foldE (fun e k =>
            if tr x then one e (k % rows x) (k / rows x)
            else blk e (k * per / cols) (k * per % cols / per))
            ((List.range ((hi - lo) / atom)).map fun k => lo / atom + k) e }
        ts td false }

/-- The turn of CPYX. -/
def execCpyx (c : Cmd) (s : State) : Host.Outcome State Fault Refusal := s.command 0x23 c cpyxSpec

/-! ## CPYQ -/

/-- QuantiseBlock `b` of a CPYQ (R182, R348), or of an FPUT.Q, whose codes and scales may go to another package and whose
faults name the block (R273, R361). -/
def Ecx.quantUnit (x : Ecx) (e : Em) (ts td tc : Nat) (rs rd rc : BitVec 512) (wide rf ar sr : Bool) (onlyLocal : Bool)
    (b : Nat) : Except Raise Em :=
  let own := if onlyLocal then 0 else b
  Except.mapError (fun q => { q with aux := q.aux + own }) <|
  let f := if trFmt rd = 2 then Fmt.e2m1 else Fmt.e4m3
  let ib := if wide then 4 else 2
  let cb := if rf then 2 else 4
  let val (bs : List Byte) (n k : Nat) : W32 :=
    let v := leNat ((bs.drop (n * k)).take n)
    if n = 4 then w32 v else f32Of (FVal.decode .bf16 v)
  match x.get e ts rs (trBase rs + 32 * ib * b) (32 * ib) true (hasSrcCrc rs) with
  | .error q => .error q
  | .ok (bs, e) =>
    let cul : Except Raise (List Byte × Em) :=
      if ar then x.get e tc rc (trBase rc + 32 * cb * b) (32 * cb) true false else .ok ([], e)
    match cul with
    | .error q => .error q
    | .ok (cs, e) =>
      let xs := (List.range 32).map fun k => if ar then f32Add (val bs ib k) (val cs cb k) else val bs ib k
      let q := quantBlock f (fun k => if sr then some (srBits (trSbase rc) ((trXbase rc + 32 * b + k) % 2 ^ 64)) else none) xs
      let codes := codeBytes f q.codes
      let img := trXbase rd != 0
      match x.put e td rd (trBase rd + codes.length * b) codes onlyLocal img with
      | .error r => .error r
      | .ok e =>
        match x.put e td rd (trSbase rd + b) [BitVec.ofNat 8 q.scale] onlyLocal img with
        | .error r => .error r
        | .ok e =>
          x.put e tc rc (trBase rc + 32 * cb * b)
            (q.res.flatMap fun v => if rf then leBytes 2 (roundVal .bf16 0 (f32Val v)).1 else leBytes 4 v.toNat)
            true false

/-- The plan of a quantising command. -/
def Ecx.quantPlan (x : Ecx) (recs : Recs) (ts td tc nb : Nat) (onlyLocal : Bool) : CopyPlan :=
  let rd := recs.get td 0
  let w := x.w.toNat
  let z := if trFmt rd = 2 then 16 else 32
  let bytes := nb * (z + 1 + 32 * (if bitOf w 2 then 2 else 4))
  { size := nb * z, atom := z, total := max (cdiv bytes (copyW recs)) nb, byBytes := none,
    move := fun e lo hi => foldE (fun e b =>
      x.quantUnit e ts td tc (recs.get ts 0) rd (recs.get tc 0) (bitOf w 3) (bitOf w 2) (bitOf w 1) (bitOf w 0) onlyLocal b)
      ((List.range ((hi - lo) / z)).map fun k => lo / z + k) e }

/-- The format of a quantiser's destination (R178). -/
def quantBad (rd : BitVec 512) : Bool := (trFmt rd != 2 && trFmt rd != 5) || trXl rd

/-- The alignment of a quantiser's records (R347). -/
def quantOdd (w : W64) (rs rd rc : BitVec 512) : Bool :=
  trBase rs % (if bitOf w.toNat 3 then 4 else 2) != 0 || trBase rc % (if bitOf w.toNat 2 then 2 else 4) != 0
    || trBase rd % 16 != 0 || crcOdd rs rd

/-- CPYQ (R178, R182, R347, R348). -/
def cpyqSpec : CmdSpec :=
  let tc (x : Ecx) : Nat := cmdF x.w 23 16
  { eng := some .copy, dash := 0,
    illegal := fun _ x recs => quantBad (recs.get (cmdTrd x.w) 0),
    misaligned := fun x recs =>
      quantOdd x.w (recs.get (cmdTrs x.w) 0) (recs.get (cmdTrd x.w) 0) (recs.get (tc x) 0),
    open_ := openSides fun x => [⟨cmdTrs x.w, false, true⟩, ⟨cmdTrd x.w, true, true⟩, ⟨tc x, true, true⟩],
    work := fun s x a =>
      x.copyUnit s a (x.quantPlan a.recs (cmdTrs x.w) (cmdTrd x.w) (tc x) (cmdF x.w 15 4 + 1) true)
        (cmdTrs x.w) (cmdTrd x.w) false }

/-- The turn of CPYQ. -/
def execCpyq (c : Cmd) (s : State) : Host.Outcome State Fault Refusal := s.command 0x22 c cpyqSpec

/-! ## CPYM -/

/-- The level of a page size that needs no N bit (R126). -/
def pgsLevel (p : Nat) : Option Nat := match p with
  | 0 => some 0
  | 3 => some 1
  | 5 => some 2
  | 7 => some 3
  | _ => none

/-- The entry of a page table that ends a walk, and its level: the first that is no valid pointer (R125). -/
def State.lastEntry (s : State) (die va : Nat) : Nat → Nat → Except Nat (Nat × Nat)
  | 0, _ => .error Cause.notPresent
  | lv + 1, ppn =>
    match s.readPte die (ppn * 4096 + 8 * (va / (4096 * 512 ^ lv) % 512)) with
    | .error c => .error c
    | .ok pte => if lv != 0 && bitOf pte 0 && bitsOf pte 3 1 = 0 && !pteReserved s.pageAttr false pte then
        s.lastEntry die va lv (ptePpn pte) else .ok (pte, lv)

/-- Steps 1 to 3 of R179: the leaf, its place, and the state with the page copied; AUX of a fault of the copy is its 4 KiB
chunk (R184). A leaf that is not valid or malformed, or a page size that needs N = 1 (R349), is CMDILLEGAL with AUX = 1; a
walk that ends at an invalid entry above the level of the page has met no leaf (DEDUCED, log entry 107). -/
def Ecx.movePage (x : Ecx) (s : State) (va pa pgs : Nat) : Except Raise ((Nat × Nat) × State) :=
  let die := dieOf x.b
  let pages := pgsPages pgs
  let root := (s.desc x.r.ctx).root
  let refused : Raise := { cause := Cause.cmdIllegal, va := va, aux := 1 }
  let level := pgsLevel pgs
  if level.isNone then .error refused
  else if !canonical va then .error { cause := Cause.perm, va := va } else
  match s.walk die (va % 2 ^ 57) 5 root with
  | .error c =>
    .error (match s.lastEntry die (va % 2 ^ 57) 5 root with
      | .ok (pte, lv) => if bitOf pte 0 || lv ≤ level.getD 0 then refused else { cause := c, va := va }
      | .error _ => { cause := c, va := va })
  | .ok (pte, at_, lv) =>
    if bitOf pte 63 || bitOf pte 2 || leafPages lv false (ptePpn pte) != some pages then
      .error refused
    else
      let src := ptePpn pte * 4096
      let n := pages * 4096
      let away := match s.place src with
        | .remote _ => true
        | _ => false
      if away then .error { cause := Cause.cmdIllegal, va := va } else
      match s.pointRead die src n with
      | .error r => .error { r with va := va / n * n + r.va, aux := r.va / 4096 }
      | .ok (bs, s) =>
        match s.pointWrite die pa bs with
        | .error r => .error { r with va := pa + r.va, aux := r.va / 4096 }
        | .ok s =>
          match s.pointRead die pa n with
          | .error r => .error { r with va := pa + r.va, aux := r.va / 4096 }
          | .ok (cs, s) =>
            if crc32c bs != crc32c cs then .error { cause := Cause.checksum, va := va } else .ok ((pte, at_), s)

/-- Step 4 of R179: the CAS of the leaf. -/
def Ecx.swapLeaf (x : Ecx) (s : State) (pte at_ pa : Nat) : Except Raise State :=
  let die := dieOf x.b
  match s.pointRead die at_ 8 with
  | .error r => .error { r with va := at_, aux := 0 }
  | .ok (bs, s) =>
    if leNat bs != pte then .error { cause := Cause.cmdIllegal, va := at_, aux := 2 }
    else (s.pointWrite die at_ (leBytes 8 (setBits pte 53 10 (pa / 4096)))).mapError fun r => { r with va := at_, aux := 0 }

/-- CPYM (R179, R347, R349): the copy, then the CAS; one that raises a cause starts again from step 1 on resume. -/
def cpymSpec : CmdSpec :=
  { eng := some .copy, dash := fBits 19 0, priv := true,
    illegal := fun s x recs =>
      trSpace (recs.get (cmdTrs x.w) 0) != 0 || 7 < cmdF x.w 23 20
        || match s.place (trBase (recs.get (cmdTrd x.w) 0)) with
           | .remote _ => true
           | _ => false,
    misaligned := fun x recs => trBase (recs.get (cmdTrd x.w) 0) % (4096 * pgsPages (cmdF x.w 23 20)) != 0,
    work := fun s x a =>
      let rs := a.recs.get (cmdTrs x.w) 0
      let rd := a.recs.get (cmdTrd x.w) 0
      if a.idx = 0 then
        match x.movePage s (trBase rs) (trBase rd) (cmdF x.w 23 20) with
        | .error q => .fault s { a with idx := 0 } { q with trec := cmdTrs x.w }
        | .ok ((pte, at_), s) => .next s { a with idx := 1, aux := [pte, at_] } 1
      else
        match x.swapLeaf s (a.aux.getD 0 0) (a.aux.getD 1 0) (trBase rd) with
        | .error q => .fault s { a with idx := 0 } { q with trec := cmdTrs x.w }
        | .ok s => .done s a 1 0 }

/-- The turn of CPYM. -/
def execCpym (c : Cmd) (s : State) : Host.Outcome State Fault Refusal := s.command 0x26 c cpymSpec

end Sys2Proof.Machine
end

