-- ==== Sys2Proof/Machine/Fabric.lean ====
section
/-! DEFINITION. The fabric engine: FPUT, FPUT.Q, FGET, FCOMP and FSIG (R270 to R274, R358 to R361), and the flits that arrive
from other packages (R264 to R269, R275). -/

namespace Sys2Proof.Machine

open Sys2Proof

/-! ## Commands -/

/-- The alignment of FPUT's and FGET's records (R359). -/
def moveOdd (x : Ecx) (recs : Recs) : Bool :=
  let rs := recs.get (cmdTrs x.w) 0
  let rd := recs.get (cmdTrd x.w) 0
  let rows := cmdF x.w 22 12 + 1
  baseOdd rs 16 rows || baseOdd rd 16 rows || crcOdd rs rd

/-- Destination rows that overlap (R359). -/
def moveLate (x : Ecx) (recs : Recs) : Bool :=
  0 < cmdF x.w 22 12 && trStride (recs.get (cmdTrd x.w) 0) < 16 * (cmdF x.w 11 0 + 1)

/-- FPUT with Q = 0 (R271): a word with Q = 1 is FPUT.Q's. -/
def fputSpec : CmdSpec :=
  { eng := some .fabric, dash := fBits 23 23, misaligned := moveOdd, late := moveLate,
    open_ := openSides fun x => [⟨cmdTrs x.w, false, true⟩, ⟨cmdTrd x.w, true, false⟩],
    work := fun s x a =>
      x.copyUnit s a (x.rowsPlan a.recs (cmdTrs x.w) (cmdTrd x.w) (cmdF x.w 22 12 + 1) (16 * (cmdF x.w 11 0 + 1))
        false true false) (cmdTrs x.w) (cmdTrd x.w) false }

/-- The turn of FPUT. -/
def execFput (c : Cmd) (s : State) : Host.Outcome State Fault Refusal := s.command 0x30 c fputSpec

/-- FGET (R271). -/
def fgetSpec : CmdSpec :=
  { eng := some .fabric, dash := fBits 23 23, misaligned := moveOdd, late := moveLate,
    open_ := openSides fun x => [⟨cmdTrs x.w, false, false⟩, ⟨cmdTrd x.w, true, true⟩],
    work := fun s x a =>
      x.copyUnit s a (x.rowsPlan a.recs (cmdTrs x.w) (cmdTrd x.w) (cmdF x.w 22 12 + 1) (16 * (cmdF x.w 11 0 + 1))
        false false true) (cmdTrs x.w) (cmdTrd x.w) false }

/-- The turn of FGET. -/
def execFget (c : Cmd) (s : State) : Host.Outcome State Fault Refusal := s.command 0x31 c fgetSpec

/-- FPUT.Q (R273): every violation of its operands but alignment is CMDILLEGAL. -/
def fputQSpec : CmdSpec :=
  let tc (x : Ecx) : Nat := cmdF x.w 22 15
  { eng := some .fabric, dash := 0,
    illegal := fun _ x recs =>
      let rs := recs.get (cmdTrs x.w) 0
      quantBad (recs.get (cmdTrd x.w) 0) || (!bitOf x.w.toNat 3 && trFmt rs != 6),
    misaligned := fun x recs =>
      quantOdd x.w (recs.get (cmdTrs x.w) 0) (recs.get (cmdTrd x.w) 0) (recs.get (tc x) 0),
    open_ := openSides fun x => [⟨cmdTrs x.w, false, true⟩, ⟨cmdTrd x.w, true, false⟩, ⟨tc x, true, true⟩],
    work := fun s x a =>
      x.copyUnit s a (x.quantPlan a.recs (cmdTrs x.w) (cmdTrd x.w) (tc x) (cmdF x.w 14 4 + 1) false)
        (cmdTrs x.w) (cmdTrd x.w) false true }

/-- The turn of FPUT.Q. -/
def execFputQ (c : Cmd) (s : State) : Host.Outcome State Fault Refusal := s.command 0x30 c fputQSpec

/-- Why requests of a die cannot reach a package (R264, R265): none for this one, or where a port leads to it. -/
def State.barred (s : State) (die pkg : Nat) : Option Nat :=
  if pkg = s.dev.fabric.pkgid then none else s.linkTo die pkg

/-- A packet leaves as COMP pieces under one tag (R266, R278). -/
def State.sendPacket (s : State) (dst : Nat) (bs : List Byte) : State :=
  s.modFabric fun f =>
    let piece (k : Nat) : Flit :=
      let p := (bs.drop (240 * k)).take 240
      { type := flitCOMP, vc := 2, dst := dst, src := f.pkgid, tag := f.nextTag % 2 ^ 16, len := p.length, sts := 0, aop := 0,
        asz := 0, addr := 240 * k, payload := p }
    { f with nextTag := f.nextTag + 1, outbox := f.outbox ++ (List.range (cdiv bs.length 240)).map piece }

/-- FCOMP (R278, R359, R360): one packet for each tile, with the FRAME of its issue, which a deadline that has come has
rolled (R277). A packet for this package that is no input of its root node goes out to the switches, which merge the inner
nodes. -/
def fcompSpec : CmdSpec :=
  let grp (s : State) (x : Ecx) : Composite := s.dev.composites.get (cmdF x.w 31 28) {}
  { eng := some .fabric, dash := fBits 23 20,
    illegal := fun s x _ =>
      let g := grp (s.settleTime) x
      !g.word.getLsbD 0 || g.f 276 256 ≤ cmdF x.w 19 0 + cmdF x.w 27 24,
    misaligned := fun x recs => baseOdd (recs.get (cmdTrs x.w) 0) 16 2,
    enter := fun s _ _ => s.settleTime,
    atIssue := fun s x => [(grp (s.settleTime) x).f 63 32],
    open_ := openSides fun x => [⟨cmdTrs x.w, false, true⟩],
    work := fun s x a =>
      let ts := cmdTrs x.w
      let r := a.recs.get ts 0
      let g := grp s x
      let n := a.idx
      let cf := g.word.getLsbD 2
      let bytes := s.compBytes (cmdF x.w 31 28)
      let dst := g.f 491 480
      match s.barred (dieOf x.b) dst with
      | some c => .fault s a { cause := c, aux := n }
      | none =>
        x.unit s a n (fun e =>
          match x.get e ts r (trBase r + n * trStride r) bytes true false with
          | .error q => .error q
          | .ok (bs, e) =>
            let h := packetHeader (g.f 31 16) cf (g.word.getLsbD 1) false (a.aux.getD 0 0) (cmdF x.w 19 0 + n)
              (g.f 15 10) (g.f 15 10) 0
            let p := packetBytes h bs
            let home := dst == e.m.s.dev.fabric.pkgid && g.takes (g.f 15 10, g.f 15 10)
            let t := if home then e.m.s.recvPacket p else e.m.s.sendPacket dst p
            .ok { e with m := { e.m with s := t } })
          fun e =>
            let a := { e.a with idx := n + 1 }
            if n = cmdF x.w 27 24 then .done e.m.s a 1 0 else .next e.m.s a 1 }

/-- The turn of FCOMP. -/
def execFcomp (c : Cmd) (s : State) : Host.Outcome State Fault Refusal := s.command 0x32 c fcompSpec

/-- FSIG (R272, R359): after the writes of the ring's earlier commands, which the engine has worked before it, and
Release(SYSTEM), the counter is incremented here or by a SIG flit. -/
def fsigSpec : CmdSpec :=
  { eng := some .fabric, dash := fBits 11 0,
    denied := fun s x => s.barred (dieOf x.b) (cmdF x.w 39 28) == some Cause.perm,
    work := fun s x a =>
      let pkg := cmdF x.w 39 28
      let b := cmdF x.w 27 20
      let k := cmdF x.w 19 12
      let s := s.release x.b 6
      if pkg = s.dev.fabric.pkgid then
        match s.semGive b k with
        | some s => .done s a 1 0
        | none => .fault s a (raiseOf Cause.semOvf)
      else
        x.unit s a 0 (fun e => (e.m.request pkg 0 [] (requestFlit flitSIG 0 0 0 0 0 0 (b * 256 + k) [])).map fun p =>
          { e with m := p.2 }) fun e => .done e.m.s e.a 1 0 }

/-- The turn of FSIG. -/
def execFsig (c : Cmd) (s : State) : Host.Outcome State Fault Refusal := s.command 0x33 c fsigSpec

/-! ## Requests from other packages -/

/-- Whether an ingress window of package `pkg` admits a request (R268): `sem` its kind, `bit` its permission. BASE of a MEM
window is a local physical address, which names its package (R106). -/
def windowAdmits (pkg : Nat) (w : BitVec 256) (sem : Bool) (bit src a n : Nat) : Bool :=
  w.getLsbD 0 && (w.getLsbD 1 == sem) && bitOf w.toNat bit && bitsIn w 27 16 ≤ src && src ≤ bitsIn w 39 28
    && (let base := if sem then bitsIn w 83 64 else bitsIn w 119 64
        let a := if sem then a else pkg * 2 ^ 44 + a
        base ≤ a && a + n ≤ base + bitsIn w 255 192)

/-- A request from another package is admitted (R268); those of the own package are never filtered. -/
def State.admits (s : State) (sem : Bool) (bit : Nat) (f : Flit) (a n : Nat) : Bool :=
  let pkg := s.dev.fabric.pkgid
  f.src == pkg || s.dev.fabric.windows.any fun p => windowAdmits pkg p.2 sem bit f.src a n

/-- A response leaves (R266). -/
def State.respond (s : State) (f : Flit) (type sts : Nat) (bs : List Byte) : State :=
  s.modFabric fun x => { x with outbox := x.outbox ++
    [{ type := type, vc := 1, dst := f.src, src := x.pkgid, tag := f.tag, len := bs.length, sts := sts, aop := 0, asz := 0,
       addr := 0, payload := bs }] }

/-- STS of a cause (R266, R269). A cause with no code has no response: the requester times out. -/
def causeSts (c : Nat) : Option Nat :=
  if c = Cause.perm then some 1 else if c = Cause.poison then some 2 else if c = Cause.align then some 3
  else if c = Cause.semOvf then some 4 else none

/-- A refused request is answered with its cause; what the access poisoned stays (R113). -/
def State.respondCause (s : State) (f : Flit) (type c : Nat) : State :=
  let s := s.notePoison c
  match causeSts (Cause.shown c) with
  | some sts => s.respond f type sts []
  | none => s

/-- The package-local address of a request. -/
def State.localPa (s : State) (f : Flit) : Nat := s.dev.fabric.pkgid * 2 ^ 44 + f.addr

/-- The die whose point a request of another package reaches without crossing the die-to-die link (R264). -/
def State.nearDie (s : State) (pa : Nat) : Nat := (s.homeDie pa).getD 0

/-- RD_FLIT (R268, R269). -/
def State.rdFlit (s : State) (f : Flit) : State :=
  let pa := s.localPa f
  if !s.admits false 2 f f.addr f.len then s.respond f flitRDR 1 []
  else if bitOf f.aop 0 && f.len != 0 && f.addr % f.len != 0 then s.respond f flitRDR 3 []
  else
    match s.place pa with
    | .device =>
      match s.devRead pa f.len with
      | .ok (v, s) => s.respond f flitRDR 0 (leBytes 8 v)
      | .error c => s.respondCause f flitRDR c
    | _ =>
      match s.pointRead (s.nearDie pa) pa f.len with
      | .ok (bs, s) => s.respond f flitRDR 0 bs
      | .error r => s.respondCause f flitRDR r.cause

/-- WR_FLIT (R268, R269). -/
def State.wrFlit (s : State) (f : Flit) : State :=
  let pa := s.localPa f
  let bs := f.payload.take f.len
  if !s.admits false 3 f f.addr f.len then s.respond f flitWRA 1 []
  else if bitOf f.aop 0 && f.len != 0 && f.addr % f.len != 0 then s.respond f flitWRA 3 []
  else
    match s.place pa with
    | .device =>
      match s.devWrite 0 pa f.len (w64 (leNat bs)) with
      | .ok s => s.respond f flitWRA 0 []
      | .error c => s.respondCause f flitWRA c
    | _ =>
      match s.pointWrite (s.nearDie pa) pa bs with
      | .ok s => s.respond f flitWRA 0 []
      | .error r => s.respondCause f flitWRA r.cause

/-- AT_FLIT (R156, R158, R268, R269): the payload is b, and c after it for CAS (DEDUCED, log entry 27). An operation or size
that R156 does not allow has no effect and no response code, so its requester times out. -/
def State.atFlit (s : State) (f : Flit) : State :=
  let pa := s.localPa f
  let n := 4 * 2 ^ f.asz
  if !s.admits false 4 f f.addr n then s.respond f flitATR 1 []
  else if 11 < f.aop || 2 < f.asz || (f.asz == 2 && f.aop != 1) then s
  else if f.addr % n != 0 then s.respond f flitATR 3 []
  else
    match s.place pa with
    | .device => s.respond f flitATR 1 []
    | .store _ _ => s.respond f flitATR 1 []
    | _ =>
      match s.reachAll (s.nearDie pa) pa n with
      | some c => s.respondCause f flitATR c
      | none =>
      let s := s.fillViews pa (sectorsOf (pa % 2 ^ 44) n)
      match s.readPoison (pa % 2 ^ 44) n with
      | some r => s.respondCause f flitATR r.cause
      | none =>
        let (x, s) := s.atomAt pa n f.aop (leNat (f.payload.take n)) (leNat ((f.payload.drop n).take n))
        s.respond f flitATR 0 (leBytes n x)

/-- SIG_FLIT (R268, R272). -/
def State.sigFlit (s : State) (f : Flit) : State :=
  let k := f.addr % 2 ^ 20
  if !s.admits true 3 f k 1 || 0x10000 ≤ k then s.respond f flitSIGA 1 []
  else
    match s.semGive (k / 256) (k % 256) with
    | some s => s.respond f flitSIGA 0 []
    | none => s.respond f flitSIGA 4 []

/-- Bytes of a packet that its pieces give from offset 0 up. -/
def gathered (ps : List (Nat × List Byte)) (n : Nat) : Option (List Byte) :=
  let t := ps.foldl (fun (t : Tbl Byte) p => putImg t p.1 p.2) []
  let bs := t.map (·.2)
  if t.length < n || (t.take n).map (·.1) != List.range n then none else some (bs.take n)

/-- COMP_FLIT (R266, R278): a piece is kept until its packet is whole. -/
def State.compFlit (s : State) (f : Flit) : State :=
  let key := f.src * 2 ^ 16 + f.tag
  let ps := s.dev.fabric.pieces.get key [] ++ [(f.addr % 2 ^ 13, f.payload.take f.len)]
  let keep : State := s.modFabric fun x => { x with pieces := x.pieces.set key ps }
  match gathered ps 32 with
  | none => keep
  | some h =>
    let w := leNat h
    match gathered ps (packetSize (bitOf w 18) (bitOf w 16)) with
    | none => keep
    | some bs => (s.modFabric fun x => { x with pieces := x.pieces.erase key }).recvPacket bs

/-- SYNC_FLIT (R275, R276): a follower's time is disciplined. The contents of a message are those of the cited IEEE 1588; the
offset and bound that it measures are open values. It is taken where PORTS names a port that is up. PTC never decreases, and
steps forward only when the follower is not LOCKED and more than 10 µs behind; one that is further ahead than that holds it
for as long. -/
def State.syncFlit (s : State) : State :=
  let p := s.dev.ptc
  if p.role != 1 || p.ports &&& s.dev.fabric.portup = 0 then s
  else
    let (n, s) := s.fresh
    let (m, s) := s.fresh
    let off := sext 32 n
    let behind := if off < 0 then (-off).toNat else 0
    let step := if 100 < p.bound && 10000 < behind then behind else 0
    let hold := if 10000 < off then off.toNat else 0
    s.modDev fun d => { d with ptc := { p with ptc := p.ptc + step, offset := BitVec.ofNat 32 n, bound := m % 2 ^ 32,
                                               hold := hold } }

/-- A response meets its request (R269); with none the flit is discarded. -/
def State.takeResponse (s : State) (f : Flit) : State :=
  let mine (r : Remote) : Bool := r.req.tag == f.tag && r.req.dst == f.src && r.req.type + 1 == f.type && r.resp.isNone
  s.modFabric fun x => { x with remotes := modFirst mine (fun r => { r with resp := some (f.sts, f.payload.take f.len) }) x.remotes }

/-- A flit for another package than its DST changes nothing. -/
def State.forUs (s : State) (f : Flit) (type : Nat) (go : State → State) : State :=
  if f.type = type && f.dst = s.dev.fabric.pkgid then go s else s

/-- RD_FLIT (R269). -/
def execRdFlit (f : Flit) (s : State) : Host.Outcome State Fault Refusal := .next (s.forUs f flitRD fun s => s.rdFlit f)
/-- WR_FLIT (R269). -/
def execWrFlit (f : Flit) (s : State) : Host.Outcome State Fault Refusal := .next (s.forUs f flitWR fun s => s.wrFlit f)
/-- AT_FLIT (R269). -/
def execAtFlit (f : Flit) (s : State) : Host.Outcome State Fault Refusal := .next (s.forUs f flitAT fun s => s.atFlit f)
/-- SIG_FLIT (R272). -/
def execSigFlit (f : Flit) (s : State) : Host.Outcome State Fault Refusal := .next (s.forUs f flitSIG fun s => s.sigFlit f)
/-- COMP_FLIT (R278). -/
def execCompFlit (f : Flit) (s : State) : Host.Outcome State Fault Refusal := .next (s.forUs f flitCOMP fun s => s.compFlit f)
/-- SYNC_FLIT (R275). -/
def execSyncFlit (f : Flit) (s : State) : Host.Outcome State Fault Refusal := .next (s.forUs f flitSYNC fun s => s.syncFlit)
/-- RDR_FLIT (R269). -/
def execRdrFlit (f : Flit) (s : State) : Host.Outcome State Fault Refusal :=
  .next (s.forUs f flitRDR fun s => s.takeResponse f)
/-- WRA_FLIT (R269). -/
def execWraFlit (f : Flit) (s : State) : Host.Outcome State Fault Refusal :=
  .next (s.forUs f flitWRA fun s => s.takeResponse f)
/-- ATR_FLIT (R269). -/
def execAtrFlit (f : Flit) (s : State) : Host.Outcome State Fault Refusal :=
  .next (s.forUs f flitATR fun s => s.takeResponse f)
/-- SIGA_FLIT (R272): FSIG finds it when it acts next, and completes or halts. -/
def execSigaFlit (f : Flit) (s : State) : Host.Outcome State Fault Refusal :=
  .next (s.forUs f flitSIGA fun s => s.takeResponse f)

/-- RESERVED_TYPE_FLIT (R266): discarded and counted. -/
def execReservedTypeFlit (f : Flit) (s : State) : Host.Outcome State Fault Refusal :=
  .next (if 10 ≤ f.type then s.modFabric fun x => { x with badfl := sat32 (x.badfl + 1) } else s)

/-- FABTIMEOUT (R269): a request has had no response in time; its requester raises FABTIMEOUT when it acts next. -/
def execFabtimeout (tag : Nat) (s : State) : Host.Outcome State Fault Refusal :=
  let late (r : Remote) : Bool := r.req.tag == tag && r.resp.isNone
  .next (if s.dev.fabric.remotes.any late then
    s.modFabric fun x => { x with tocnt := sat32 (x.tocnt + 1),
                                  remotes := modFirst late (fun r => { r with resp := some (100, []) }) x.remotes }
  else s)

/-- Every timed ring on the dies of a test, ARMED or not, halts with TIMING at its next command (R11, R264). -/
def State.haltTimed (s : State) (on : Nat → Bool) : State :=
  let hit := s.benches.flatMap fun p => (p.2.rings.filter fun k =>
    on (dieOf p.1) && k.2.timed && k.2.state == .running).map fun k => (p.1, k.1)
  hit.foldl (fun s x => s.haltRing x.1 x.2 ((s.ring x.1 x.2).rp + 1) (raiseOf Cause.timing)) s

/-- LINK_DOWN (R264): the link between the dies is down; MGT is raised, and in package lockstep every timed ring halts with
TIMING. -/
def execLinkDown (s : State) : Host.Outcome State Fault Refusal :=
  let s := (s.modFabric fun x => { x with linkDown := true }).raiseMgt
  .next (if s.dev.boot.lockstep then s.haltTimed fun _ => true else s)

/-- PORTUP_CHANGE (R265). -/
def execPortupChange (port : Nat) (up : Bool) (s : State) : Host.Outcome State Fault Refusal :=
  .next (if port < 24 then s.modFabric fun x =>
    { x with portup := BitVec.ofNat 24 (setBits x.portup.toNat port port (if up then 1 else 0)) } else s)

end Sys2Proof.Machine
end

