-- ==== Sys2Proof/Machine/Graphics.lean ====
section
/-! DEFINITION. Rendering passes (R224 to R236, R245, R374, R375, R405 to R407): TBEGIN and TEND, TEMIT, MEMIT and its
binning, splits, and the placement of mesh groups. -/

namespace Sys2Proof.Machine

open Sys2Proof

/-! ## TBEGIN and TEND -/

/-- PN of a TBEGIN (R224). -/
def tbeginPn (w : W64) : Nat := cmdF w 31 28
/-- PN of a TEND (R224). -/
def tendPn (w : W64) : Nat := cmdF w 39 36

/-- A mesh launch record that TBEGIN refuses (R226): CLM ≠ 0, or a reserved field set. -/
def meshRecBad (m : BitVec 512) : Bool := recF m 119 117 != 0 || recF m 191 187 != 0 || recF m 383 382 != 0

/-- The mesh launch record as it can be read at issue, without an effect. -/
def State.peekMesh (s : State) (x : Ecx) (r : BitVec 512) : Option (BitVec 512) :=
  match x.pieces s false .read (passMlr r) 64 with
  | .error _ => none
  | .ok (ps, s) =>
    match ({ s := s, who := x.who, die := dieOf x.b } : Mu).readAll none false ps with
    | .error _ => none
    | .ok (bs, m) => if m.waits then none else some (BitVec.ofNat 512 (leNat bs))

/-- TBEGIN's pass record (R88, R225). -/
def tbeginRec (w : W64) (recs : Recs) : BitVec 512 := recs.get (cmdF w 39 32) 0

/-- The passes that issued TBEGINs are about to open: context, PN and record. They count as open for the TBEGINs that issue
after them, so that none is found refused when its writes are performed (R405; DESIGN CHOICE, log entry 107). -/
def State.opening (s : State) : List (Nat × Nat × BitVec 512) :=
  s.benches.flatMap fun x => x.2.issued.filterMap fun i =>
    if i.r.eng == .tiling && cmdEop i.a.word == 0x40 && !i.a.worked then
      some (i.r.ctx, tbeginPn i.a.word, tbeginRec i.a.word i.a.recs) else none

/-- Open passes of any context in a cell (R226). -/
def State.passesIn (s : State) (cell : Nat) : Nat :=
  (s.passes.filter fun p => passIn p.2.record cell).length + (s.opening.filter fun p => passIn p.2.2 cell).length

/-- The cases of R226 that the pass record and the open passes show. -/
def State.passRefused (s : State) (ctx pn : Nat) (r : BitVec 512) : Bool :=
  recF r 127 125 != 0 || recF r 511 304 != 0 || passPol r = 3 || recF r 123 122 = 3
    || recF r 287 256 = 0 || 2 ^ 24 < passTiles r || passSize r < passC0 r + 4
    || (s.pass? ctx pn).isSome || s.opening.any (fun p => p.1 == ctx && p.2.1 == pn)
    || (List.range 32).any fun c => passIn r c && 16 ≤ s.passesIn c

/-- A fault of a unit, whose AUX is the index of the unit alone (R226). -/
def Raise.plain (r : Raise) : Raise := { r with aux := 0 }

/-- A run of zeros or bytes written by the tiling engine for a command. -/
def Ecx.vput (x : Ecx) (e : Em) (a : Nat) (bs : List Byte) : Except Raise Em :=
  match x.pieces e.m.s false .write a bs.length with
  | .error r => .error r.plain
  | .ok (ps, s) =>
    match ({ e.m with s := s } : Mu).writeAll none false [] ps bs with
    | .error r => .error r.plain
    | .ok m => .ok { e with m := m }

/-- The units of TBEGIN (R226, R245): the mesh launch record, the zero headers in 4 KiB chunks, and the status block, after
which the pass is open. AUX of a fault that lies in no chunk of headers is 0 for the mesh launch record and the number of
chunks for the status block (DESIGN CHOICE, log entry 107). -/
def tbeginWork (s : State) (x : Ecx) (a : Active) : EWork :=
  let r := tbeginRec x.w a.recs
  let n := 16 * passTiles r
  let chunks := cdiv n 4096
  let next (e : Em) : EWork := .next e.m.s { e.a with idx := e.a.idx + 1 } 0
  if a.idx = 0 then
    let body (e : Em) : Except Raise Em :=
      match x.pieces e.m.s false .read (passMlr r) 64 with
      | .error q => .error q.plain
      | .ok (ps, s) =>
        match ({ e.m with s := s } : Mu).readAll none false ps with
        | .error q => .error q.plain
        | .ok (bs, m) => .ok { m := m, a := { e.a with recs := e.a.recs.set 256 (BitVec.ofNat 512 (leNat bs)) } }
    x.unit s a 0 body fun e =>
      if meshRecBad (e.a.recs.get 256 0) then .fault e.m.s a (raiseOf Cause.cmdIllegal) else next e
  else if a.idx ≤ chunks then
    let k := a.idx - 1
    x.unit s a k (fun e => x.vput e (passPb r + 4096 * k) (List.replicate (min 4096 (n - 4096 * k)) 0)) next
  else
    let p : Pass := { ctx := x.r.ctx, record := r, mrec := a.recs.get 256 0, bench := x.b, slot := x.slot, num := x.num,
                      nextch := passC0 r }
    x.unit s a chunks (fun e => x.vput e (passSt r) (p.status true)) fun e =>
      .done { e.m.s with passes := e.m.s.passes.set (x.r.ctx * 16 + tbeginPn x.w) p } e.a 0 0

/-- TBEGIN (R224 to R226, R405). -/
def tbeginSpec : CmdSpec :=
  { eng := some .tiling, dash := fBits 27 0,
    illegal := fun s x recs =>
      let r := tbeginRec x.w recs
      s.passRefused x.r.ctx (tbeginPn x.w) r || (s.peekMesh x r).any meshRecBad,
    misaligned := fun x recs =>
      let r := tbeginRec x.w recs
      passPb r % 256 != 0 || passSt r % 64 != 0 || passMlr r % 64 != 0,
    work := tbeginWork }

/-- The turn of TBEGIN. -/
def execTbegin (c : Cmd) (s : State) : Host.Outcome State Fault Refusal := s.command 0x40 c tbeginSpec

/-- TEND's turns (R227): it waits for the pass's mesh groups, lanes, parked offers (R233) and writes; then the status block with
OPEN = 0 is written, and when that is performed the pass is free. -/
def tendWork (s : State) (x : Ecx) (a : Active) : EWork :=
  let pn := tendPn x.w
  match s.pass? x.r.ctx pn with
  | none => .done s a 0 0
  | some p =>
    match s.passBad p with
    | some r => .wait (s.passFault x.r.ctx pn r)
    | none =>
      if p.halted || p.split != 0 || p.meshLive != 0 || p.queue != [] || s.offersOn x.r.ctx pn || s.remoteOpen p.who then .wait s
      else if a.idx = 0 then
        .next (s.passWrites x.r.ctx pn (cellOf p.bench) [p.statusWrite false]).2 { a with idx := 1 } 0
      else .done { (s.dropRemotes p.who) with passes := s.passes.erase (x.r.ctx * 16 + pn) } a 0 0

/-- TEND (R224, R227, R405). -/
def tendSpec : CmdSpec :=
  { eng := some .tiling, dash := fBits 35 0,
    illegal := fun s x _ =>
      match s.pass? x.r.ctx (tendPn x.w) with
      | none => true
      | some p => p.bench != x.b || p.slot != x.slot || p.closed,
    enter := fun s x _ => s.modPass x.r.ctx (tendPn x.w) fun p => { p with closed := true },
    work := tendWork }

/-- The turn of TEND. -/
def execTend (c : Cmd) (s : State) : Host.Outcome State Fault Refusal := s.command 0x41 c tendSpec

/-! ## TEMIT -/

/-- A fragment parks under a pass (R32, R233, R245). -/
def State.parkPass (s : State) (cx : Wcx) (pn : Nat) : WRes := .stay (s.parkAt cx (.pass pn))

/-- A TEMIT's offer is parked under a pass (R233): it has passed the checks, and is accepted when it wakes, though TEND may have
issued since. -/
def State.parkOffer (s : State) (cx : Wcx) (pn : Nat) : WRes :=
  (s.modFrag cx.b cx.slot cx.e fun f => { f with codes := [(offerMark, pn)] }).parkPass cx pn

/-- TEMIT (R229, R232, R407). -/
def execTemit (f : FS) (s : State) : Host.Outcome State Fault Refusal :=
  s.issue { reads := sReads f, writes := [sReg f.sd.toNat], barred := true } fun cx =>
    if cx.live = 0 then .done s [] 0
    else
      let a := (cx.w.sreg f.sa.toNat).toNat
      let n := bitsOf a 8 0
      let pn := bitsOf a 15 12
      let bad : WRes := .raise s (raiseOf Cause.illegal)
      match cx.g.origin, s.pass? cx.g.ctx pn with
      | .grid _ _, some p =>
        if cx.w.index != 0 || bitsOf a 11 9 != 0 || a / 2 ^ 16 != 0 || 256 < n || (p.closed && cx.f.codes == []) then bad
        else if passPol p.record = 2 && (256 < cx.g.offered + n || 2 ^ 24 < p.segMesh + n) then
          .raise s (raiseOf Cause.quota)
        else
          let k := min n (256 - cx.g.offered)
          if p.halted then s.parkOffer cx pn
          else if passPol p.record = 0 && 2 ^ 24 < p.segMesh + k then
            (s.modPass cx.g.ctx pn fun p => { p with split := if p.split = 0 then 1 else p.split }).parkOffer cx pn
          else
            let k := min k (2 ^ 24 - p.segMesh)
            let s1 := s.release cx.b 5
            let new := (List.range k).map fun i =>
              { payload := cx.sB f, task := cx.g.groupId, midx := cx.g.offered + i : MeshGroup }
            let p := { p with queue := p.queue ++ new, segMesh := p.segMesh + k, meshg := p.meshg + k,
                              dropm := p.dropm + (n - k) }
            -- a fault of the status block's write is the pass's (R245), and the groups are accepted
            let (_, s2) := (s1.modPass cx.g.ctx pn fun _ => p).passWrites cx.g.ctx pn (cellOf cx.b) [p.statusWrite true]
            let s2 := if cx.f.codes = [] then s2 else s2.modFrag cx.b cx.slot cx.e fun f => { f with codes := [] }
            .done ((s2.modGroup cx.b cx.w.group fun g => { g with offered := g.offered + k }).setS cx f.sd.toNat (w64 k)) [] 0
      | _, _ => bad

/-! ## MEMIT -/

/-- A vertex of a part in 1/16 pixels. -/
abbrev Vert := Int × Int

/-- Twice the signed area of a part (R231). -/
def area2 (v : Vert × Vert × Vert) : Int :=
  let (a, b, c) := v
  (b.1 - a.1) * (c.2 - a.2) - (c.1 - a.1) * (b.2 - a.2)

/-- The extent of an edge (R231). -/
def edgeLen (a b : Vert) : Nat := max (b.1 - a.1).natAbs (b.2 - a.2).natAbs

/-- A part split along its longest edge until every edge is at most 32,767 (R231). -/
def splitPart : Nat → Vert × Vert × Vert → List (Vert × Vert × Vert)
  | 0, v => [v]
  | fuel + 1, v =>
    let (v0, v1, v2) := v
    let l0 := edgeLen v0 v1
    let l1 := edgeLen v1 v2
    let l2 := edgeLen v2 v0
    if max l0 (max l1 l2) ≤ 32767 then [v]
    else
      let cut (a b c : Vert) : List (Vert × Vert × Vert) :=
        let m : Vert := ((a.1 + b.1) / 2, (a.2 + b.2) / 2)
        splitPart fuel (a, m, c) ++ splitPart fuel (m, b, c)
      if l1 ≤ l0 && l2 ≤ l0 then cut v0 v1 v2
      else if l2 ≤ l1 then cut v1 v2 v0
      else cut v2 v0 v1

/-- The tiles of a part within the grid (R231), by index (R234). -/
def partTiles (r : BitVec 512) (v : Vert × Vert × Vert) : List Nat :=
  let (a, b, c) := v
  let span (x y z : Int) (last : Nat) : List Nat :=
    let lo := (max 0 (min x (min y z) / 256)).toNat
    let hi := min (max x (max y z) / 256) (last : Int)
    if hi < lo then [] else (List.range (hi.toNat + 1 - lo)).map (lo + ·)
  let txs := span a.1 b.1 c.1 (passTwm r)
  (span a.2 b.2 c.2 (recF r 119 108)).flatMap fun ty => txs.map fun tx => ty * (passTwm r + 1) + tx

/-- A finite F32 as an integer over 2^149. -/
def f32Fix (w : Nat) : Int :=
  match FVal.decode .f32 w with
  | .fin n m e => let v : Int := (m * 2 ^ (e + 149).toNat : Nat); if n then -v else v
  | _ => 0

/-- A quotient of an integer over 2^149 and a positive integer as F32, RNE (R235). -/
def fixRound (n : Int) (d : Nat) : W32 := roundF32 ⟨n < 0, n.natAbs, d, -149⟩

/-- A triangle that is set up (R231, R235): its parts with their tiles, and the record bits they share. -/
structure Tri where
  parts : List ((Vert × Vert × Vert) × List Nat)
  shared : Nat
  deriving DecidableEq, Repr

/-- SetUpLane (R231) of nine coordinate words, up to the space it needs: a code, or the triangle. `key` is TASK × 256 +
MIDX; `vb` and `vc` are the lane's PIDX, MAT and OBJ. -/
def setUpLane (r : BitVec 512) (w : List Nat) (key vb vc : Nat) : Except Nat Tri :=
  let v (i : Nat) : FVal := .decode .f32 (w.getD i 0)
  let far (x : FVal) : Bool := !ltVal (match x with | .fin _ m e => .fin false m e | y => y) (.ofInt 16384)
  if (List.range 9).any fun i => !(v i).isFin then .error 3
  else if [0, 1, 3, 4, 6, 7].any fun i => far (v i) then .error 3
  else
    let at_ (i : Nat) : Vert := (rneInt ((v (3 * i)).scale 4), rneInt ((v (3 * i + 1)).scale 4))
    let a2 := area2 (at_ 0, at_ 1, at_ 2)
    let back : Bool := (decide (0 < a2)) == bitOf r.toNat 124
    let cull := recF r 123 122
    if a2 = 0 then .error 3
    else if (cull = 1 && back) || (cull = 2 && !back) then .error 1
    else
      let (i1, i2) := if a2 < 0 then (2, 1) else (1, 2)
      let (p0, p1, p2) := (at_ 0, at_ i1, at_ i2)
      let z (i : Nat) : Int := f32Fix (w.getD (3 * i + 2) 0)
      let dz1 := z i1 - z 0
      let dz2 := z i2 - z 0
      let zdx := fixRound (dz1 * (p2.2 - p0.2) - dz2 * (p1.2 - p0.2)) a2.natAbs
      let zdy := fixRound ((p1.1 - p0.1) * dz2 - (p2.1 - p0.1) * dz1) a2.natAbs
      let parts := ((splitPart 64 (p0, p1, p2)).filter fun p => 0 < area2 p).map fun p => (p, partTiles r p)
      if parts.all fun p => p.2 = [] then .error 1
      else
        .ok { parts := parts,
              shared := wrap 32 p0.1 * 2 ^ 192 + wrap 32 p0.2 * 2 ^ 224 + w.getD 2 0 * 2 ^ 256 + zdx.toNat * 2 ^ 288
                + zdy.toNat * 2 ^ 320 + vc * 2 ^ 352 + (key * 256 + vb % 256) % 2 ^ 40 * 2 ^ 384
                + bitsOf vb 23 8 * 2 ^ 424 + (if back then 2 ^ 440 else 0)
                + (if 1 < parts.length then 2 ^ 441 else 0) }

/-- A pass as a lane's records and list entries change it, with the writes that this takes, in order. -/
abbrev Binning := Pass × List (Nat × List Byte)

/-- A chunk is allocated (R228, R232): none is left at PBSZ. -/
def Pass.chunk (p : Pass) : Option (Nat × Pass) :=
  if p.nextch < passSize p.record then some (p.nextch, { p with nextch := p.nextch + 1 }) else none

/-- A primitive record of a part, in the record chunk that its cell fills (R234, R235): its index. Which record a cell takes
is left open; here it fills one chunk after another (DESIGN CHOICE, log entry 46). -/
def Binning.record (b : Binning) (cell : Nat) (v : Vert × Vert × Vert) (shared : Nat) : Option (Nat × Binning) :=
  let (p, ws) := b
  let next := p.recFill.get cell 0
  let place := if next % 4 = 0 then p.chunk.map fun c => (4 * c.1, c.2) else some (next, p)
  place.map fun q =>
    let (x, y, z) := v
    let bits := wrap 32 x.1 + wrap 32 x.2 * 2 ^ 32 + wrap 32 y.1 * 2 ^ 64 + wrap 32 y.2 * 2 ^ 96 + wrap 32 z.1 * 2 ^ 128
      + wrap 32 z.2 * 2 ^ 160 + shared
    (q.1, { q.2 with recFill := q.2.recFill.set cell (q.1 + 1), prims := q.2.prims + 1 },
      ws ++ [(passPb p.record + 64 * q.1, leBytes 64 bits)])

/-- The index of a record appended to a tile's list (R234). -/
def Binning.entry (b : Binning) (r t : Nat) : Option Binning :=
  let (p, ws) := b
  let pb := passPb p.record
  let (head, n, tail) := p.heads.get t (0, 0, 0)
  let header (h n' t' : Nat) : Nat × List Byte := (pb + 16 * t, leBytes 16 (h + n' * 2 ^ 32 + t' * 2 ^ 64))
  if n % 63 = 0 then
    p.chunk.map fun c =>
      let link := if n = 0 then [] else [(pb + 256 * tail, leBytes 4 c.1)]
      let h := if n = 0 then c.1 else head
      ({ c.2 with heads := c.2.heads.set t (h, n + 1, c.1) },
        ws ++ [(pb + 256 * c.1, leBytes 8 (r * 2 ^ 32))] ++ link ++ [header h (n + 1) c.1])
  else
    some ({ p with heads := p.heads.set t (head, n + 1, tail) },
      ws ++ [(pb + 256 * tail + 4 + 4 * (n % 63), leBytes 4 r), header head (n + 1) tail])

/-- The records and list entries of a triangle (R231): none when a chunk is missing. -/
def Binning.bin (b : Binning) (cell : Nat) (t : Tri) : Option Binning :=
  t.parts.foldl (fun b p =>
    match b with
    | none => none
    | some b =>
      match b.record cell p.1 t.shared with
      | none => none
      | some (r, b) => p.2.foldl (fun b k => b.bind fun b => b.entry r k) (some b)) (some b)

/-- The lanes of a MEMIT one after another (R231, R232): the binning, the codes so far, and whether a lane found no chunk,
where the lanes from it on are pending. -/
def binLanes (cell : Nat) (setUp : Nat → Except Nat Tri) : List Nat → Binning → Tbl Nat → Binning × Tbl Nat × Bool
  | [], b, codes => (b, codes, false)
  | l :: ls, b, codes =>
    match setUp l with
    | .error c =>
      let p := if c = 1 then { b.1 with culled := b.1.culled + 1 } else { b.1 with discard := b.1.discard + 1 }
      binLanes cell setUp ls (p, b.2) (codes.set l c)
    | .ok t =>
      match b.bin cell t with
      | some b => binLanes cell setUp ls b (codes.set l 0)
      | none =>
        if passPol b.1.record = 1 then
          binLanes cell setUp ls ({ b.1 with dropl := b.1.dropl + 1 }, b.2) (codes.set l 2)
        else (b, codes, true)

/-- MEMIT (R231 to R233, R245, R374, R375). Where a write faults, the pass owes it and those after it, and the fragment parks
until the home ring is resumed and they are made. -/
def execMemit (f : VR) (s : State) : Host.Outcome State Fault Refusal :=
  let va := f.va.toNat
  let vb := f.vb.toNat
  let vc := f.vc.toNat
  let open_ (cx : Wcx) : Bool := match cx.g.origin with
    | .mesh pn _ => (s.pass? cx.g.ctx pn).isSome
    | .grid _ _ => false
  s.issue { reads := vRegs va 9 ++ [vb, vc], writes := [f.vd.toNat], barred := true, illegal := s.wcx.any fun cx => !open_ cx,
            oc := (if f.oc.getLsbD 2 then vRegs va 9 else []) ++ (if f.oc.getLsbD 1 then [vb] else [])
              ++ (if f.oc.getLsbD 0 then [vc] else []) } fun cx =>
    let bad : WRes := .raise s (raiseOf Cause.illegal)
    match cx.g.origin with
    | .grid _ _ => bad
    | .mesh pn key =>
      match s.pass? cx.g.ctx pn with
      | none => bad
      | some p =>
        let xyz := (List.range 9).map fun i => s.readV cx (va + i)
        let bs := s.readV cx vb
        let cs := s.readV cx vc
        let ls := lanesOf cx.live
        if ls.any fun l => bs.getD l 0 / 2 ^ 24 != 0 then bad
        else
          let todo := ls.filter fun l => (cx.f.codes.get? l).isNone
          let finish (s : State) (codes : Tbl Nat) : WRes :=
            .done (s.modFrag cx.b cx.slot cx.e fun f => { f with codes := [] })
              [⟨f.vd.toNat, cx.live, lanes.map fun l => codes.get l 0⟩] 0
          if todo = [] then finish s cx.f.codes
          else if p.halted || p.split != 0 then s.parkPass cx pn
          else
            let cell := cellOf cx.b
            let setUp (l : Nat) : Except Nat Tri :=
              setUpLane p.record (xyz.map fun r => r.getD l 0) key (bs.getD l 0) (cs.getD l 0)
            let ((p', ws), codes, full) := binLanes cell setUp todo (p, []) cx.f.codes
            if full && passPol p.record = 2 then .raise s (raiseOf Cause.quota)
            else
              let p' := if full then { p' with split := 1 } else p'
              let (ok, s1) := (s.modPass cx.g.ctx pn fun _ => p').passWrites cx.g.ctx pn cell (ws ++ [p'.statusWrite true])
              if full || !ok then (s1.modFrag cx.b cx.slot cx.e fun f => { f with codes := codes }).parkPass cx pn
              else finish s1 codes

/-! ## Splits -/

/-- The signal of a split (R233): after Release(DEVICE), SPLS rises by 1. A SEMOVF halts the home ring, and the increment is
owed until the ring is resumed. -/
def State.splitSignal (s : State) (ctx pn : Nat) (p : Pass) : State :=
  let s := s.release p.bench 5
  match s.semAdd p.bench ((s.bench p.bench).physical ctx (recF p.record 295 288)) 1 with
  | none => s.passFault ctx pn (raiseOf Cause.semOvf)
  | some s => s.modPass ctx pn fun p => { p with split := 2 }

/-- TILING_SPLIT (R233): when every write of the segment is performed, SEGS rises; then SPLS is signalled. -/
def execTilingSplit (ctx pn : Nat) (s : State) : Host.Outcome State Fault Refusal :=
  match s.pass? ctx pn with
  | none => .next s
  | some p =>
    match s.passBad p with
    | some r => .next (s.passFault ctx pn r)
    | none =>
      if !s.passRuns p || s.remoteOpen p.who then .next s
      else if p.split = 4 then .next (s.splitSignal ctx pn p)
      else if p.split = 1 then
        let p' := { p with segs := p.segs + 1, split := 4 }
        match (s.modPass ctx pn fun _ => p').passWrites ctx pn (cellOf p.bench) [p'.statusWrite true] with
        | (true, s) => .next (if s.remoteOpen p.who then s else s.splitSignal ctx pn p')
        | (false, s) => .next s
      else .next s

/-- SPLIT_RESUME (R233): a unit of RESS is taken as a ring's WAIT takes one; then the headers are zero again, NEXTCH is C0,
the segment's mesh count is 0, and the pending lanes and offers go on. -/
def execSplitResume (ctx pn : Nat) (s : State) : Host.Outcome State Fault Refusal :=
  match s.pass? ctx pn with
  | none => .next s
  | some p =>
    if !(p.split = 2 || p.split = 3) || !s.passRuns p then .next s
    else
      let got : Bool × State :=
        if p.split = 3 then (true, s)
        else
          match s.semTake p.bench ((s.bench p.bench).physical ctx (recF p.record 303 296)) (.pass ctx pn) with
          | (true, s) => (true, s.modPass ctx pn fun p => { p with split := 3 })
          | (false, s) => (false, s)
      match got with
      | (false, s) => .next s
      | (true, s) =>
        let r := p.record
        let n := 16 * passTiles r
        let zeros := (List.range (cdiv n 128)).map fun k => (passPb r + 128 * k, List.replicate (min 128 (n - 128 * k)) (0 : Byte))
        let p' := { p with split := 0, nextch := passC0 r, segMesh := 0, recFill := [], heads := [] }
        match (s.modPass ctx pn fun _ => p').passWrites ctx pn (cellOf p.bench) (zeros ++ [p'.statusWrite true]) with
        | (true, s) => .next (s.wakePass ctx pn)
        | (false, s) => .next s

/-! ## Mesh groups -/

/-- MESH_GROUP_PLACE (R230): the mesh group at the head of a pass's queue is placed, on the bench with the most free wave
slots of the cells of CELLMASK (R199). The spec gives it no launch count of its own; it takes 0 (DESIGN CHOICE, log
entry 47). -/
def execMeshGroupPlace (ctx pn : Nat) (s : State) : Host.Outcome State Fault Refusal :=
  match s.pass? ctx pn with
  | none => .next s
  | some p =>
    match p.queue with
    | [] => .next s
    | m :: rest =>
      let bs := (s.benches.map (·.1)).filter fun b => passIn p.record (cellOf b)
      match s.bestBench ctx p.mrec false bs with
      | none => .next s
      | some (b, ft) =>
        let key := m.task * 256 + m.midx
        let s := s.startGroup b ctx p.mrec ft (.mesh pn key) 0 p.meshId 0 [] false [(0, m.payload), (1, w64 key)]
        .next (s.modPass ctx pn fun p => { p with queue := rest, meshId := p.meshId + 1, meshLive := p.meshLive + 1 })

end Sys2Proof.Machine
end

