-- ==== Sys2Proof/Machine/Events.lean ====
section
/-! DEFINITION. What happens of itself or by a write of one named register: shootdowns, the fault rings and the latch, the
reset of a context, format ranges and views, the order gate, attestation, features, power, scheduling registers, and
barriers, sleeps, user-level interrupts, the split table and the watchdog. -/

namespace Sys2Proof.Machine

open Sys2Proof

/-! ## Translation and faults -/

/-- SHOOTDOWN_GO (R131, R132): a write of GO to block `k` with its other fields as they stand; ERR is set while DONE = 0. -/
def execShootdownGo (k : Nat) (s : State) : Host.Outcome State Fault Refusal :=
  let d := s.dev.shoots.get k {}
  if 288 ≤ k then .next s
  else if d.done then .next (s.shootGo k)
  else .next (s.modDev fun x => { x with shoots := x.shoots.set k { d with err := true } })

/-- SHOOTDOWN_DONE (R132). -/
def execShootdownDone (k : Nat) (s : State) : Host.Outcome State Fault Refusal := .next (s.shootDone k)

/-- LATCH_REL (R217). -/
def execLatchRel (b : Nat) (s : State) : Host.Outcome State Fault Refusal := .next (s.releaseLatch b)

/-- FAULT_RING_RIDX (R209, R211): the pager's write of RIDX; one above WIDX is ignored. -/
def execFaultRingRidx (ctx : Nat) (v : W64) (s : State) : Host.Outcome State Fault Refusal :=
  if 4096 ≤ ctx then .next s else .next (s.writeReg 0 (.ctx ctx 1) v)

/-- FAULT_RECORD_DEFERRED (R211). -/
def execFaultRecordDeferred (ctx : Nat) (s : State) : Host.Outcome State Fault Refusal := .next (s.drainRecords ctx)

/-- LATCHED_MESSAGE (R216). -/
def execLatchedMessage (b : Nat) (s : State) : Host.Outcome State Fault Refusal := .next (s.sendLatched b)

/-- CONTEXT_RESET (R222): a write of RST = 1; while RSTBUSY = 1 it is ignored. -/
def execContextReset (ctx : Nat) (s : State) : Host.Outcome State Fault Refusal :=
  if 4096 ≤ ctx || (s.ctxBlock ctx).rstbusy then .next s else .next (s.resetCtx ctx)

/-- CONTEXT_RESET_DONE (R222). -/
def execContextResetDone (ctx : Nat) (s : State) : Host.Outcome State Fault Refusal := .next (s.resetCtxDone ctx)

/-! ## Memory -/

/-- FORMAT_RANGE_VALIDATE (R118): a write of word 0 of range `n` that sets V. -/
def execFormatRangeValidate (n : Nat) (v : W64) (s : State) : Host.Outcome State Fault Refusal :=
  if n < 64 && v.getLsbD 0 then .next (s.writeRange n 0 v) else .next s

/-- FORMAT_RANGE_RETIRE (R118): a write of word 0 of range `n` that clears V. -/
def execFormatRangeRetire (n : Nat) (v : W64) (s : State) : Host.Outcome State Fault Refusal :=
  if n < 64 && !v.getLsbD 0 && (s.range n).v then .next (s.writeRange n 0 v) else .next s

/-- RANGE_RETIRE_COMPLETE (R118). -/
def execRangeRetireComplete (n : Nat) (s : State) : Host.Outcome State Fault Refusal := .next (s.retireRange n)

/-- POOLSZ_RAISE (R123): a write of POOLSZ of a valid range. -/
def execPoolszRaise (n : Nat) (v : W64) (s : State) : Host.Outcome State Fault Refusal :=
  if n < 64 && (s.range n).v then .next (s.writeRange n 5 v) else .next s

/-- A block of an exponent-coded range has a dirty sector in the system cache. -/
def State.blockDirty (s : State) (n blk : Nat) : Bool :=
  let r := s.range n
  (r.v || r.busy) && r.live.coded && blk < r.live.size
    && s.viewDirty.any fun k => r.live.start + 4096 * blk ≤ 64 * k && 64 * k < r.live.start + 4096 * blk + 4096

/-- VIEW_WRITEBACK (R122, R123): the controller re-encodes a block that has a dirty sector. -/
def execViewWriteback (n blk : Nat) (s : State) : Host.Outcome State Fault Refusal :=
  if s.blockDirty n blk then .next (s.writeBackBlock n blk).1 else .next s

/-- POOL_RETRY (R123): a write-back that waits for room tries again; it goes on waiting where there is still none. -/
def execPoolRetry (n blk : Nat) (s : State) : Host.Outcome State Fault Refusal :=
  if s.blockDirty n blk && (s.range n).waiting.contains blk then
    match s.writeBackBlock n blk with
    | (s', true) => .next s'
    | (_, false) => .next s
  else .next s

/-- L1_EVICT (R110, R111): a line leaves the L1, and exactly its masked bytes are written. -/
def execL1Evict (b line : Nat) (s : State) : Host.Outcome State Fault Refusal :=
  match (s.bench b).lines.find? fun l => l.line == line with
  | none => .next s
  | some l => .next ((s.writeBackLine b l).modBench b fun x => { x with lines := x.lines.filter fun k => k.line != line })

/-- UNCORRECTABLE_ERROR (R113, R218): the sector of a local address becomes poisoned; the source is one that the address can
have. -/
def execUncorrectableError (pa src : Nat) (s : State) : Host.Outcome State Fault Refusal :=
  let fits : Bool := match s.place pa with
    | .lpddr _ => src == 0 || src == 2
    | .vault _ => src == 1 || src == 2
    | .view _ => src == 2
    | .store _ _ => src == 4
    | _ => false
  if fits then .next ((s.fillViews pa [pa % 2 ^ 44 / 64]).poisonSector (pa % 2 ^ 44 / 64) src) else .next s

/-! ## The order gate -/

/-- ARBITRATION_MODE_WRITE (R159, R162): a write of word 0 of a die's block. -/
def execArbitrationModeWrite (die : Nat) (v : W64) (s : State) : Host.Outcome State Fault Refusal :=
  if die < 2 then .next (s.writeArb die 0 v) else .next s

/-- GATE_RELEASE (R162). -/
def execGateRelease (die : Nat) (s : State) : Host.Outcome State Fault Refusal := .next (s.gateStep die)

/-- ORDERGATE (R162): an atomic has been held for GATETO µs. -/
def execOrdergate (die : Nat) (s : State) : Host.Outcome State Fault Refusal :=
  let a := (s.die die).arb
  if a.mode = 2 && a.held.any (fun h => h.since + 1000 * a.gateto ≤ s.dev.ptc.ptc) then .next (s.failGate die) else .next s

/-! ## Attestation, features, ownership, power -/

/-- QGO (R288): while a quote is in progress it is ignored. -/
def execQgo (s : State) : Host.Outcome State Fault Refusal :=
  if s.dev.boot.qdone then .next s.quoteGo else .next s

/-- QUOTE_DONE (R288): SIG is an Ed25519 signature over SHA-512(MEAS ‖ NONCE ‖ PKGID). -/
def execQuoteDone (s : State) : Host.Outcome State Fault Refusal :=
  let k := s.dev.boot
  if k.qdone then .next s
  else
    -- the width of PKGID in the hashed bytes is not given: the 8-byte register word is taken (DESIGN CHOICE, log entry 49)
    let text := leBytes 64 k.meas.toNat ++ leBytes 32 k.nonce.toNat ++ leBytes 8 s.dev.fabric.pkgid
    .next (s.modDev fun d => { d with boot := { k with sig := identitySign (sha512 text), qdone := true } })

/-- FEATURE_ACCEPT (R290). -/
def execFeatureAccept (word : Nat) (v : W64) (s : State) : Host.Outcome State Fault Refusal :=
  if word < 8 then .next (s.writeAccept word v) else .next s

/-- FEATURE_COMMIT (R290): once DONE is set it is ignored. -/
def execFeatureCommit (s : State) : Host.Outcome State Fault Refusal :=
  if s.dev.features.done then .next s else .next s.commitFeatures

/-- OWNERSHIP_SEMAPHORE (R289): the writes of Port A and Port B in one cycle. -/
def execOwnershipSemaphore (k : Nat) (a p : Option W64) (s : State) : Host.Outcome State Fault Refusal :=
  let code (v : W64) : Nat := v.toNat % 4
  if k < 32 then
    .next (s.modDev fun d => { d with owners := d.owners.upd k {} fun o => o.write (a.map code) (p.map code) })
  else .next s

/-- CELL_POWER_REQ (R291). -/
def execCellPowerReq (c : Nat) (v : W64) (s : State) : Host.Outcome State Fault Refusal :=
  if c < 32 then .next (s.writeCellReq c v) else .next s

/-- CELL_OFF_REACHED (R291): QUIESCE and SAVE are over; the lines that were still held have been written back. -/
def execCellOffReached (c : Nat) (s : State) : Host.Outcome State Fault Refusal :=
  let x := s.dev.cells.get c {}
  if x.state = 1 || x.state = 2 then
    let s := (List.range 8).foldl (fun s k => s.flushL1 (8 * c + k)) s
    .next (s.modDev fun d => { d with cells := d.cells.set c { x with state := 3 } })
  else .next s

/-- A unit lies in a cell. -/
def TlbUnit.inCell (u : TlbUnit) (c : Nat) : Bool :=
  match u with
  | .bench b => cellOf b == c
  | .queue b _ => cellOf b == c
  | .tiling k => k == c
  | .traversal k => k == c
  | .gaffer b => cellOf b == c
  | .fabric _ => false
  | .host _ => false

/-- CELL_WAKE_DONE (R291): tiles have their reset values, and TLBs and CACHE granules are empty. What goes neither to
retention nor to a reset value keeps its value (DESIGN CHOICE, log entry 50). -/
def execCellWakeDone (c : Nat) (s : State) : Host.Outcome State Fault Refusal :=
  let x := s.dev.cells.get c {}
  if x.state != 4 then .next s
  else
    let wake (b : Nat) (y : Bench) : Bench := if cellOf b = c then { y with tiles := [], lines := [] } else y
    let s := { s with benches := s.benches.mapVal wake, tlbs := s.tlbs.filter fun p => !p.1.inCell c }
    .next (s.modDev fun d => { d with cells := d.cells.set c { x with state := 0 } })

/-- PLIM (R292). -/
def execPlim (v : W64) (s : State) : Host.Outcome State Fault Refusal := .next (s.writePower v)

/-- A domain's clock is held (R11): one of its timed rings runs. -/
def State.clockHeld (s : State) (die : Nat) : Bool :=
  s.benches.any fun p => s.domain (dieOf p.1) == s.domain die && p.2.rings.any fun k =>
    k.2.timed && k.2.state == .running && k.2.begun && !k.2.armed

/-- CLOCK_STEP_SELECT (R292): the steps that the device has chosen; a held domain keeps its step, and both dies of a lockstep
package have one (R11). -/
def execClockStepSelect (k0 k1 : Nat) (s : State) : Host.Outcome State Fault Refusal :=
  let k1 := if s.dev.boot.lockstep then k0 else k1
  let p := s.dev.power
  let p := { p with step0 := if k0 ≤ 6 && !s.clockHeld 0 then k0 else p.step0,
                    step1 := if k1 ≤ 6 && !s.clockHeld 1 then k1 else p.step1 }
  .next (s.modDev fun d => { d with power := p })

/-- THERMAL_TRIP (R11, R292): while a timed ring of the die's domain runs, every timed ring of the domain halts with TIMING,
those that are ARMED too; then the domain's step rises and THROT is set. -/
def execThermalTrip (die : Nat) (s : State) : Host.Outcome State Fault Refusal :=
  if 2 ≤ die then .next s else
  let dom := s.domain die
  let up (d k : Nat) : Nat := if s.domain d = dom then min 6 (k + 1) else k
  let s := if s.clockHeld die then s.haltTimed fun d => s.domain d == dom else s
  let p := s.dev.power
  let p := { p with throt := true, step0 := up 0 p.step0, step1 := up 1 p.step1 }
  .next (s.modDev fun d => { d with power := p })

/-- THERMAL_CUT (R292): both dies lose power; nothing moves until the next power-on. -/
def execThermalCut (s : State) : Host.Outcome State Fault Refusal :=
  .next (s.modDev fun d => { d with power := { d.power with off := true } })

/-! ## Scheduling registers, package time, messages -/

/-- PTC_WRITE (R275). -/
def execPtcWrite (v : W64) (s : State) : Host.Outcome State Fault Refusal := .next (s.writePtc v)

/-- QOS_WINDOW (R116): a new window begins at a multiple of 1,000 ns of package time. The bytes counted in it decide only the
order of service, which is timing. -/
def execQosWindow (s : State) : Host.Outcome State Fault Refusal :=
  .next (s.modDev fun d => { d with qosWindow := d.ptc.ptc / 1000 * 1000 })

/-- LAUNCH_QUEUE_WRITE (R188, R290). -/
def execLaunchQueueWrite (q : Nat) (v : W64) (s : State) : Host.Outcome State Fault Refusal :=
  if q < 64 then .next (s.writeQueue q v) else .next s

/-- CONTEXT_TABLE_WRITE (R185). -/
def execContextTableWrite (v : W64) (s : State) : Host.Outcome State Fault Refusal := .next (s.writeCtxTable v)

/-- PARTITION_WRITE (R197): the second word is read-only. -/
def execPartitionWrite (b p word : Nat) (v : W64) (s : State) : Host.Outcome State Fault Refusal :=
  if b < 256 && p < 8 && word = 0 then .next (s.writePart b p v) else .next s

/-- PORT_B_MESSAGE (R257): the write of the last word of a block. -/
def execPortBMessage (b : Nat) (v : W64) (s : State) : Host.Outcome State Fault Refusal :=
  if b < 256 then .next (s.writePortB b 7 v) else .next s

/-! ## Waves -/

/-- UNASSIGNED_OPC (R327, R305). -/
def execUnassignedOpc (_w : W64) (s : State) : Host.Outcome State Fault Refusal :=
  s.issue {} fun _ => .raise s (raiseOf Cause.illegal)

/-- A wave has arrived at a barrier (R339): every RUN entry is parked there; one with no entry has exited. -/
def Wave.arrived (w : Wave) (k : Wait) : Bool := w.frags.all fun p => p.2.waiting || p.2.wait == some k

/-- A group's waves have arrived (R339, R340). -/
def groupArrived (ws : Tbl Wave) (g : Group) (k : Wait) : Bool :=
  g.waves.all fun n => (ws.get? n).all fun w => w.arrived k

/-- A group's resident fragments parked at a barrier go on, with Acquire (R339, R340). -/
def State.passBarrier (s : State) (b : Nat) (g : Group) (k : Wait) (sc : Nat) : State :=
  let hits := g.waves.flatMap fun n =>
    match s.wave? b n with
    | some w => (w.frags.filter fun p => p.2.wait == some k).map fun p => (n, p.1)
    | none => []
  if hits = [] then s else (hits.foldl (fun s p => s.resumeFrag b p.1 p.2) s).acquire b sc

/-- BARRIER_COMPLETE (R339): when every wave of a group has arrived. -/
def execBarrierComplete (b g : Nat) (s : State) : Host.Outcome State Fault Refusal :=
  match s.group? b g with
  | none => .next s
  | some x => if groupArrived (s.bench b).waves x .bar then .next (s.passBarrier b x .bar 1) else .next s

/-- The group of a cluster in a slot, with the waves that hold its arrivals: resident, or saved (R202, R340), where another
context may have the slot meanwhile. A slot in which neither is found shows that the member has ended. -/
def State.member (s : State) (x : Group) (b gs : Nat) : Option (Group × Tbl Wave × Bool) :=
  let same (g : Group) : Bool :=
    g.ctx == x.ctx && g.origin == x.origin && g.cluster == x.cluster && g.groupId - g.clusterId == x.groupId - x.clusterId
  let y := s.bench b
  let c := y.ctx x.ctx
  match (y.groups.get? gs).filter same, (c.groups.get? gs).filter same with
  | some g, _ => some (g, y.waves, false)
  | none, some g => some (g, c.waves, true)
  | none, none => none

/-- CLUSTER_BARRIER_COMPLETE (R340): when every group of a group's cluster has arrived. -/
def execClusterBarrierComplete (b g : Nat) (s : State) : Host.Outcome State Fault Refusal :=
  match s.group? b g with
  | none => .next s
  | some x =>
    let slots := if x.cluster = [] then [(b, g)] else x.cluster
    let here (m : Nat × Nat) : Bool := (s.member x m.1 m.2).all fun r => groupArrived r.2.1 r.1 .cbar
    if !slots.all here then .next s
    else .next (slots.foldl (fun s m =>
      match s.member x m.1 m.2 with
      | none => s
      | some (y, _, false) => s.passBarrier m.1 y .cbar 3
      | some (y, _, true) =>
        let now := s.cycle m.1
        let go (f : Frag) : Frag := if f.wait = some .cbar then { f with pc := f.pc + 8, wait := none, since := now } else f
        let pass (n : Nat) (w : Wave) : Wave :=
          if y.waves.contains n then { w with frags := w.frags.mapVal fun _ f => go f } else w
        let back := y.waves.flatMap fun n => match (((s.bench m.1).ctx x.ctx).waves.get? n) with
          | some w => (w.frags.filter fun p => p.2.wait == some .cbar).map fun p => Parker.frag x.ctx n p.1
          | none => []
        (s.modBench m.1 fun z => if back = [] then z else z.unpark back).modCtxBench m.1 x.ctx fun c =>
          { c with waves := c.waves.mapVal pass }) s)

/-- SLEEP_EXPIRY (R401): the end cycle has come, or the group's pending code is not 0. -/
def execSleepExpiry (b slot e : Nat) (s : State) : Host.Outcome State Fault Refusal :=
  match s.wave? b slot with
  | none => .next s
  | some w =>
    match (w.frags.get? e).bind (·.wait) with
    | some (.sleep till) =>
      let uli := (s.group? b w.group).any fun g => g.uli != 0
      if uli || till.any (· ≤ s.cycle b) then .next (s.resumeFrag b slot e) else .next s
    | _ => .next s

/-- The lanes of a wave that have not exited: those of its RUN entries, and those that have arrived at a JOIN (R26, R27). -/
def Wave.liveLanes (w : Wave) : W32 :=
  w.frags.foldl (fun m p => m ||| (if p.2.waiting then p.2.arrive else p.2.mask)) 0

/-- The 64 bytes of a user-level-interrupt frame (R221); the spec gives its last 8 bytes no content: an open value. -/
def uliFrame (w : Wave) (code open_ : Nat) : List Byte :=
  (([60, 61, 62, 63].map fun i => (w.sreg i).toNat) ++ [w.scc.toNat, code, w.fpflags.toNat, open_]).flatMap fun v => leBytes 8 v

/-- The entries of a wave are suspended for a delivery (R221), or no longer. -/
def Wave.suspend (w : Wave) (on : Bool) : Wave := { w with frags := w.frags.mapVal fun _ f => { f with susp := on } }

/-- The fragments of a wave that would issue their next instruction outside a bypass window (R220). -/
def State.delivers (s : State) (b slot : Nat) (w : Wave) : List Nat :=
  (w.frags.filter fun p => p.2.win.left = 0 && s.fragReady b slot p.1 w p.2 && !s.goesOn b slot p.1 p.2).map (·.1)

/-- The handler fragment of a delivery (R221). A fault of its entry's spill is one of fragment `e`, and the delivery has no
effect (R29). -/
def State.enterHandler (s : State) (b slot e : Nat) (w : Wave) (g : Group) (t : State) : State :=
  let blk := s.ctxBlock g.ctx
  let va := (blk.ulistk.toNat + (32 * b + slot) * 256) % 2 ^ 64
  let h : Frag := { mask := w.liveLanes, pc := blk.ulivec, since := s.cycle b, handler := true }
  match (t.modWave b slot fun w => w.suspend true).newEntry b slot g.ctx [] h with
  | .error r =>
    match w.frags.get? e with
    | some f => ((s.dropRemotes (.frag b slot e)).modWave b slot fun w => w.suspend false).waveFault b slot e g f r
    | none => s
  | .ok (_, t) =>
    let t := t.modFrag b slot e fun f => { f with wait := none }
    let t := t.modWave b slot fun x =>
      { x with frame := w64 va, s := (w.s.set 63 (w64 va)).set 62 (w64 g.uli.toNat) }
    t.modGroup b w.group fun g => { g with uli := 0 }

/-- ULI_DELIVERY (R220, R221): the pending code of a group is delivered to its lowest-numbered wave that has not exited, when
a fragment of that wave would issue outside a bypass window. The frame is written as the wave's weak store; where it lies in
another package the suspended wave awaits the answer (R269), under a key above those of fetches. A fault of the write goes to
the latch, and the fragments that would have issued park under its page (R216). -/
def execUliDelivery (b slot : Nat) (s : State) : Host.Outcome State Fault Refusal :=
  match s.wave? b slot with
  | none => .next s
  | some w =>
    match s.group? b w.group with
    | none => .next s
    | some g =>
      let blk := s.ctxBlock g.ctx
      let first := g.waves.find? fun n => (s.wave? b n).any fun x => x.frags != []
      let sent := w.frags.find? fun p => (s.asked (.frag b slot p.1) 3000).isSome
      -- while the write of a frame is awaited, the entries are as they were before it
      let w := if sent.isSome then w.suspend false else w
      let ready := s.delivers b slot w
      match (sent.map (·.1)).or ready.head? with
      | none => .next s
      | some e =>
        let who : Agent := .frag b slot e
        if g.uli = 0 || blk.ulivec = 0 || first != some slot || w.inHandler || s.remoteOpen who then .next s
        else
          let va := (blk.ulistk.toNat + (32 * b + slot) * 256) % 2 ^ 64
          let (n, s1) := if sent.isSome then (0, s) else s.fresh
          let wrote : Except Raise Mu :=
            match s1.translateCtx [.bench b] b g.ctx va .write with
            | .error c => .error { cause := c, va := va }
            | .ok (x, s1) =>
              ({ s := s1, who := who, die := dieOf b, keys := 3000 } : Mu).write (some (b, g.part, 0)) false
                (sectorsOf (x.pa % 2 ^ 44) 64) { va := va, pa := x.pa, n := 64, ord := x.ord, nc := x.nc }
                (uliFrame w g.uli.toNat n)
          match wrote with
          | .error r =>
            let s := (s.dropRemotes who).modWave b slot fun x => { x with frags := w.frags }
            .next (s.parkLatched b slot g ready r (accessByte 2 64 false))
          | .ok m =>
            if m.waits then
              .next (((m.send m.s).modWave b slot fun w => w.suspend true).modFrag b slot e fun f =>
                { f with wait := some .remote })
            else .next (s.enterHandler b slot e w g (m.s.dropRemotes who))

/-- SPLIT_TABLE_FILL (R28, R29): a spilled entry that is the oldest ready fragment of its quarter is filled back; not while
every entry on chip is in a bypass window. -/
def execSplitTableFill (b slot e : Nat) (s : State) : Host.Outcome State Fault Refusal :=
  match s.wave? b slot with
  | none => .next s
  | some w =>
    match w.frags.get? e, s.group? b w.group with
    | some f, some g =>
      let here : Frag := { f with onChip := true }
      let rivals := ((s.bench b).waves.filter fun p => p.1 % 4 == slot % 4).flatMap fun p =>
        (p.2.frags.filter fun q => s.fragReady b p.1 q.1 p.2 { q.2 with onChip := true }).map fun q =>
          (p.1, q.1, q.2.ready (s.cycle b))
      let full := 16 ≤ w.onChip.length && (w.victim []).isNone
      if f.onChip || full || !s.fragReady b slot e w here || rivals.any (before · (slot, e, f.ready (s.cycle b))) then
        .next s
      else
        match s.fillEntry b slot g.ctx e with
        | .ok s => .next s
        | .error r => .next (s.waveFault b slot e g f r)
    | _, _ => .next s

/-- A fragment is parked (R32). One whose accesses are outstanding or held at the order gate waits on an operand. -/
def Frag.parked (f : Frag) : Bool :=
  f.waiting || match f.wait with
    | none => false
    | some .remote => false
    | some .gate => false
    | some .order => false
    | some .back => false
    | some (.room _) => false
    | some _ => true

/-- WATCHDOG (R204, R223): a parked fragment stays parked and gains a token; a ring with commands left stays as it was, and the
record is added. A fragment that the PRIVGROW of a sibling parks is parked too (R29). A context that is drained on the bench is
not counted (R200). How long the unit has been parked is
timing, which the model leaves out. -/
def execWatchdog (u : UnitRef) (s : State) : Host.Outcome State Fault Refusal :=
  match u with
  | .frag b slot e =>
    match s.wave? b slot with
    | none => .next s
    | some w =>
      match w.frags.get? e, s.group? b w.group with
      | some f, some g =>
        if !(f.parked || w.holds e) || (s.bench b).ctxStops g.ctx then .next s
        else
          let (token, s) := s.park b g.ctx Cause.watchdog 0 [.frag g.ctx slot e]
          .next (s.report b
            { cause := Cause.watchdog, unit := 0, ring := slot, bench := b, ctx := g.ctx, pc := f.pc,
              timeline := w64 e, token := w32 token, trec := 0xFF, access := 7 * 32 })
      | _, _ => .next s
  | .ring b slot =>
    let r := s.ring b slot
    if !(r.state == .running) || r.tl = r.wp || (s.bench b).ctxStops r.ctx then .next s
    else
      let num := if r.rp < r.wp then r.rp + 1 else r.tl + 1
      let (pc, micro, kind) := s.shadow b slot num
      .next (s.report b
        { cause := Cause.watchdog, unit := r.eng.code + 1, ring := slot, bench := b, ctx := r.ctx, pc := pc,
          timeline := w64 num, micro := micro, trec := 0xFF, access := 7 * 32,
          macroPc := if kind = 2 then pc else 0 })
  | .gaffer _ => .next s
  | .host _ => .next s

end Sys2Proof.Machine
end

