-- ==== Sys2Proof/Machine/Boot.lean ====
section
/-! DEFINITION. Start-up (R286, R287): device reset, the steps of the boot ROM, and recovery. -/

namespace Sys2Proof.Machine

open Sys2Proof

/-- MEAS after an object is measured (R286). -/
def measure (meas : BitVec 512) (object : List Byte) : BitVec 512 :=
  sha512 (leBytes 64 meas.toNat ++ leBytes 64 (sha512 object).toNat)

/-- The boot registers changed. -/
def State.modBoot (s : State) (f : Boot → Boot) : State := s.modDev fun d => { d with boot := f d.boot }

/-- The ROM waits for a recovery image (R286, R287). -/
def State.recover (s : State) (err : Bool) : State :=
  s.modBoot fun k => { k with stage := 7, booterr := k.booterr || err, recov := true, window := [] }

/-- Step 2 of the boot (R286): the configuration record is applied. -/
def State.applyConfig (s : State) (c : List Byte) : State :=
  let s := s.modFabric fun f => { f with pkgid := Config.recPkgid c }
  s.modDev fun d =>
    { d with boot := { d.boot with lockstep := Config.recLockstep c, fitted := (Config.recFitted c 0, Config.recFitted c 1) },
             power := { d.power with plim := Config.recPlim c % 4096 } }

/-- Steps 4 and 5 of the boot (R286): training; every cell is ON; the identity key; and the firmware starts on gaffer 0 in
machine mode, its image in memory at a place that the spec does not give (log entry 51). -/
def State.bootFirmware (s : State) (image : List Byte) : State :=
  if !Config.trained s.dev.boot.flashConfig then s.recover true
  else
    let s := s.modDev fun d => { d with cells := [], boot := { d.boot with stage := 5, idpub := identity } }
    let s := { s with mem := Mem.write s.mem (Config.firmwareAt image % 2 ^ 44) image }
    s.modBench 0 fun b => { b with gaffer := { b.gaffer with pc := Config.firmwareEntry image, mode := .m } }

/-- The boot ROM from step 1 (R286). Step 2 fails for a PKGID that has more than 12 bits. -/
def State.bootRom (s : State) : State :=
  let k := s.dev.boot
  let s := s.modBoot fun k => { k with stage := 0, booterr := false, recov := false, meas := 0, idpub := 0 }
  if !verified k.flashConfig then s.recover false
  else
    let m := measure 0 k.flashConfig
    let s := s.modBoot fun k => { k with stage := 1, meas := m }
    if 4096 ≤ Config.recPkgid k.flashConfig then s.recover false
    else
      let s := (s.applyConfig k.flashConfig).modBoot fun k => { k with stage := 2 }
      if !verified k.flashImage then s.recover false
      else
        let s := s.modBoot fun b => { b with stage := 3, meas := measure m k.flashImage }
        s.bootFirmware k.flashImage

/-- The state that device reset gives before the boot ROM runs: every register at its reset value; boot flash keeps its
contents, and so does memory, of whose contents the spec says nothing (DESIGN CHOICE, log entry 51). -/
def State.cleared (s : State) : State :=
  let k := s.dev.boot
  { State.reset with
    agenda := s.agenda, cur := s.cur, free := s.free, mem := s.mem, poisoned := s.poisoned,
    dev := { State.reset.dev with
      boot := { State.reset.dev.boot with flashConfig := k.flashConfig, flashImage := k.flashImage } } }

/-- DEVICE_RESET (R286): power-on or device reset, and the boot that it starts. -/
def execDeviceReset (s : State) : Host.Outcome State Fault Refusal := .next s.cleared.bootRom

/-- RECOVERY_IMAGE (R286): in recovery, an image that stands in the recovery window is verified; one that passes is written
to boot flash and the boot restarts at step 1, any other is discarded. -/
def execRecoveryImage (image : List Byte) (s : State) : Host.Outcome State Fault Refusal :=
  let k := s.dev.boot
  if !k.recov || image = [] || k.window.take image.length != image then .next s
  else if !verified image then .next (s.modBoot fun k => { k with window := [] })
  else .next (s.modBoot fun k => { k with flashImage := image, window := [] }).bootRom

end Sys2Proof.Machine
end

