-- ==== Sys2Proof/Machine/Complete.lean ====
section
/-! DEFINITION. The end of engine commands: completion in a dynamic ring and retirement in a timed one (R37, R39, R154),
and the missing command of a timed ring (R438). -/

namespace Sys2Proof.Machine

open Sys2Proof

/-- A ring's commands may complete (R38, R200). -/
def Bench.completes (b : Bench) (r : Ring) : Bool :=
  (r.state == .running || r.state == .halted) && !b.ringStops r

/-- An issued command's work is done, and nothing but its completion is left. -/
def Active.finished (a : Active) : Bool := a.worked && !a.owesSig && !a.halted

/-- The commands of the timed rings of a domain that retire at or before a cycle: bench, slot and number. -/
def State.retiring (s : State) (dom now : Nat) : List (Nat × Nat × Nat) :=
  (s.benches.filter fun p => s.domain (dieOf p.1) == dom).flatMap fun p =>
    (p.2.rings.filter fun k => k.2.timed && p.2.completes k.2).flatMap fun k =>
      (k.2.active.filter fun a => a.finished && a.retire.any (· ≤ now)).map fun a => (p.1, k.1, a.num)

/-- A timed ring of a domain still has to work or to issue at or before a cycle: its reads come before the writes of that
cycle (R154). -/
def State.timedReads (s : State) (dom now : Nat) : Bool :=
  s.benches.any fun p => s.domain (dieOf p.1) == dom && p.2.rings.any fun k =>
    k.2.timed && ((match p.2.nextWork k.1 with
      | some a => p.2.workAt k.2.eng a ≤ now
      | none => false)
      || (p.2.hasHead k.1 && k.2.due (s.ringWord p.1 k.1 (k.2.rp + 1)) ≤ now))

/-- One command comes before another in ascending bench, slot and number. -/
def earlier (x y : Nat × Nat × Nat) : Bool :=
  x.1 < y.1 || (x.1 == y.1 && (x.2.1 < y.2.1 || (x.2.1 == y.2.1 && x.2.2 < y.2.2)))

/-- The writes of a timed command are performed (R154). -/
def State.flushWrites (s : State) (a : Active) : State :=
  a.wbuf.foldl (fun s w => (s.localWrite w.1 w.2).clearPoison w.1 w.2.length) s

/-- COMMAND_COMPLETE (R37, R39, R154): a command whose work is done completes; of a timed ring at its retirement, after the
reads of that cycle and in ascending bench and slot. -/
def execCommandComplete (b slot num : Nat) (s : State) : Host.Outcome State Fault Refusal :=
  let x := s.bench b
  let r := x.ring slot
  match r.active.find? fun a => a.num == num with
  | none => .next s
  | some a =>
    if !a.finished || !x.completes r then .next s
    else if !r.timed then .next (s.retireCmd b slot a)
    else
      let dom := s.domain (dieOf b)
      let now := s.cycle b
      if !a.retire.any (· ≤ now) || s.timedReads dom now || (s.retiring dom now).any (earlier · (b, slot, num)) then .next s
      else .next ((s.flushWrites a).retireCmd b slot a)

/-- MISSING_COMMAND (R438): no command that is pushed now could still meet its issue cycle, so the ring halts with TIMING at
the missing one. -/
def execMissingCommand (b slot : Nat) (s : State) : Host.Outcome State Fault Refusal :=
  let x := s.bench b
  let r := x.ring slot
  if r.timed && r.state == .running && r.begun && !r.armed && r.rp == r.wp && r.fin.isNone && !x.ringStops r
      && r.lastT + 256 + r.slip < s.cycle b then
    .next (s.haltRing b slot (r.rp + 1) (raiseOf Cause.timing))
  else .next s

end Sys2Proof.Machine
end

