-- ==== Sys2Proof/Machine/Lane.lean ====
section
/-! DEFINITION. Lane exchange, reductions and scans (R429 to R432), BALLOT (R337) and the mask instructions (R379,
R380). -/

namespace Sys2Proof.Machine

open Sys2Proof

/-- The source lane of VQSWZ (R429). -/
def qswzLane (imm l : Nat) : Nat := l / 4 * 4 + imm / 4 ^ (l % 4) % 4

/-- VQSWZ (R429). -/
def execVqswz (f : VI) (s : State) : Host.Outcome State Fault Refusal :=
  let i := viInfo f
  s.issue { i with cross := i.reads } fun cx =>
    let a := s.viA cx f
    s.readAcross cx (lanesOf cx.f.exec) (fun l => i.reads.map fun n => (n, qswzLane f.imm.toNat l)) <|
      .done s (vresOf (viWide f) f.vd.toNat cx.f.exec (lanes.map fun l => a.getD (qswzLane f.imm.toNat l) 0)) 0

/-- The source lane of VSHFL (R430). -/
def shflLane (fn l b : Nat) : Nat :=
  let b := b % 2 ^ 32
  match fn with
  | 0 => b % 32
  | 1 => if b ≤ l then l - b else l
  | 2 => if l + b < 32 then l + b else l
  | _ => l ^^^ b % 32

/-- VSHFL (R430). -/
def execVshfl (f : VR) (s : State) : Host.Outcome State Fault Refusal :=
  let i := vrInfo f true false
  let wide := isWide (vty f)
  let rb := (srcRegs wide (f.ks.getLsbD 1) f.vb.toNat).filter (· < 512)
  s.issue { i with cross := i.reads } fun cx =>
    let a := s.srcA cx f
    let b := s.srcB cx f
    let src (l : Nat) : Nat := shflLane f.fn.toNat l (b.getD l 0)
    s.readAcross cx (lanesOf cx.f.exec)
      (fun l => rb.map (fun n => (n, l)) ++ (srcRegs wide false f.va.toNat).map fun n => (n, src l)) <|
      .done s (vresOf wide f.vd.toNat cx.f.exec (lanes.map fun l => a.getD (src l) 0)) 0

/-- A scalar from an element (R431, R432): TY 0 is sign-extended, the others are zero-extended or whole. -/
def scalarOf (ty v : Nat) : W64 := if ty = 0 then BitVec.ofInt 64 (sext 32 v) else w64 v

/-- VRDL (R431). -/
def execVrdl (f : VR) (s : State) : Host.Outcome State Fault Refusal :=
  let i := vrInfo f true false
  let ra := srcRegs (isWide (vty f)) false f.va.toNat
  s.issue { i with writes := [sReg (f.vd.toNat % 64)], cross := ra } fun cx =>
    let a := s.srcA cx f
    let l := (cx.w.sreg f.vb.toNat).toNat % 32
    s.readAcross cx [l] (fun k => ra.map fun n => (n, k)) <|
      .done (s.setS cx (f.vd.toNat % 64) (scalarOf (vty f) (a.getD l 0))) [] 0

/-- VWRL (R431). -/
def execVwrl (f : VR) (s : State) : Host.Outcome State Fault Refusal :=
  s.issue (vrInfo f true false) fun cx =>
    let l := (cx.w.sreg f.vb.toNat).toNat % 32
    let m := maskOf fun k => k == l && cx.f.exec.getLsbD k
    .done s (vresOf (isWide (vty f)) f.vd.toNat m (s.srcA cx f)) 0

/-- BALLOT (R337). -/
def execBallot (f : VR) (s : State) : Host.Outcome State Fault Refusal :=
  let i := vrInfo f false false
  let m := f.vd.toNat % 16
  s.issue { i with writes := [mReg m] } fun cx =>
    let a := s.srcA cx f
    .done (s.setM cx m (maskOf fun l =>
      cx.f.exec.getLsbD l && (f.fn = 8 || !cx.w.helper.getLsbD l) && a.getD l 0 != 0)) [] 0

/-! ## Reductions -/

/-- The identity of a reduction (R432). -/
def redIdentity (op ty : Nat) : Nat :=
  let n := elemBits ty
  match op with
  | 1 => if isSigned ty then 2 ^ (n - 1) - 1 else 2 ^ n - 1
  | 2 => if isSigned ty then 2 ^ (n - 1) else 0
  | 3 => 2 ^ n - 1
  | 6 => 0x80000000
  | _ => 0

/-- One step of a reduction (R432). -/
def redStep (op ty x y : Nat) : Nat × FFlags :=
  match op with
  | 0 => ((x + y) % 2 ^ elemBits ty, 0)
  | 1 => (if intElem ty y < intElem ty x then y else x, 0)
  | 2 => (if intElem ty x < intElem ty y then y else x, 0)
  | 3 => (x &&& y, 0)
  | 4 => (x ||| y, 0)
  | 5 => (x ^^^ y, 0)
  | _ => faddEl .f32 0 x y

/-- The scan of lane values over the contributing lanes (R432): the value at every lane, the last value, and the flags of the
lanes that raise them, which helper lanes do not (R67). -/
def redScan (op ty : Nat) (c live : W32) : List Nat → Nat → Nat → List Nat × Nat × FFlags
  | [], _, acc => ([], acc, 0)
  | a :: as, j, acc =>
    let r := if c.getLsbD j then redStep op ty acc a else (acc, 0)
    let (out, last, fl) := redScan op ty c live as (j + 1) r.1
    (r.1 :: out, last, if live.getLsbD j then r.2 ||| fl else fl)

/-- VRED and VSCAN up to their destination: the contributing lanes, the scan, and the trap of FADD (R432, R68). -/
def State.reduce (s : State) (cx : Wcx) (f : VR) (go : State → List Nat → Nat → WRes) : WRes :=
  let op := f.fn.toNat % 8
  let c := if f.fn.toNat / 8 = 1 then cx.f.exec else cx.f.exec &&& ~~~cx.w.helper
  let (out, last, fl) := redScan op (vty f) c (c &&& ~~~cx.w.helper) (s.srcA cx f) 0 (redIdentity op (vty f))
  let s := s.orFlags cx.b cx.slot fl
  if fl &&& cx.w.fptrap.toNat != 0 then
    .raise s { cause := Cause.fpTrap, aux := fl, lanes := c &&& ~~~cx.w.helper }
  else go s out last

/-- VRED (R432). -/
def execVred (f : VR) (s : State) : Host.Outcome State Fault Refusal :=
  let i := vrInfo f false false
  s.issue { i with writes := [sReg (f.vd.toNat % 64)] } fun cx =>
    s.reduce cx f fun s _ last => .done (s.setS cx (f.vd.toNat % 64) (scalarOf (vty f) last)) [] 0

/-- VSCAN (R432). -/
def execVscan (f : VR) (s : State) : Host.Outcome State Fault Refusal :=
  s.issue (vrInfo f false false) fun cx =>
    s.reduce cx f fun s out _ => .done s (vresOf (isWide (vty f)) f.vd.toNat cx.f.exec out) 0

/-! ## Masks -/

/-- The register that a mask source reads (R379). -/
def maskReads (n : Nat) : List Nat := if n = 16 then [] else [mReg n]

/-- MOP (R379, R380). -/
def execMop (f : VR) (s : State) : Host.Outcome State Fault Refusal :=
  let fn := f.fn.toNat
  let reads := if fn = 6 then [sReg f.va.toNat] else
    maskReads f.va.toNat ++ (if fn ≤ 3 then maskReads f.vb.toNat else [])
  s.issue { reads := reads, writes := [mReg f.vd.toNat] } fun cx =>
    let a := cx.maskSrc f.va.toNat
    let b := cx.maskSrc f.vb.toNat
    let v : W32 := match fn with
      | 0 => a &&& b
      | 1 => a ||| b
      | 2 => a ^^^ b
      | 3 => a &&& ~~~b
      | 4 => ~~~a
      | 5 => a
      | _ => (cx.w.sreg f.va.toNat).truncate 32
    .done (s.setM cx f.vd.toNat v) [] 0

/-- MSAVE (R379, R380). -/
def execMsave (f : VR) (s : State) : Host.Outcome State Fault Refusal :=
  s.issue { writes := [mReg f.vd.toNat] } fun cx => .done (s.setM cx f.vd.toNat cx.f.narrow) [] 0

/-- MREST (R379, R380). -/
def execMrest (f : VR) (s : State) : Host.Outcome State Fault Refusal :=
  s.issue { reads := maskReads f.va.toNat, barred := true } fun cx =>
    let a := cx.maskSrc f.va.toNat
    let v := if f.fn = 1 then cx.f.narrow &&& a else a
    .done (s.modFrag cx.b cx.slot cx.e fun f => { f with narrow := v }) [] 0

/-- MPOP (R379). -/
def execMpop (f : VR) (s : State) : Host.Outcome State Fault Refusal :=
  s.issue { reads := maskReads f.va.toNat, writes := [sReg f.vd.toNat] } fun cx =>
    let on := lanesOf (cx.maskSrc f.va.toNat &&& cx.f.exec)
    let v := if f.fn = 0 then on.length else match on with
      | [] => 32
      | l :: _ => l
    .done (s.setS cx f.vd.toNat (w64 v)) [] 0

end Sys2Proof.Machine
end

