-- ==== Sys2Proof/Machine/Rays.lean ====
section
/-! DEFINITION. Ray traversal (R241 to R243, R392, R393): the exact triangle test, the boxes of a node's children, the walk
of a lane through the hierarchy, and RTRACE. -/

namespace Sys2Proof.Machine

open Sys2Proof

/-! ## Exact geometry -/

/-- A point or direction, each coordinate an integer over 2^149: every finite F32 is one. -/
abbrev Vec3 := Int × Int × Int

/-- Difference. -/
def Vec3.sub (a b : Vec3) : Vec3 := (a.1 - b.1, a.2.1 - b.2.1, a.2.2 - b.2.2)

/-- Scalar product. -/
def Vec3.dot (a b : Vec3) : Int := a.1 * b.1 + a.2.1 * b.2.1 + a.2.2 * b.2.2

/-- Vector product. -/
def Vec3.cross (a b : Vec3) : Vec3 :=
  (a.2.1 * b.2.2 - a.2.2 * b.2.1, a.2.2 * b.1 - a.1 * b.2.2, a.1 * b.2.1 - a.2.1 * b.1)

/-- Three F32 words. -/
def Vec3.ofWords (w : List Nat) (i : Nat) : Vec3 :=
  (f32Fix (w.getD i 0), f32Fix (w.getD (i + 1) 0), f32Fix (w.getD (i + 2) 0))

/-- Words that are finite F32 values. -/
def allFinite (ws : List Nat) : Bool := ws.all fun w => (FVal.decode .f32 w).isFin

/-- An exact quotient with a positive denominator. -/
abbrev Quot := Int × Nat

/-- `n ÷ d` for d ≠ 0. -/
def quotOf (n d : Int) : Quot := if d < 0 then (-n, d.natAbs) else (n, d.natAbs)

/-- Order of quotients. -/
def Quot.le (a b : Quot) : Bool := a.1 * b.2 ≤ b.1 * a.2

/-- An F32 word as a quotient. -/
def Quot.ofWord (w : Nat) : Quot := (f32Fix w, 2 ^ 149)

/-- RoundF32 of a quotient, RNE. -/
def Quot.f32 (a : Quot) : W32 := roundF32 ⟨a.1 < 0, a.1.natAbs, a.2, 0⟩

/-- A ray (R242): its eight words, all finite. -/
structure Ray where
  o : Vec3
  d : Vec3
  tmin : Quot
  tmax : Quot
  deriving DecidableEq, Repr

/-- A hit (R242): t, u, v and the triangle index. -/
structure Hit where
  t : Quot
  u : Quot
  v : Quot
  tri : Nat
  deriving DecidableEq, Repr

/-- The triangle test of R242 on the nine words of a triangle, in exact arithmetic. -/
def Ray.hit (r : Ray) (cullb : Bool) (ws : List Nat) (tri : Nat) : Option Hit :=
  if !allFinite ws then none
  else
    let v0 := Vec3.ofWords ws 0
    let e1 := (Vec3.ofWords ws 3).sub v0
    let e2 := (Vec3.ofWords ws 6).sub v0
    let p := Vec3.cross r.d e2
    let det := Vec3.dot e1 p
    if det = 0 || (cullb && 0 < Vec3.dot (Vec3.cross e1 e2) r.d) then none
    else
      let s := Vec3.sub r.o v0
      let q := Vec3.cross s e1
      let u := quotOf (Vec3.dot s p) det
      let v := quotOf (Vec3.dot r.d q) det
      let t := quotOf (Vec3.dot e2 q) det
      if 0 ≤ u.1 && 0 ≤ v.1 && u.1 + v.1 ≤ det.natAbs && r.tmin.le t && t.le r.tmax then some ⟨t, u, v, tri⟩ else none

/-- The span of t in which a ray lies between two bounds of one axis, cut from a span; a bound that is none is no bound. -/
def slab (o d : Int) (lo hi : Option Int) (t : Quot × Quot) : Option (Quot × Quot) :=
  if d = 0 then
    if lo.all (· ≤ o) && hi.all (o ≤ ·) then some t else none
  else
    let (near, far) := if 0 < d then (lo, hi) else (hi, lo)
    let a := match near with
      | some x => let q := quotOf (x - o) d; if t.1.le q then q else t.1
      | none => t.1
    let b := match far with
      | some x => let q := quotOf (x - o) d; if q.le t.2 then q else t.2
      | none => t.2
    if a.le b then some (a, b) else none

/-- A bound of a child's box (R241): RoundF32 of O + Q × step; none where that is not finite. -/
def boxBound (rm o e q : Nat) : Option Int :=
  if e = 0xFF then none
  else
    let w := (roundVal .f32 rm (addVal rm (.decode .f32 o) (mulVal (.ofInt q) (.e8m0 e)).1).1).1
    if (FVal.decode .f32 w).isFin then some (f32Fix w) else none

/-- A node's field. -/
def nodeF (n hi lo : Nat) : Nat := bitsOf n hi lo

/-- The box of child `i` of a node meets the ray within its interval (R241, R242). -/
def Ray.meets (r : Ray) (n i : Nat) : Bool :=
  let q (k : Nat) : Nat := nodeF n (64 * i + 256 + 8 * k + 7) (64 * i + 256 + 8 * k)
  let axis (k : Nat) (o d : Int) (t : Quot × Quot) : Option (Quot × Quot) :=
    let og := nodeF n (32 * k + 31) (32 * k)
    let e := nodeF n (96 + 8 * k + 7) (96 + 8 * k)
    slab o d (boxBound 2 og e (q k)) (boxBound 3 og e (q (k + 3))) t
  r.tmin.le r.tmax &&
    (((axis 0 r.o.1 r.d.1 (r.tmin, r.tmax)).bind (axis 1 r.o.2.1 r.d.2.1)).bind (axis 2 r.o.2.2 r.d.2.2)).isSome

/-- Child `i` of a node is a node (R241). -/
def childNode (n i : Nat) : Bool := bitOf n (120 + i) && bitOf n (128 + i)

/-- CNT of child `i`, 0 where it is no leaf run (R241). -/
def childCnt (n i : Nat) : Nat :=
  if bitOf n (120 + i) && !bitOf n (128 + i) then nodeF n (64 * i + 256 + 55) (64 * i + 256 + 48) else 0

/-- The node children of a node that the ray's interval meets, and the triangles of its leaf children that it meets. -/
def Ray.children (r : Ray) (n : Nat) : List Nat × List Nat :=
  let before (f : Nat → Nat) (i : Nat) : Nat := (List.range i).foldl (fun a j => a + f j) 0
  let nodes := (List.range 8).filter fun i => childNode n i && r.meets n i
  let leaves := (List.range 8).filter fun i => 1 ≤ childCnt n i && childCnt n i ≤ 16 && r.meets n i
  (nodes.map fun i => nodeF n 191 160 + before (fun j => if childNode n j then 1 else 0) i,
   leaves.flatMap fun i => (List.range (childCnt n i)).map fun k => nodeF n 223 192 + before (childCnt n) i + k)

/-! ## The walk -/

/-- Bytes read by the traversal unit for a wave (R243, R393): weak, at their points; the checks are those of a lane load. -/
def rayRead (cx : Wcx) (m : Mu) (va n : Nat) : Except Raise (List Byte × Mu) :=
  let va := va % 2 ^ 64
  match privGrow (m.s.desc cx.g.ctx) cx.b cx.slot va n with
  | some top => .error { cause := Cause.privGrow, va := va, aux := top }
  | none =>
    let step (a : List Piece × State) (c : Nat × Nat) : Except Raise (List Piece × State) :=
      match a.2.translateCtx [.traversal (cellOf cx.b)] cx.b cx.g.ctx (c.1 % 2 ^ 64) .read with
      | .error e => .error { cause := e, va := c.1 % 2 ^ 64 }
      | .ok (x, s) => .ok (a.1 ++ [{ va := c.1 % 2 ^ 64, pa := x.pa, n := c.2, ord := x.ord, nc := x.nc }], s)
    match foldE step (cutLines va n) ([], m.s) with
    | .error r => .error r
    | .ok (ps, s) => ({ m with s := s } : Mu).readAll none false ps

/-- What a lane's walk comes to: its hits, or the bound (R242). -/
inductive Walk where
  | hits (hs : List Hit) (m : Mu)
  | bound (m : Mu)
  | bad (r : Raise)
  deriving DecidableEq, Repr

/-- Triangles tested one after another. -/
def rayTris (cx : Wcx) (r : Ray) (cullb : Bool) (base : Nat) : List Nat → List Hit → Mu → Except Raise (List Hit × Mu)
  | [], hs, m => .ok (hs, m)
  | k :: ks, hs, m =>
    match rayRead cx m (base + 48 * k) 48 with
    | .error q => .error { q with access := accessByte 1 32 false }
    | .ok (bs, m) =>
      if m.waits then .ok (hs, m)
      else
        let ws := (List.range 9).map fun i => leNat ((bs.drop (4 * i)).take 4)
        rayTris cx r cullb base ks (hs ++ (r.hit cullb ws (k % 2 ^ 32)).toList) m

/-- The walk over the nodes that are left, each with its depth; the count bounds the nodes visited (R242). -/
def rayWalk (cx : Wcx) (r : Ray) (cullb : Bool) (nb tb : Nat) : Nat → List (Nat × Nat) → List Hit → Mu → Walk
  | _, [], hs, m => .hits hs m
  | 0, _ :: _, _, m => .bound m
  | fuel + 1, (k, depth) :: rest, hs, m =>
    if 64 < depth then .bound m
    else
      match rayRead cx m (nb + 128 * k) 128 with
      | .error q => .bad { q with access := accessByte 1 128 false }
      | .ok (bs, m) =>
        if m.waits then .hits [] m
        else
          let (ns, ts) := r.children (leNat bs)
          match rayTris cx r cullb tb ts hs m with
          | .error q => .bad q
          | .ok (hs, m) =>
            if m.waits then .hits [] m
            else rayWalk cx r cullb nb tb fuel (ns.map (fun n => (n, depth + 1)) ++ rest) hs m

/-- The hit that RTRACE returns (R242): of least t, then of lowest index; under .ANY some hit, an open choice. -/
def bestHit : List Hit → Option Hit
  | [] => none
  | h :: hs =>
    match bestHit hs with
    | none => some h
    | some g => if h.t.le g.t && (!g.t.le h.t || h.tri ≤ g.tri) then some h else some g

/-- The four result words of a lane (R242). -/
def hitWords : Option Hit → List Nat
  | some h => [h.t.f32.toNat, h.u.f32.toNat, h.v.f32.toNat, h.tri]
  | none => [Fmt.f32.inf false, 0, 0, 0xFFFFFFFF]

/-- The result words of the bound (R242). -/
def boundWords : List Nat := [Fmt.f32.defNaN, 0, 0, 0xFFFFFFFE]

/-- One lane traces its ray (R242): a ray with an input that is not finite hits nothing. -/
def rayLane (cx : Wcx) (any cullb : Bool) (nb tb : Nat) (ws : List Nat) (m : Mu) : Except Raise (List Nat × Mu) :=
  if !allFinite ws then .ok (hitWords none, m)
  else
    let r : Ray := { o := .ofWords ws 0, d := .ofWords ws 3, tmin := .ofWord (ws.getD 6 0), tmax := .ofWord (ws.getD 7 0) }
    match rayWalk cx r cullb nb tb (2 ^ 20) [(0, 1)] [] m with
    | .bad q => .error q
    | .bound m => .ok (boundWords, m)
    | .hits hs m =>
      if any && hs != [] then
        let (n, s) := m.s.fresh
        .ok (hitWords hs[n % hs.length]?, { m with s := s })
      else .ok (hitWords (bestHit hs), m)

/-- The error of the lowest lane, with the lanes that fetched from its page (R393). -/
def rayRaise (errs : List (Nat × Raise)) : Option Raise :=
  match errs with
  | [] => none
  | (_, r) :: _ =>
    let page (q : Raise) : Nat := q.va % 2 ^ 57 / 4096
    some { r with lanes := maskOf fun l => errs.any fun e => e.1 == l && page e.2 == page r }

/-- RTRACE (R242, R243, R392, R393). -/
def execRtrace (f : VR) (s : State) : Host.Outcome State Fault Refusal :=
  let va := f.va.toNat
  let sb := f.vb.toNat % 64
  s.issue { reads := vRegs va 8 ++ [sReg sb], writes := vRegs f.vd.toNat 4, tr := f.tr == 1,
            oc := if f.oc.getLsbD 2 then vRegs va 8 else [] } fun cx =>
    let s := s.release cx.b 3
    let live := cx.live
    let align (va : Nat) : WRes := .raise s { cause := Cause.align, va := va, lanes := live, access := accessByte 1 16 false }
    let desc := (cx.w.sreg sb).toNat
    let ls := lanesOf live
    if live = 0 then .done s [] 0
    else if desc % 16 != 0 then align desc
    else
      let ended (s : State) : State := (cx.mu s).ended cx s
      match rayRead cx { cx.mu s with seq := true } desc 16 with
      | .error r => .raise (ended s) { r with lanes := live, access := accessByte 1 16 false }
      | .ok (bs, m) =>
        if m.waits then .stay (m.await cx s)
        else
          let nb := leNat (bs.take 8)
          let tb := leNat (bs.drop 8)
          if nb % 128 != 0 then align nb
          else if tb % 16 != 0 then align tb
          else
            let xs := (List.range 8).map fun i => s.readV cx (va + i)
            let lane (l : Nat) (a : Mu × List (Nat × List Nat)) : Except Raise (Mu × List (Nat × List Nat)) :=
              if a.1.waits then .ok a
              else (rayLane cx (f.fn.getLsbD 0) (f.fn.getLsbD 1) nb tb (xs.map fun r => r.getD l 0) a.1).map fun q =>
                (q.2, a.2 ++ [(l, q.1)])
            let ((m, rs), errs) := laneLoop lane ls (m, [])
            match rayRaise errs with
            | some r => .raise (ended s) r
            | none =>
              if m.waits then .stay (m.await cx s)
              else
                .done (m.ended cx m.s)
                  ((List.range 4).map fun i => ⟨f.vd.toNat + i, live, lanes.map fun l => laneVal rs i l⟩) 0

end Sys2Proof.Machine
end

