-- ==== Sys2Proof/Machine/Scalar.lean ====
section
/-! DEFINITION. The scalar instructions (R394, R395) and the special values (R51, R402). -/

namespace Sys2Proof.Machine

open Sys2Proof

/-- The width of a format-S operation (R310). -/
def sWidth (f : FS) : Nat := if f.w = 1 then 32 else 64

/-- A scalar result of `n` bits, sign-extended to 64 bits (R310). -/
def sResult (n r : Nat) : W64 := BitVec.ofInt 64 (sext n r)

/-- A scalar instruction: its result and, when it sets SCC, the flags, from the operands cut to the width. -/
def State.scalarOp (s : State) (f : FS) (flags : Bool) (op : Nat → Nat → Nat → Nat × BitVec 4) :
    Host.Outcome State Fault Refusal :=
  s.issue { reads := sReads f, writes := sReg f.sd.toNat :: (if flags then [sccReg] else []) } fun cx =>
    let n := sWidth f
    let r := op n ((cx.w.sreg f.sa.toNat).toNat % 2 ^ n) ((cx.sB f).toNat % 2 ^ n)
    let s := s.setS cx f.sd.toNat (sResult n r.1)
    .done (if flags then s.setScc cx r.2 else s) [] 0

/-- SADD (R394). -/
def execSadd (f : FS) (s : State) : Host.Outcome State Fault Refusal :=
  s.scalarOp f true fun n a b => ((a + b) % 2 ^ n, sccAdd n a b)

/-- SSUB (R394). -/
def execSsub (f : FS) (s : State) : Host.Outcome State Fault Refusal :=
  s.scalarOp f true fun n a b => ((a + 2 ^ n - b) % 2 ^ n, sccSub n a b)

/-- SMUL (R394): the low half of the product, or its signed or unsigned high half. -/
def execSmul (f : FS) (s : State) : Host.Outcome State Fault Refusal :=
  s.scalarOp f false fun n a b =>
    (match f.fn.toNat with
     | 0 => a * b % 2 ^ n
     | 1 => wrap (2 * n) (sext n a * sext n b) / 2 ^ n
     | _ => a * b / 2 ^ n, 0)

/-- SAND (R394). -/
def execSand (f : FS) (s : State) : Host.Outcome State Fault Refusal :=
  s.scalarOp f true fun n a b => (a &&& b, sccLogic n (a &&& b))

/-- SOR (R394). -/
def execSor (f : FS) (s : State) : Host.Outcome State Fault Refusal :=
  s.scalarOp f true fun n a b => (a ||| b, sccLogic n (a ||| b))

/-- SXOR (R394). -/
def execSxor (f : FS) (s : State) : Host.Outcome State Fault Refusal :=
  s.scalarOp f true fun n a b => (a ^^^ b, sccLogic n (a ^^^ b))

/-- SSHL (R394). -/
def execSshl (f : FS) (s : State) : Host.Outcome State Fault Refusal :=
  s.scalarOp f false fun n a b => (a * 2 ^ (b % n) % 2 ^ n, 0)

/-- SSHR (R394): logical or arithmetic. -/
def execSshr (f : FS) (s : State) : Host.Outcome State Fault Refusal :=
  s.scalarOp f false fun n a b =>
    (if f.fn = 1 then wrap n (sext n a / (2 ^ (b % n) : Nat)) else a / 2 ^ (b % n), 0)

/-- SCMP (R394): SCC from A − B (R317). -/
def execScmp (f : FS) (s : State) : Host.Outcome State Fault Refusal :=
  s.issue { reads := sReads f, writes := [sccReg] } fun cx =>
    let n := sWidth f
    .done (s.setScc cx (sccSub n ((cx.w.sreg f.sa.toNat).toNat % 2 ^ n) ((cx.sB f).toNat % 2 ^ n))) [] 0

/-- SMOV (R394): B, or the immediate into the high half. -/
def execSmov (f : FS) (s : State) : Host.Outcome State Fault Refusal :=
  let hi := f.fn == 1
  s.issue { reads := if hi then [sReg f.sd.toNat] else if f.ib = 1 then [] else [sReg f.sb.toNat],
            writes := [sReg f.sd.toNat] } fun cx =>
    let v := if hi then w64 ((cx.w.sreg f.sd.toNat).toNat % 2 ^ 32 + f.imm.toNat * 2 ^ 32)
      else sResult (sWidth f) (cx.sB f).toNat
    .done (s.setS cx f.sd.toNat v) [] 0

/-- SSEL (R394): A when the condition of FN holds on SCC, else B. -/
def execSsel (f : FS) (s : State) : Host.Outcome State Fault Refusal :=
  s.issue { reads := sccReg :: sReads f, writes := [sReg f.sd.toNat] } fun cx =>
    let v := if sccCond f.fn.toNat cx.w.scc then cx.w.sreg f.sa.toNat else cx.sB f
    .done (s.setS cx f.sd.toNat (sResult (sWidth f) v.toNat)) [] 0

/-! ## Special values -/

/-- The value of a special value (R51); none for an unlisted number. -/
def State.special (s : State) (cx : Wcx) (num : Nat) : Option Nat :=
  match num with
  | 0x000 => some cx.b
  | 0x001 => some (cellOf cx.b)
  | 0x002 => some (dieOf cx.b)
  | 0x003 => some cx.slot
  | 0x004 => some cx.w.index
  | 0x005 => some cx.g.groupId
  | 0x006 => some cx.g.clusterId
  | 0x007 => some cx.g.part
  | 0x008 => some cx.g.ctx
  | 0x009 => some cx.g.param.toNat
  | 0x010 => some cx.w.helper.toNat
  | 0x011 => some cx.f.exec.toNat
  | 0x012 => some cx.f.narrow.toNat
  | 0x013 => some cx.w.scc.toNat
  | 0x018 => some cx.w.fpflags.toNat
  | 0x019 => some cx.w.fptrap.toNat
  | 0x020 => some (s.cycle cx.b)
  | 0x021 => some s.dev.ptc.ptc
  | 0x028 => some cx.g.sum.toNat
  | 0x030 => some (cx.w.regs + 8 * cx.w.g0 * 2 ^ 10)
  | 0x031 => some cx.g.scratch
  | _ => none

/-- SRD (R402). -/
def execSrd (f : FS) (s : State) : Host.Outcome State Fault Refusal :=
  s.issue { reads := specialReg f.imm.toNat, writes := [sReg f.sd.toNat] } fun cx =>
    match s.special cx f.imm.toNat with
    | none => .raise s (raiseOf Cause.illegal)
    | some v => .done (s.setS cx f.sd.toNat (w64 v)) [] 0

/-- SWR (R402): only SCC, FPFLAGS, FPTRAPEN and STHASH are RW (R51). -/
def execSwr (f : FS) (s : State) : Host.Outcome State Fault Refusal :=
  s.issue { reads := [sReg f.sa.toNat], writes := specialReg f.imm.toNat } fun cx =>
    let v := (cx.w.sreg f.sa.toNat).toNat
    let wave (g : Wave → Wave) : WRes := .done (s.modWave cx.b cx.slot g) [] 0
    match f.imm.toNat with
    | 0x13 => wave fun w => { w with scc := BitVec.ofNat 4 v }
    | 0x18 => wave fun w => { w with fpflags := BitVec.ofNat 5 v }
    | 0x19 => wave fun w => { w with fptrap := BitVec.ofNat 5 v }
    | 0x28 => .done (s.modGroup cx.b cx.w.group fun g => { g with seed := w64 v, sum := 0 }) [] 0
    | _ => .raise s (raiseOf Cause.illegal)

end Sys2Proof.Machine
end

