-- ==== Sys2Proof/Machine/Dispatch.lean ====
section
/-! DEFINITION. The dispatch: one arm a constructor of `Instr`. -/

namespace Sys2Proof.Machine

open Sys2Proof

/-- The execution of one row of the table by the issuer that `step` has set. -/
def exec (i : Instr) (s : State) : Host.Outcome State Fault Refusal :=
  match i with
  | .nop f => Sys2Proof.Machine.execNop f s
  | .jmp f => Sys2Proof.Machine.execJmp f s
  | .call f => Sys2Proof.Machine.execCall f s
  | .ret f => Sys2Proof.Machine.execRet f s
  | .br f => Sys2Proof.Machine.execBr f s
  | .brs f => Sys2Proof.Machine.execBrs f s
  | .join f => Sys2Proof.Machine.execJoin f s
  | .exit f => Sys2Proof.Machine.execExit f s
  | .trap f => Sys2Proof.Machine.execTrap f s
  | .brkpt f => Sys2Proof.Machine.execBrkpt f s
  | .bar f => Sys2Proof.Machine.execBar f s
  | .cbar f => Sys2Proof.Machine.execCbar f s
  | .sleep f => Sys2Proof.Machine.execSleep f s
  | .uliret f => Sys2Proof.Machine.execUliret f s
  | .sadd f => Sys2Proof.Machine.execSadd f s
  | .ssub f => Sys2Proof.Machine.execSsub f s
  | .smul f => Sys2Proof.Machine.execSmul f s
  | .sand f => Sys2Proof.Machine.execSand f s
  | .sor f => Sys2Proof.Machine.execSor f s
  | .sxor f => Sys2Proof.Machine.execSxor f s
  | .sshl f => Sys2Proof.Machine.execSshl f s
  | .sshr f => Sys2Proof.Machine.execSshr f s
  | .scmp f => Sys2Proof.Machine.execScmp f s
  | .smov f => Sys2Proof.Machine.execSmov f s
  | .ssel f => Sys2Proof.Machine.execSsel f s
  | .sld f => Sys2Proof.Machine.execSld f s
  | .sst f => Sys2Proof.Machine.execSst f s
  | .sxlat f => Sys2Proof.Machine.execSxlat f s
  | .vadd f => Sys2Proof.Machine.execVadd f s
  | .vsub f => Sys2Proof.Machine.execVsub f s
  | .vmul f => Sys2Proof.Machine.execVmul f s
  | .vmad f => Sys2Proof.Machine.execVmad f s
  | .vdot4 f => Sys2Proof.Machine.execVdot4 f s
  | .vand f => Sys2Proof.Machine.execVand f s
  | .vor f => Sys2Proof.Machine.execVor f s
  | .vxor f => Sys2Proof.Machine.execVxor f s
  | .vshl f => Sys2Proof.Machine.execVshl f s
  | .vshr f => Sys2Proof.Machine.execVshr f s
  | .vmin f => Sys2Proof.Machine.execVmin f s
  | .vmax f => Sys2Proof.Machine.execVmax f s
  | .vcmp f => Sys2Proof.Machine.execVcmp f s
  | .vsel f => Sys2Proof.Machine.execVsel f s
  | .vbfe f => Sys2Proof.Machine.execVbfe f s
  | .vbfi f => Sys2Proof.Machine.execVbfi f s
  | .vpopc f => Sys2Proof.Machine.execVpopc f s
  | .vclz f => Sys2Proof.Machine.execVclz f s
  | .vmov f => Sys2Proof.Machine.execVmov f s
  | .vaddImm f => Sys2Proof.Machine.execVaddImm f s
  | .vmulImm f => Sys2Proof.Machine.execVmulImm f s
  | .vandImm f => Sys2Proof.Machine.execVandImm f s
  | .vorImm f => Sys2Proof.Machine.execVorImm f s
  | .vcmpImm f => Sys2Proof.Machine.execVcmpImm f s
  | .vmovImm f => Sys2Proof.Machine.execVmovImm f s
  | .vfaddImm f => Sys2Proof.Machine.execVfaddImm f s
  | .vfmulImm f => Sys2Proof.Machine.execVfmulImm f s
  | .vfadd f => Sys2Proof.Machine.execVfadd f s
  | .vfmul f => Sys2Proof.Machine.execVfmul f s
  | .vfma f => Sys2Proof.Machine.execVfma f s
  | .vfmin f => Sys2Proof.Machine.execVfmin f s
  | .vfmax f => Sys2Proof.Machine.execVfmax f s
  | .vfcmp f => Sys2Proof.Machine.execVfcmp f s
  | .vfdiv f => Sys2Proof.Machine.execVfdiv f s
  | .vfsqrt f => Sys2Proof.Machine.execVfsqrt f s
  | .vrcp f => Sys2Proof.Machine.execVrcp f s
  | .vrsq f => Sys2Proof.Machine.execVrsq f s
  | .vexp2 f => Sys2Proof.Machine.execVexp2 f s
  | .vlog2 f => Sys2Proof.Machine.execVlog2 f s
  | .vsincos f => Sys2Proof.Machine.execVsincos f s
  | .vfrnd f => Sys2Proof.Machine.execVfrnd f s
  | .vfract f => Sys2Proof.Machine.execVfract f s
  | .vfdot2 f => Sys2Proof.Machine.execVfdot2 f s
  | .vcvt f => Sys2Proof.Machine.execVcvt f s
  | .vqmx f => Sys2Proof.Machine.execVqmx f s
  | .vdqmx f => Sys2Proof.Machine.execVdqmx f s
  | .decode f => Sys2Proof.Machine.execDecode f s
  | .vqswz f => Sys2Proof.Machine.execVqswz f s
  | .vshfl f => Sys2Proof.Machine.execVshfl f s
  | .vrdl f => Sys2Proof.Machine.execVrdl f s
  | .vwrl f => Sys2Proof.Machine.execVwrl f s
  | .ballot f => Sys2Proof.Machine.execBallot f s
  | .vred f => Sys2Proof.Machine.execVred f s
  | .vscan f => Sys2Proof.Machine.execVscan f s
  | .mop f => Sys2Proof.Machine.execMop f s
  | .msave f => Sys2Proof.Machine.execMsave f s
  | .mrest f => Sys2Proof.Machine.execMrest f s
  | .mpop f => Sys2Proof.Machine.execMpop f s
  | .ld f => Sys2Proof.Machine.execLd f s
  | .st f => Sys2Proof.Machine.execSt f s
  | .lds f => Sys2Proof.Machine.execLds f s
  | .sts f => Sys2Proof.Machine.execSts f s
  | .ldt f => Sys2Proof.Machine.execLdt f s
  | .pref f => Sys2Proof.Machine.execPref f s
  | .cpya f => Sys2Proof.Machine.execCpya f s
  | .cbatch f => Sys2Proof.Machine.execCbatch f s
  | .cwait f => Sys2Proof.Machine.execCwait f s
  | .sample f => Sys2Proof.Machine.execSample f s
  | .atom f => Sys2Proof.Machine.execAtom f s
  | .atoms f => Sys2Proof.Machine.execAtoms f s
  | .semp f => Sys2Proof.Machine.execSemp f s
  | .semv f => Sys2Proof.Machine.execSemv f s
  | .semrd f => Sys2Proof.Machine.execSemrd f s
  | .fence f => Sys2Proof.Machine.execFence f s
  | .tlwait f => Sys2Proof.Machine.execTlwait f s
  | .tlrd f => Sys2Proof.Machine.execTlrd f s
  | .trig f => Sys2Proof.Machine.execTrig f s
  | .mloop f => Sys2Proof.Machine.execMloop f s
  | .menq f => Sys2Proof.Machine.execMenq f s
  | .vxm f => Sys2Proof.Machine.execVxm f s
  | .temit f => Sys2Proof.Machine.execTemit f s
  | .memit f => Sys2Proof.Machine.execMemit f s
  | .rtrace f => Sys2Proof.Machine.execRtrace f s
  | .srd f => Sys2Proof.Machine.execSrd f s
  | .swr f => Sys2Proof.Machine.execSwr f s
  | .launch f => Sys2Proof.Machine.execLaunch f s
  | .nq f => Sys2Proof.Machine.execNq f s
  | .rqxfer f => Sys2Proof.Machine.execRqxfer f s
  | .mxzero c => Sys2Proof.Machine.execMxzero c s
  | .mxloop c => Sys2Proof.Machine.execMxloop c s
  | .mxedge c => Sys2Proof.Machine.execMxedge c s
  | .mxst c => Sys2Proof.Machine.execMxst c s
  | .mxld c => Sys2Proof.Machine.execMxld c s
  | .cpy c => Sys2Proof.Machine.execCpy c s
  | .cpyt c => Sys2Proof.Machine.execCpyt c s
  | .cpyq c => Sys2Proof.Machine.execCpyq c s
  | .cpyx c => Sys2Proof.Machine.execCpyx c s
  | .cpyf c => Sys2Proof.Machine.execCpyf c s
  | .cpyc c => Sys2Proof.Machine.execCpyc c s
  | .cpym c => Sys2Proof.Machine.execCpym c s
  | .fput c => Sys2Proof.Machine.execFput c s
  | .fputQ c => Sys2Proof.Machine.execFputQ c s
  | .fget c => Sys2Proof.Machine.execFget c s
  | .fcomp c => Sys2Proof.Machine.execFcomp c s
  | .fsig c => Sys2Proof.Machine.execFsig c s
  | .tbegin c => Sys2Proof.Machine.execTbegin c s
  | .tend c => Sys2Proof.Machine.execTend c s
  | .idle c => Sys2Proof.Machine.execIdle c s
  | .commandComplete b slot num => Sys2Proof.Machine.execCommandComplete b slot num s
  | .xpush f => Sys2Proof.Machine.execXpush f s
  | .xpushm f => Sys2Proof.Machine.execXpushm f s
  | .xfence f => Sys2Proof.Machine.execXfence f s
  | .xtlrd f => Sys2Proof.Machine.execXtlrd f s
  | .xtlwait f => Sys2Proof.Machine.execXtlwait f s
  | .xsemp f => Sys2Proof.Machine.execXsemp f s
  | .xsemv f => Sys2Proof.Machine.execXsemv f s
  | .xsemrd f => Sys2Proof.Machine.execXsemrd f s
  | .xsemwr f => Sys2Proof.Machine.execXsemwr f s
  | .xtick f => Sys2Proof.Machine.execXtick f s
  | .xtkbar f => Sys2Proof.Machine.execXtkbar f s
  | .xmsend f => Sys2Proof.Machine.execXmsend f s
  | .xmrecv f => Sys2Proof.Machine.execXmrecv f s
  | .xhlaunch f => Sys2Proof.Machine.execXhlaunch f s
  | .xdrain f => Sys2Proof.Machine.execXdrain f s
  | .xwmark f => Sys2Proof.Machine.execXwmark f s
  | .rbind b v => Sys2Proof.Machine.execRbind b v s
  | .rctlResume b => Sys2Proof.Machine.execRctlResume b s
  | .rctlUnbind b => Sys2Proof.Machine.execRctlUnbind b s
  | .rctlClrerr b => Sys2Proof.Machine.execRctlClrerr b s
  | .rctlFinish b => Sys2Proof.Machine.execRctlFinish b s
  | .gent b v => Sys2Proof.Machine.execGent b v s
  | .csdata b rd v => Sys2Proof.Machine.execCsdata b rd v s
  | .cxcmdSave b => Sys2Proof.Machine.execCxcmdSave b s
  | .cxcmdRestore b => Sys2Proof.Machine.execCxcmdRestore b s
  | .cxcmdHwm b => Sys2Proof.Machine.execCxcmdHwm b s
  | .smap b v => Sys2Proof.Machine.execSmap b v s
  | .replay b v => Sys2Proof.Machine.execReplay b v s
  | .ulipost b v => Sys2Proof.Machine.execUlipost b v s
  | .shootdownGo k => Sys2Proof.Machine.execShootdownGo k s
  | .shootdownDone k => Sys2Proof.Machine.execShootdownDone k s
  | .latchRel b => Sys2Proof.Machine.execLatchRel b s
  | .faultRingRidx ctx v => Sys2Proof.Machine.execFaultRingRidx ctx v s
  | .faultRecordDeferred ctx => Sys2Proof.Machine.execFaultRecordDeferred ctx s
  | .latchedMessage b => Sys2Proof.Machine.execLatchedMessage b s
  | .contextReset ctx => Sys2Proof.Machine.execContextReset ctx s
  | .contextResetDone ctx => Sys2Proof.Machine.execContextResetDone ctx s
  | .formatRangeValidate n v => Sys2Proof.Machine.execFormatRangeValidate n v s
  | .formatRangeRetire n v => Sys2Proof.Machine.execFormatRangeRetire n v s
  | .rangeRetireComplete n => Sys2Proof.Machine.execRangeRetireComplete n s
  | .poolszRaise n v => Sys2Proof.Machine.execPoolszRaise n v s
  | .viewWriteback n blk => Sys2Proof.Machine.execViewWriteback n blk s
  | .poolRetry n blk => Sys2Proof.Machine.execPoolRetry n blk s
  | .l1Evict b line => Sys2Proof.Machine.execL1Evict b line s
  | .uncorrectableError pa src => Sys2Proof.Machine.execUncorrectableError pa src s
  | .arbitrationModeWrite die v => Sys2Proof.Machine.execArbitrationModeWrite die v s
  | .gateRelease die => Sys2Proof.Machine.execGateRelease die s
  | .ordergate die => Sys2Proof.Machine.execOrdergate die s
  | .qgo => Sys2Proof.Machine.execQgo s
  | .quoteDone => Sys2Proof.Machine.execQuoteDone s
  | .featureAccept word v => Sys2Proof.Machine.execFeatureAccept word v s
  | .featureCommit => Sys2Proof.Machine.execFeatureCommit s
  | .ownershipSemaphore k a p => Sys2Proof.Machine.execOwnershipSemaphore k a p s
  | .cellPowerReq c v => Sys2Proof.Machine.execCellPowerReq c v s
  | .cellOffReached c => Sys2Proof.Machine.execCellOffReached c s
  | .cellWakeDone c => Sys2Proof.Machine.execCellWakeDone c s
  | .plim v => Sys2Proof.Machine.execPlim v s
  | .clockStepSelect k0 k1 => Sys2Proof.Machine.execClockStepSelect k0 k1 s
  | .thermalTrip die => Sys2Proof.Machine.execThermalTrip die s
  | .thermalCut => Sys2Proof.Machine.execThermalCut s
  | .ptcWrite v => Sys2Proof.Machine.execPtcWrite v s
  | .qosWindow => Sys2Proof.Machine.execQosWindow s
  | .compositeGroupWrite g word v => Sys2Proof.Machine.execCompositeGroupWrite g word v s
  | .compositeFrameEnd g => Sys2Proof.Machine.execCompositeFrameEnd g s
  | .headFlip h => Sys2Proof.Machine.execHeadFlip h s
  | .headWrite h word v => Sys2Proof.Machine.execHeadWrite h word v s
  | .launchQueueWrite q v => Sys2Proof.Machine.execLaunchQueueWrite q v s
  | .contextTableWrite v => Sys2Proof.Machine.execContextTableWrite v s
  | .partitionWrite b p word v => Sys2Proof.Machine.execPartitionWrite b p word v s
  | .portBMessage b v => Sys2Proof.Machine.execPortBMessage b v s
  | .registerWrite r v => Sys2Proof.Machine.execRegisterWrite r v s
  | .deviceReset => Sys2Proof.Machine.execDeviceReset s
  | .recoveryImage image => Sys2Proof.Machine.execRecoveryImage image s
  | .timedRingRendezvous die tick => Sys2Proof.Machine.execTimedRingRendezvous die tick s
  | .watchdog u => Sys2Proof.Machine.execWatchdog u s
  | .fabtimeout tag => Sys2Proof.Machine.execFabtimeout tag s
  | .linkDown => Sys2Proof.Machine.execLinkDown s
  | .launchPredicate q => Sys2Proof.Machine.execLaunchPredicate q s
  | .placeGroup die => Sys2Proof.Machine.execPlaceGroup die s
  | .meshGroupPlace ctx pn => Sys2Proof.Machine.execMeshGroupPlace ctx pn s
  | .semaphoreGrant b ctr => Sys2Proof.Machine.execSemaphoreGrant b ctr s
  | .barrierComplete b g => Sys2Proof.Machine.execBarrierComplete b g s
  | .clusterBarrierComplete b g => Sys2Proof.Machine.execClusterBarrierComplete b g s
  | .timelineWaitMet u => Sys2Proof.Machine.execTimelineWaitMet u s
  | .sleepExpiry b slot e => Sys2Proof.Machine.execSleepExpiry b slot e s
  | .uliDelivery b slot => Sys2Proof.Machine.execUliDelivery b slot s
  | .laneCopy b id => Sys2Proof.Machine.execLaneCopy b id s
  | .splitTableFill b slot e => Sys2Proof.Machine.execSplitTableFill b slot e s
  | .tilingSplit ctx pn => Sys2Proof.Machine.execTilingSplit ctx pn s
  | .splitResume ctx pn => Sys2Proof.Machine.execSplitResume ctx pn s
  | .rdFlit f => Sys2Proof.Machine.execRdFlit f s
  | .wrFlit f => Sys2Proof.Machine.execWrFlit f s
  | .atFlit f => Sys2Proof.Machine.execAtFlit f s
  | .sigFlit f => Sys2Proof.Machine.execSigFlit f s
  | .compFlit f => Sys2Proof.Machine.execCompFlit f s
  | .syncFlit f => Sys2Proof.Machine.execSyncFlit f s
  | .rdrFlit f => Sys2Proof.Machine.execRdrFlit f s
  | .wraFlit f => Sys2Proof.Machine.execWraFlit f s
  | .atrFlit f => Sys2Proof.Machine.execAtrFlit f s
  | .sigaFlit f => Sys2Proof.Machine.execSigaFlit f s
  | .reservedTypeFlit f => Sys2Proof.Machine.execReservedTypeFlit f s
  | .nodeDeadline g => Sys2Proof.Machine.execNodeDeadline g s
  | .missingCommand b slot => Sys2Proof.Machine.execMissingCommand b slot s
  | .drainComplete b ctx => Sys2Proof.Machine.execDrainComplete b ctx s
  | .sliceSaveRestoreDone b ctx => Sys2Proof.Machine.execSliceSaveRestoreDone b ctx s
  | .portupChange port up => Sys2Proof.Machine.execPortupChange port up s
  | .verticalBlanking h => Sys2Proof.Machine.execVerticalBlanking h s
  | .unassignedOpc w => Sys2Proof.Machine.execUnassignedOpc w s
  | .unlistedEop w => Sys2Proof.Machine.execUnlistedEop w s
  | .unassignedCustom0 w => Sys2Proof.Machine.execUnassignedCustom0 w s

end Sys2Proof.Machine
end

