-- ==== Sys2Proof/Machine/Step.lean ====
section
/-! DEFINITION. One step of the machine, and placing an instruction where the next step runs it. -/

namespace Sys2Proof.Machine

open Sys2Proof

/-- One step: the next turn, and the execution of its instruction when it has one. -/
def step (s : State) : Host.Outcome State Fault Refusal :=
  match s.todo with
  | .run i s' => exec i s'
  | .still s' => .next s'

/-- The state with an instruction of `nbits` bits stored where the next step fetches it: a gaffer word of at most 32 bits
at gaffer 0's pc, a longer one at the PC of a wave of bench 0; and the turn given to that unit (log entry 4). -/
def State.withFetchWord (s : State) (nbits w : Nat) : State :=
  if nbits ≤ 32 then s.placeGaffer nbits w else s.placeWave nbits w

end Sys2Proof.Machine
end

