-- ==== Sys2Proof/Safety.lean ====
section
/-! DEFINITION. What a safe state is, and the words in which statements say what a step does. -/

namespace Sys2Proof.Machine

open Sys2Proof

/-- The memory of a state is in its canonical form. -/
def State.MemOk (s : State) : Prop := Memory.wf s.mem = true

/-! ## What one wave instruction does -/

/-- The fragment `cx` has the turn and waits for nothing (R32), no earlier access of its wave that is still outstanding orders its instruction (R57), no
check of R48 and R61 refuses it, and no sector is poisoned (R113). -/
structure Issues (s : State) (cx : Wcx) (i : WInfo) : Prop where
  turn : s.wcx = some cx
  idle : cx.f.wait = none
  order : cx.behind i = false
  legal : cx.refuses i = false
  clean : s.poisoned = []

/-- The byte that lane values leave at a memory address, if they write it: 4 bytes a lane of the mask, from `base` up. -/
def elemByte (base : Nat) (mask : W32) (vals : List Nat) (a : Nat) : Option Byte :=
  if base ≤ a ∧ a < base + 128 ∧ mask.getLsbD ((a - base) / 4) = true then
    some (BitVec.ofNat 8 (vals.getD ((a - base) / 4) 0 / 2 ^ (8 * ((a - base) % 4))))
  else none

/-- The byte that a register write leaves at a memory address: the register is a 128-byte row of the bench store (R54). -/
def rowByte (cx : Wcx) (n : Nat) (mask : W32) (vals : List Nat) (a : Nat) : Option Byte :=
  elemByte (storePa cx.b (cx.w.rowAddr n)) mask vals a

/-- The byte that vector results leave at an address, if they write it; the last result wins. -/
def resByte (cx : Wcx) (vs : List VRes) (a : Nat) : Option Byte :=
  vs.foldl (fun r v => (rowByte cx v.reg v.mask v.vals a).or r) none

/-- Every byte of memory is as before but those that `f` names. -/
def MemAfter (s t : State) (f : Nat → Option Byte) : Prop := ∀ a, Mem.get t.mem a = (f a).getD (Mem.get s.mem a)

/-- Nothing changed but memory and the benches. -/
structure Quiet (s t : State) : Prop where
  agenda : t.agenda = s.agenda
  cur : t.cur = s.cur
  free : t.free = s.free
  view : t.view = s.view ∧ t.viewHeld = s.viewHeld ∧ t.viewDirty = s.viewDirty ∧ t.altered = s.altered
  poisoned : t.poisoned = s.poisoned
  resv : t.resv = s.resv
  tlbs : t.tlbs = s.tlbs
  dies : t.dies = s.dies
  hosts : t.hosts = s.hosts
  passes : t.passes = s.passes
  dev : t.dev = s.dev

/-- A bench without its waves and groups. -/
def Bench.bare (b : Bench) : Bench := { b with waves := [], groups := [] }

/-- A wave without its fragments and its operand cache (R59: timing alone). -/
def Wave.bare (w : Wave) : Wave := { w with frags := [], oc := [] }

/-- A group whose store hash has taken more terms (R163). -/
def Group.hashed (g : Group) (due : W64) : Group := { g with sum := g.sum + due }

/-- A fragment at an address, since a cycle, with a window. -/
def Frag.at (f : Frag) (pc : W64) (now : Nat) (win : Window) : Frag := { f with pc := pc, since := now, win := win }

/-- Of the benches nothing changed but the wave of `cx`, and the store hash of its group by `due` (R163). -/
structure OnlyWave (s t : State) (cx : Wcx) (due : W64) : Prop where
  quiet : Quiet s t
  others : ∀ b, b ≠ cx.b → t.bench b = s.bench b
  bench : (t.bench cx.b).bare = (s.bench cx.b).bare
  waves : ∀ k, k ≠ cx.slot → t.wave? cx.b k = s.wave? cx.b k
  groups : ∀ k, t.group? cx.b k = if k = cx.w.group then some (cx.g.hashed due) else s.group? cx.b k

/-- An instruction of the fragment `cx` completed: memory is as before but for the bytes `m`; the fragment is `f`, at `pc`,
with the results `vs` in its bypass network when they are transient (R60); the store hash of its group took `terms`; the
wave is `w` but for its fragments and its operand cache (R59); no other fragment, wave or unit changed. -/
structure Moves (s t : State) (cx : Wcx) (f : Frag) (i : WInfo) (pc : W64) (vs : List VRes) (terms : W64) (w : Wave)
    (m : Nat → Option Byte) : Prop where
  mem : MemAfter s t m
  only : OnlyWave s t cx (dueTerms cx.f i terms)
  frag : t.frag? cx.b cx.slot cx.e = some (f.at pc (s.cycle cx.b) (nextWindow cx.f i vs terms))
  frags : ∀ e, e ≠ cx.e → t.frag? cx.b cx.slot e = s.frag? cx.b cx.slot e
  wave : ∃ w', t.wave? cx.b cx.slot = some w' ∧ w'.bare = w.bare

/-- `Moves` where memory changes by the vector results alone: they stand in the register file, or in the bypass network
alone when the instruction is transient. -/
abbrev CompletesAs (s t : State) (cx : Wcx) (f : Frag) (i : WInfo) (pc : W64) (vs : List VRes) (terms : W64) (w : Wave) :
    Prop :=
  Moves s t cx f i pc vs terms w fun a => if i.tr then none else resByte cx vs a

/-- `CompletesAs` with the fragment's masks and its place in the split table as before. -/
abbrev Completes (s t : State) (cx : Wcx) (i : WInfo) (pc : W64) (vs : List VRes) (terms : W64) (w : Wave) : Prop :=
  CompletesAs s t cx cx.f i pc vs terms w

/-- An instruction of the fragment `cx` completes with vector results `vs`, leaving the wave `w`, and the fragment goes on
behind it. -/
def Done (i : Instr) (s : State) (cx : Wcx) (info : WInfo) (vs : List VRes) (w : Wave) : Prop :=
  ∃ t, exec i s = .next t ∧ Completes s t cx info (cx.f.pc + 8) vs 0 w

/-- The fragment `cx` goes on behind an instruction that leaves its wave as `w` and hands something to another unit: no
other fragment, wave or group changes. -/
structure GoesOn (s t : State) (cx : Wcx) (i : WInfo) (w : Wave) : Prop where
  frag : t.frag? cx.b cx.slot cx.e = some (cx.f.at (cx.f.pc + 8) (s.cycle cx.b) (nextWindow cx.f i [] 0))
  frags : ∀ e, e ≠ cx.e → t.frag? cx.b cx.slot e = s.frag? cx.b cx.slot e
  wave : ∃ w', t.wave? cx.b cx.slot = some w' ∧ w'.bare = w.bare
  waves : ∀ b k, b ≠ cx.b ∨ k ≠ cx.slot → t.wave? b k = s.wave? b k
  groups : ∀ b k, b ≠ cx.b ∨ k ≠ cx.w.group → t.group? b k = s.group? b k
  group : t.group? cx.b cx.w.group = some (cx.g.hashed (dueTerms cx.f i 0))

/-- The fragment `cx` parks at its instruction: nothing of its wave, no other wave and no group changes. -/
structure Parks (s t : State) (cx : Wcx) (why : Wait) : Prop where
  frag : t.frag? cx.b cx.slot cx.e = some { cx.f with wait := some why }
  frags : ∀ b k e, b ≠ cx.b ∨ k ≠ cx.slot ∨ e ≠ cx.e → t.frag? b k e = s.frag? b k e
  wave : ∃ w', t.wave? cx.b cx.slot = some w' ∧ w'.bare = cx.w.bare
  groups : ∀ b k, t.group? b k = s.group? b k

/-- A wave with a scalar register written. -/
def Wave.withS (w : Wave) (n : Nat) (v : W64) : Wave := { w with s := w.s.set n v }

/-- A format-VR instruction that, for every form and operand that the checks let issue, completes with the lane results
`op` of its lanes' sources (R414), and changes nothing else. -/
def VecMeans (mk : VR → Instr) (useB useC : Bool) (op : VR → Nat → Nat → Nat → Nat) : Prop :=
  ∀ (s : State) (cx : Wcx) (f : VR), s.MemOk → Issues s cx (vrInfo f useB useC) →
    Done (mk f) s cx (vrInfo f useB useC)
      (vresOf (isWide f.ty.toNat) f.vd.toNat cx.f.exec
        (lanes.map fun l => op f ((s.srcA cx f).getD l 0) (if useB then (s.srcB cx f).getD l 0 else 0)
          (if useC then (s.srcC cx f).getD l 0 else 0))) cx.w

/-- A format-VI instruction that completes with the lane results `op` of its source A and its immediate (R309, R420). -/
def ImmMeans (mk : VI → Instr) (op : VI → Nat → Nat) : Prop :=
  ∀ (s : State) (cx : Wcx) (f : VI), s.MemOk → Issues s cx (viInfo f) →
    Done (mk f) s cx (viInfo f)
      (vresOf (isWide f.ty.toNat) f.vd.toNat cx.f.exec (lanes.map fun l => op f ((s.viA cx f).getD l 0))) cx.w

/-- The flags that the lanes `fl` of an instruction leave in its wave (R67). -/
def Wcx.flagged (cx : Wcx) (fl : Nat → Nat) : Wave :=
  { cx.w with fpflags := cx.w.fpflags ||| BitVec.ofNat 5 (cx.raised fl) }

/-- A floating-point instruction whose lanes have the flags `fl`: when no lane that counts raises an enabled flag it completes
with the results `vs` in the wave `w` (R67); when one does it raises FPTRAP, writes no destination, and its record names those
lanes and every flag that was raised (R68). -/
def TrapsOr (i : Instr) (s : State) (cx : Wcx) (info : WInfo) (fl : Nat → Nat) (vs : List VRes) (w : Wave) : Prop :=
  (cx.trapLanes fl = 0 → Done i s cx info vs w) ∧
  (cx.trapLanes fl ≠ 0 → exec i s = .next ((s.orFlags cx.b cx.slot (cx.raised fl)).fault cx
    { cause := Cause.fpTrap, aux := cx.raised fl, lanes := cx.trapLanes fl }))

/-- A format-VR floating-point instruction whose lanes have the results and flags `op` of their sources, after NA and NC
(R65): it completes with them or traps. -/
def FloatMeans (mk : VR → Instr) (useB useC wide : VR → Bool) (op : VR → Nat → Nat → Nat → Nat × FFlags) : Prop :=
  ∀ (s : State) (cx : Wcx) (f : VR), s.MemOk → Issues s cx (vrInfo f (useB f) (useC f)) →
    let lane (l : Nat) : Nat × FFlags := op f ((s.srcA cx f).getD l 0)
      (if useB f then (s.srcB cx f).getD l 0 else 0) (if useC f then (s.srcC cx f).getD l 0 else 0)
    let fl (l : Nat) : Nat := if l < 32 then (lane l).2 else 0
    TrapsOr (mk f) s cx (vrInfo f (useB f) (useC f)) fl
      (vresOf (wide f) f.vd.toNat cx.f.exec (lanes.map fun l => (lane l).1)) (cx.flagged fl)

/-- A scalar instruction of format S whose result, at both widths (R310, R395), is `op` of its operands, and which leaves
SCC as `scc` of them gives, unchanged where that is none. -/
def ScalarMeans (mk : FS → Instr) (fn : FS → Prop) (flags : Bool) (op : (n : Nat) → BitVec n → BitVec n → BitVec n)
    (scc : (n : Nat) → BitVec n → BitVec n → BitVec 4) : Prop :=
  ∀ (s : State) (cx : Wcx) (f : FS), fn f → s.MemOk →
    Issues s cx { reads := sReads f, writes := sReg f.sd.toNat :: (if flags then [sccReg] else []) } →
    let a := cx.w.sreg f.sa.toNat
    let b := cx.sB f
    let r : W64 := if f.w = 1 then (op 32 (a.setWidth 32) (b.setWidth 32)).signExtend 64 else op 64 a b
    let c : BitVec 4 := if f.w = 1 then scc 32 (a.setWidth 32) (b.setWidth 32) else scc 64 a b
    Done (mk f) s cx { reads := sReads f, writes := sReg f.sd.toNat :: (if flags then [sccReg] else []) } []
      { cx.w with s := cx.w.s.set f.sd.toNat r, scc := if flags then c else cx.w.scc }

/-- A parent's entry when lanes have arrived at it (R26): it goes on at `pc` with the lanes that arrived when they are its
last child's, and waits on otherwise. -/
def arrived (q : Frag) (lanes : W32) (pc : W64) (now : Nat) : Frag :=
  if q.pend = 1 then
    { q with mask := q.arrive ||| lanes, pc := pc, waiting := false, pend := 0, arrive := 0, since := now }
  else { q with arrive := q.arrive ||| lanes, pend := q.pend - 1 }

/-! ## Accesses to memory -/

/-- A piece that lies in LPDDR-6 or in a vault that the bench reaches (R106, R107). -/
def LocalPiece (s : State) (cx : Wcx) (p : Piece) : Prop :=
  ((∃ d, s.place p.pa = .lpddr d) ∨ ∃ v, s.place p.pa = .vault v) ∧ s.reachAll (dieOf cx.b) p.pa p.n = none

/-- A read of a piece gives `bs` and changes nothing: it goes to its point past an L1 that holds no line, or it hits a line
of the L1 whose bytes there are filled or masked (R110, R111, R144, R145). -/
def Gives (s : State) (cx : Wcx) (ch : Nat) (strong : Bool) (p : Piece) (bs : List Byte) : Prop :=
  LocalPiece s cx p ∧
  (((s.bench cx.b).lines = [] ∧ (strong = true ∨ p.ord = 1 ∨ p.nc = true ∨ ch = 2) ∧ bs = Mem.read s.mem (p.pa % 2 ^ 44) p.n) ∨
   (strong = false ∧ p.ord ≠ 1 ∧ p.nc = false ∧ ch = 0 ∧ s.cacheable p.pa = true ∧
     ∃ l, (s.bench cx.b).line? p.pa = some l ∧
       (∀ i, i < p.n → (p.pa % 256 + i) / 64 ∈ l.filled ∨ p.pa % 256 + i ∈ l.masked) ∧
       bs = (List.range p.n).map fun i => l.bytes.get (p.pa % 256 + i) 0))

/-- A write of a piece goes to its point past an L1 that holds no line. -/
def Takes (s : State) (cx : Wcx) (ch : Nat) (strong : Bool) (p : Piece) : Prop :=
  LocalPiece s cx p ∧ (s.bench cx.b).lines = [] ∧ (strong = true ∨ p.ord = 1 ∨ p.nc = true ∨ ch = 2)

/-- The instruction has not begun: the fragment has no request to another package (R269), and none of its accesses was
performed in an earlier turn (R141, R336). -/
def NoRequest (s : State) (cx : Wcx) : Prop :=
  cx.f.codes = [] ∧ ∀ r ∈ s.dev.fabric.remotes, r.who ≠ .frag cx.b cx.slot cx.e

/-- The byte that bytes written from an address leave at `a`, if they cover it. -/
def runByte (pa : Nat) (bs : List Byte) (a : Nat) : Option Byte := if pa ≤ a then bs[a - pa]? else none

/-- The byte that lanes written in ascending order leave at `a`: that of the last one that covers it. -/
def laneBytes (ls : List Nat) (pa : Nat → Nat) (bs : Nat → List Byte) (a : Nat) : Option Byte :=
  ls.foldl (fun r l => (runByte (pa l) (bs l) a).or r) none

/-- Bytes given out to the pieces of an access in order: runs of bytes by local address. -/
def pieceRuns : List Piece → List Byte → List (Nat × List Byte)
  | [], _ => []
  | p :: ps, bs => (p.pa % 2 ^ 44, bs.take p.n) :: pieceRuns ps (bs.drop p.n)

/-- The byte that runs written in order leave at `a`: that of the last one that covers it. -/
def runsByte (rs : List (Nat × List Byte)) (a : Nat) : Option Byte :=
  rs.foldl (fun r x => (runByte x.1 x.2 a).or r) none

/-- What writes of runs of bytes do beside the bytes: they end reservations of their sectors (R247), and mark the format ranges
and composite groups whose tables, pools and staging areas they meet (R124, R277). -/
def State.notedRuns (s : State) (rs : List (Nat × List Byte)) : State :=
  rs.foldl (fun s x => s.noteWrite x.1 x.2.length) s

/-- Every piece is read, each giving its bytes, and nothing changes. -/
def GivesAll (s : State) (cx : Wcx) (ch : Nat) (strong : Bool) (ps : List Piece) (bs : List Byte) : Prop :=
  ∃ f : Piece → List Byte, (∀ p ∈ ps, Gives s cx ch strong p (f p)) ∧ bs = ps.flatMap f

/-- The sum of the store terms of lanes (R163). -/
def laneTerms (ls : List Nat) (term : Nat → W64) : W64 := ls.foldl (fun a l => a + term l) 0


/-! ## Engine commands and device steps -/

/-- The issued, begun command `a` of a dynamic ring, with work left, has the turn: nothing holds its tile, no request of its is
under way, and no sector is poisoned. -/
structure AtWork (s : State) (x : Ecx) (a : Active) : Prop where
  turn : s.cur = .ring x.b x.slot x.num
  ring : x.r = s.ring x.b x.slot
  bound : x.r.state ≠ .unbound
  dynamic : x.r.timed = false
  issued : x.num ≠ x.r.rp + 1
  active : x.r.active.find? (fun i => i.num == x.num) = some a
  begun : a.begun = true
  busy : a.worked = false
  free : s.tileWaits x.b x.slot a = false
  alone : ∀ r ∈ s.dev.fabric.remotes, r.who ≠ x.who
  clean : s.poisoned = []

/-- No wave, group or gaffer differs, and of the rings nothing but their issued commands. -/
structure RingsOnly (s t : State) : Prop where
  waves : ∀ b k, t.wave? b k = s.wave? b k
  groups : ∀ b k, t.group? b k = s.group? b k
  gaffers : ∀ b, (t.bench b).gaffer = (s.bench b).gaffer
  rings : ∀ b k, { t.ring b k with active := [] } = { s.ring b k with active := [] }

/-- A unit of the command `x` was done: its resume index is `idx`, and its work is all done when `worked` holds. -/
structure Works (s t : State) (x : Ecx) (idx : Nat) (worked : Bool) : Prop where
  only : RingsOnly s t
  cmd : ∃ a, (t.ring x.b x.slot).active.find? (fun i => i.num == x.num) = some a ∧ a.idx = idx ∧ a.worked = worked

/-- The image bytes `lo` to `hi` stand at their destinations, and no other byte of memory differs. -/
def Moved (s t : State) (src : Nat → Byte) (dst : Nat → Nat) (lo hi : Nat) : Prop :=
  (∀ m, lo ≤ m → m < hi → Mem.get t.mem (dst m) = src m) ∧
  ∀ a, (∀ m, lo ≤ m → m < hi → a ≠ dst m) → Mem.get t.mem a = Mem.get s.mem a

/-- Nothing changed but what stands outside the dies: the device's own registers and tables. -/
def DevOnly (s t : State) : Prop := t = { s with dev := t.dev }

/-- Nothing changed but one bench. -/
def BenchOnly (s t : State) (b : Nat) : Prop := t = { s with benches := t.benches } ∧ ∀ k, k ≠ b → t.bench k = s.bench k

/-- A local address that lies in LPDDR-6 or in a vault, reached from a die, with no poisoned sector anywhere. -/
def Plain (s : State) (die pa n : Nat) : Prop :=
  ((∃ d, s.place pa = .lpddr d) ∨ ∃ v, s.place pa = .vault v) ∧ s.reachAll die pa n = none ∧ s.poisoned = []

/-- The hart of an issuer. -/
def State.hartAt (s : State) (i : Issuer) : Hart :=
  match i with
  | .gaffer b => (s.bench b).gaffer
  | .host h => s.host h
  | _ => {}

/-- A gaffer outside U mode has the turn, with no request of its to another package under way (R247, R249). -/
structure GafferTurn (s : State) (cx : Hcx) (b : Nat) : Prop where
  turn : s.hcx = some cx
  bench : cx.bench = some b
  mode : cx.h.mode ≠ .u
  alone : ∀ r ∈ s.dev.fabric.remotes, r.who ≠ cx.who

/-- An X instruction completed: rd holds `v`, pc is 4 further, minstret has counted it, nothing blocks the hart, and no wave or group changed. -/
structure HartGoes (s t : State) (cx : Hcx) (f : XR) (v : W64) : Prop where
  hart : t.hartAt cx.at_ = { (cx.h.set f.rd.toNat v).retired with pc := cx.h.pc + 4, blocked := none, aborted := false, words := none }
  waves : ∀ b k, t.wave? b k = s.wave? b k
  groups : ∀ b k, t.group? b k = s.group? b k

/-- An X instruction blocks its gaffer at it (R249): nothing of the hart changes but what blocks it. -/
structure HartBlocks (s t : State) (cx : Hcx) (why : HartWait) : Prop where
  hart : t.hartAt cx.at_ = { cx.h with blocked := some why }
  waves : ∀ b k, t.wave? b k = s.wave? b k
  groups : ∀ b k, t.group? b k = s.group? b k

/-- The four flags of SCC (R47): [0] Z, [1] N, [2] C, [3] V. -/
def SccOf {n : Nat} (r : BitVec n) (c v : Bool) : BitVec 4 :=
  BitVec.ofBool v ++ (BitVec.ofBool c ++ (BitVec.ofBool r.msb ++ BitVec.ofBool (r == 0)))

end Sys2Proof.Machine
end

