-- ==== Sys2Proof/Certificates/Slice0/Obligations.lean ====
section
/-! DEFINITION. The statements for the provers. -/

open Sys2Proof Sys2Proof.Machine


/-! ## Vector instructions -/

/-- R416, R414, R63: the elementwise integer instructions. Each result element is the exact result on unbounded integers,
narrowed once; shifts are by b mod the element width; the counts and bitwise forms act on element bits.
R416, R417: VDOT4 adds four exact products to a 32-bit integer of the type's signedness; VBFE and VBFI take the offset
and the width from B, cut to the 32 bits.
R420, R309: the immediate forms act as their format-VR counterparts with B = the immediate; VMOV writes it.
R418, R318, R419, R420: VCMP, VFCMP and the immediate VCMP write one mask bit a lane of EXEC and keep the others; VFCMP
completes when its NV is not enabled, and traps when it is (R68); VSEL picks A or B by the lane's mask bit. -/
def Obligations.IntegerVectorInstructionsComplete : Prop :=
  (VecMeans .vadd true false (fun f a b _ => intMap f.ty.toNat (f.sat == 1) (fun x y _ => x + y) a b 0) ∧
   VecMeans .vsub true false (fun f a b _ => intMap f.ty.toNat (f.sat == 1) (fun x y _ => x - y) a b 0) ∧
   VecMeans .vmul true false (fun f a b _ =>
     intMap f.ty.toNat (f.sat == 1) (fun x y _ => if f.fn = 1 then x * y / 2 ^ 32 else x * y) a b 0) ∧
   VecMeans .vmad true true (fun f a b c => intMap f.ty.toNat (f.sat == 1) (fun x y z => x * y + z) a b c) ∧
   VecMeans .vand true false (fun _ a b _ => a &&& b) ∧
   VecMeans .vor true false (fun _ a b _ => a ||| b) ∧
   VecMeans .vxor true false (fun _ a b _ => a ^^^ b) ∧
   VecMeans .vshl true false (fun f a b _ => bitMap f.ty.toNat
     (fun x y => x * 2 ^ (y % elemBits f.ty.toNat) % 2 ^ elemBits f.ty.toNat) a b) ∧
   VecMeans .vshr true false (fun f a b _ => bitMap f.ty.toNat (fun x y =>
     if f.fn = 1 then wrap (elemBits f.ty.toNat) (sext (elemBits f.ty.toNat) x / (2 ^ (y % elemBits f.ty.toNat) : Nat))
     else x / 2 ^ (y % elemBits f.ty.toNat)) a b) ∧
   VecMeans .vmin true false (fun f a b _ => intMap f.ty.toNat false (fun x y _ => min x y) a b 0) ∧
   VecMeans .vmax true false (fun f a b _ => intMap f.ty.toNat false (fun x y _ => max x y) a b 0) ∧
   VecMeans .vpopc false false (fun _ a _ _ => ((List.range 32).filter fun i => a / 2 ^ i % 2 = 1).length) ∧
   VecMeans .vclz false false (fun _ a _ _ => if a = 0 then 32 else 31 - Nat.log2 a) ∧
   VecMeans .vmov false false (fun _ a _ _ => a)) ∧
  (VecMeans .vdot4 true true (fun f a b c =>
     let t32 := if f.ty.toNat = 10 then 0 else 1
     let p (e : Nat) : Int := intElem f.ty.toNat (elemOf f.ty.toNat a e) * intElem f.ty.toNat (elemOf f.ty.toNat b e)
     narrow t32 (f.sat == 1) (intElem t32 c + p 0 + p 1 + p 2 + p 3)) ∧
   VecMeans .vbfe true false (fun f a b _ =>
     let o := b % 32
     let w := min (b / 2 ^ 8 % 32) (32 - o)
     let x := a / 2 ^ o % 2 ^ w
     if f.ty.toNat = 0 ∧ w ≠ 0 ∧ 2 ^ (w - 1) ≤ x then 2 ^ 32 - 2 ^ w + x else x) ∧
   VecMeans .vbfi true true (fun _ a b c =>
     let o := b % 32
     let w := min (b / 2 ^ 8 % 32) (32 - o)
     if w = 0 then c else c % 2 ^ o + a % 2 ^ w * 2 ^ o + c / 2 ^ (o + w) * 2 ^ (o + w))) ∧
  (ImmMeans .vaddImm (fun f a => intMap f.ty.toNat false (fun x y _ => x + y) a (viValue f) 0) ∧
   ImmMeans .vmulImm (fun f a => intMap f.ty.toNat false (fun x y _ => x * y) a (viValue f) 0) ∧
   ImmMeans .vandImm (fun f a => a &&& viValue f) ∧
   ImmMeans .vorImm (fun f a => a ||| viValue f) ∧
   (∀ (s : State) (cx : Wcx) (f : VI), s.MemOk → Issues s cx { viInfo f with reads := [] } →
     Done (.vmovImm f) s cx { viInfo f with reads := [] }
       (vresOf (isWide f.ty.toNat) f.vd.toNat cx.f.exec (lanes.map fun _ => viValue f)) cx.w)) ∧
  ((∀ (s : State) (cx : Wcx) (f : VR), s.MemOk →
     Issues s cx { vrInfo f true false with writes := [mReg (f.vd.toNat % 16)] } →
     Done (.vcmp f) s cx { vrInfo f true false with writes := [mReg (f.vd.toNat % 16)] } []
       { cx.w with m := cx.w.m.set (f.vd.toNat % 16) (cx.putMask (f.vd.toNat % 16) fun l =>
           intCond f.fn.toNat (intElem f.ty.toNat ((s.srcA cx f).getD l 0)) (intElem f.ty.toNat ((s.srcB cx f).getD l 0))) }) ∧
   (∀ (s : State) (cx : Wcx) (f : VI), s.MemOk →
     Issues s cx { viInfo f with writes := [mReg (f.vd.toNat % 16)] } →
     Done (.vcmpImm f) s cx { viInfo f with writes := [mReg (f.vd.toNat % 16)] } []
       { cx.w with m := cx.w.m.set (f.vd.toNat % 16) (cx.putMask (f.vd.toNat % 16) fun l =>
           intCond (f.vd.toNat / 32) (intElem f.ty.toNat ((s.viA cx f).getD l 0)) (intElem f.ty.toNat (viValue f))) }) ∧
   (∀ (s : State) (cx : Wcx) (f : VR), s.MemOk →
     Issues s cx { vrInfo f true false with writes := [mReg (f.vd.toNat % 16)] } →
     let r (l : Nat) : Bool × FFlags := floatCond f.fn.toNat
       (.decode (fmtOf f.ty.toNat) (negElems f.ty.toNat (f.na == 1) ((s.srcA cx f).getD l 0)))
       (.decode (fmtOf f.ty.toNat) ((s.srcB cx f).getD l 0))
     let fl (l : Nat) : Nat := if l < 32 then (r l).2 else 0
     TrapsOr (.vfcmp f) s cx { vrInfo f true false with writes := [mReg (f.vd.toNat % 16)] } fl []
       { cx.flagged fl with
         m := cx.w.m.set (f.vd.toNat % 16) (cx.putMask (f.vd.toNat % 16) fun l => (r l).1) }) ∧
   (∀ (s : State) (cx : Wcx) (f : VR), s.MemOk →
     Issues s cx { vrInfo f true false with reads := mReg (f.vc.toNat % 16) :: (vrInfo f true false).reads } →
     Done (.vsel f) s cx { vrInfo f true false with reads := mReg (f.vc.toNat % 16) :: (vrInfo f true false).reads }
       (vresOf (isWide f.ty.toNat) f.vd.toNat cx.f.exec (lanes.map fun l =>
         if (cx.w.mreg (f.vc.toNat % 16)).getLsbD l then (s.srcA cx f).getD l 0 else (s.srcB cx f).getD l 0)) cx.w))

/-- R421 to R423, R67, R69: the floating-point instructions, element by element of the type: the element result of the
operands after NA and NC, clamped with SAT; the flags of the lanes that count are ORed into FPFLAGS.
R420 to R423: VFDOT2 sums two exact products and an F32, rounded once; VSINCOS gives SinPi, CosPi or both to a pair; the
immediate forms of VFADD and VFMUL round by RNE without SAT, and raise what the widening of an F32 immediate raises (R70,
R309).
R68: each of them of which a lane that counts raises an enabled flag raises FPTRAP: it writes no destination, ORs the flags it
raised into FPFLAGS, and its record names the lanes and the flags. -/
def Obligations.FloatVectorInstructionsComplete : Prop :=
  (let el (op : Fmt → Nat → Nat → Nat → Nat → Nat × FFlags) (f : VR) (a b c : Nat) : Nat × FFlags :=
     floatElems f.ty.toNat fun e =>
       let r := op (fmtOf f.ty.toNat) f.rm.toNat (elemOf f.ty.toNat (negElems f.ty.toNat (f.na == 1) a) e)
         (elemOf f.ty.toNat b e) (elemOf f.ty.toNat (negElems f.ty.toNat (f.nc == 1) c) e)
       (if f.sat = 1 then clamp01 (fmtOf f.ty.toNat) r.1 else r.1, r.2)
   let means (mk : VR → Instr) (useB useC : Bool) (op : VR → Fmt → Nat → Nat → Nat → Nat → Nat × FFlags) : Prop :=
     FloatMeans mk (fun _ => useB) (fun _ => useC) (fun f => isWide f.ty.toNat) fun f => el (op f) f
   means .vfadd true false (fun _ m rm a b _ => faddEl m rm a b) ∧
   means .vfmul true false (fun _ m rm a b _ => fmulEl m rm a b) ∧
   means .vfma true true (fun _ m rm a b c => ffmaEl m rm a b c) ∧
   means .vfmin true false (fun f m _ a b _ => fminmaxEl m false (f.fn == 1) a b) ∧
   means .vfmax true false (fun f m _ a b _ => fminmaxEl m true (f.fn == 1) a b) ∧
   means .vfdiv true false (fun _ m rm a b _ => fdivEl m rm a b) ∧
   means .vfsqrt false false (fun _ m rm a _ _ => fsqrtEl m rm a) ∧
   means .vrcp false false (fun _ m rm a _ _ => frcpEl m rm a) ∧
   means .vrsq false false (fun _ m rm a _ _ => frsqEl m rm a) ∧
   means .vexp2 false false (fun _ _ rm a _ _ => fexp2El rm a) ∧
   means .vlog2 false false (fun _ _ rm a _ _ => flog2El rm a) ∧
   means .vfrnd false false (fun _ m rm a _ _ => frndEl m rm a) ∧
   means .vfract false false (fun _ m _ a _ _ => fractEl m a)) ∧
  ((FloatMeans .vfdot2 (fun _ => true) (fun _ => true) (fun _ => false) fun f a b c =>
     let r := fdot2Lane (fmtOf f.ty.toNat) f.rm.toNat (negElems f.ty.toNat (f.na == 1) a) b (negElems 4 (f.nc == 1) c)
     (if f.sat = 1 then clamp01 .f32 r.1 else r.1, r.2)) ∧
   (∀ (s : State) (cx : Wcx) (f : VR), s.MemOk →
     let info : WInfo := { vrInfo f false false with writes := vRegs f.vd.toNat (if f.fn.toNat = 2 then 2 else 1) }
     Issues s cx info →
     let one (cos : Bool) (l : Nat) : Nat × FFlags :=
       let r := trigEl cos f.rm.toNat (negElems 4 (f.na == 1) ((s.srcA cx f).getD l 0))
       (if f.sat = 1 then clamp01 .f32 r.1 else r.1, r.2)
     let fl (l : Nat) : Nat := if l < 32 then (one (f.fn.toNat == 1) l).2 ||| (if f.fn.toNat = 2 then (one true l).2 else 0) else 0
     TrapsOr (.vsincos f) s cx info fl
       (⟨f.vd.toNat, cx.f.exec, lanes.map fun l => (one (f.fn.toNat == 1) l).1⟩ ::
         (if f.fn.toNat = 2 then [⟨f.vd.toNat + 1, cx.f.exec, lanes.map fun l => (one true l).1⟩] else []))
       (cx.flagged fl)) ∧
   (∀ (mk : VI → Instr) (op : Fmt → Nat → Nat → Nat → Nat × FFlags), (mk, op) ∈ [(Instr.vfaddImm, faddEl), (.vfmulImm, fmulEl)] →
     ∀ (s : State) (cx : Wcx) (f : VI), s.MemOk → Issues s cx (viInfo f) →
     let lane (l : Nat) : Nat × FFlags := floatElems f.ty.toNat fun e =>
       op (fmtOf f.ty.toNat) 0 (elemOf f.ty.toNat ((s.viA cx f).getD l 0) e) (elemOf f.ty.toNat (viValue f) e)
     let widened : FFlags := if f.ty.toNat = 5 then (convFloat .f64 0 false (FVal.decode .f32 f.imm.toNat)).2 else 0
     let fl (l : Nat) : Nat := if l < 32 then (lane l).2 ||| widened else 0
     TrapsOr (mk f) s cx (viInfo f) fl (vresOf (isWide f.ty.toNat) f.vd.toNat cx.f.exec (lanes.map fun l => (lane l).1))
       (cx.flagged fl)))

/-- R424, R425, R70: VCVT converts max(E(source), E(destination)) elements a lane, element by element of consecutive units.
R426 to R428, R182: VQMX writes the scale, the image of its block's codes and, with RES, the residuals; VDQMX widens an
image under a scale. VCVT and VDQMX trap on an enabled flag (R68).
R355, R356, R173: DECODE of a chunk that lies in the group's scratch writes the chunk's bytes to the lanes of EXEC and the
end bit, the bad-byte count and the malformed flag to its scalar. -/
def Obligations.ConversionAndDecodeComplete : Prop :=
  (∀ (s : State) (cx : Wcx) (f : VR), s.MemOk →
     let dst := f.ty.toNat
     let src := f.fn.toNat
     let n := max (elemsPer src) (elemsPer dst)
     let ks := f.ks.getLsbD 2
     let info : WInfo :=
       { reads := if ks then [sReg f.va.toNat] else vRegs f.va.toNat (n / elemsPer src * unitRegs src),
         writes := vRegs f.vd.toNat (n / elemsPer dst * unitRegs dst), tr := f.tr == 1,
         oc := if f.oc.getLsbD 2 && !ks then vRegs f.va.toNat (n / elemsPer src * unitRegs src) else [] }
     Issues s cx info →
     let source (l i : Nat) : Nat := elemOf src (negElems src (f.na == 1)
       ((s.readSrc cx (isWide src) ks (f.va.toNat + i / elemsPer src * unitRegs src)).getD l 0)) (i % elemsPer src)
     let result (l i : Nat) : Nat × FFlags := cvtEl dst src f.rm.toNat (f.sat == 1) (source l i)
     let fl (l : Nat) : Nat := if l < 32 then (List.range n).foldl (fun a i => a ||| (result l i).2) 0 else 0
     TrapsOr (.vcvt f) s cx info fl
       ((List.range (n / elemsPer dst)).flatMap fun u =>
         vresOf (isWide dst) (f.vd.toNat + u * unitRegs dst) cx.f.exec (lanes.map fun l =>
           packElems dst ((List.range (elemsPer dst)).map fun e => (result l (u * elemsPer dst + e)).1)))
       (cx.flagged fl)) ∧
  ((∀ (s : State) (cx : Wcx) (f : VR), s.MemOk →
     let info : WInfo :=
       { reads := [f.va.toNat],
         writes := f.vd.toNat :: sReg (f.vc.toNat % 64) :: (if f.fn = 1 then [f.vb.toNat] else []),
         oc := if f.oc.getLsbD 2 then [f.va.toNat] else [] }
     Issues s cx info →
     let q := quantBlock (fmtOf f.ty.toNat) (fun _ => none)
       (lanes.map fun l => if (cx.f.exec &&& ~~~cx.w.helper).getLsbD l then w32 ((s.readV cx f.va.toNat).getD l 0) else 0)
     let img := codeBytes (fmtOf f.ty.toNat) q.codes
     Done (.vqmx f) s cx info
       (⟨f.vd.toNat, maskOf fun l => cx.f.exec.getLsbD l && 4 * l < img.length,
           lanes.map fun l => leNat ((img.drop (4 * l)).take 4)⟩ ::
         (if f.fn = 1 then [⟨f.vb.toNat, cx.f.exec, q.res.map (·.toNat)⟩] else []))
       { cx.w with s := cx.w.s.set (f.vc.toNat % 64) (w64 q.scale) }) ∧
   (∀ (s : State) (cx : Wcx) (f : VR), s.MemOk → Issues s cx (vrInfo f true false) →
     let img := (s.readV cx f.va.toNat).flatMap (leBytes 4)
     let scale := (cx.w.sreg f.vb.toNat).toNat % 256
     let lane (l : Nat) : Nat × FFlags := dequantEl (fmtOf f.ty.toNat) f.rm.toNat scale
       (if f.ty = 14 then (img.getD (l / 2) 0).toNat / 16 ^ (l % 2) % 16 else (img.getD l 0).toNat)
     let fl (l : Nat) : Nat := if l < 32 then (lane l).2 else 0
     TrapsOr (.vdqmx f) s cx (vrInfo f true false) fl [⟨f.vd.toNat, cx.f.exec, lanes.map fun l => (lane l).1⟩]
       (cx.flagged fl))) ∧
  (∀ (s : State) (cx : Wcx) (f : VR), s.MemOk →
     let sa := f.va.toNat % 64
     let info : WInfo := { reads := [sReg sa], writes := [f.vd.toNat, sReg sa], barred := true }
     Issues s cx info →
     let v := Variant.ofFn f.fn.toNat
     let b := (cx.w.sreg sa).toNat % 2 ^ 40
     let c := decodeChunk v (s.scratchBytes cx (b / 8) 202) (b % 8)
     (v = .trit → b % 8 = 0) → 8 * (b / 8) + c.next ≤ 8 * cx.g.scratch →
     Done (.decode f) s cx info
       [⟨f.vd.toNat, cx.f.exec, lanes.map fun l => leNat ((c.out.drop (4 * l)).take 4)⟩]
       { cx.w with s := cx.w.s.set sa (w64 ((if c.malformed then 2 ^ 63 else 0)
           + (if v = .trit then c.bad else 0) * 2 ^ 40 + (8 * (b / 8) + c.next))) })

/-! ## Lanes and masks -/

/-- R429 to R431, R337: VQSWZ, VSHFL, VRDL, VWRL and BALLOT.
R432, R67, R68: VRED and VSCAN fold the contributing lanes in ascending order from the identity; they complete when no flag that
FADD raises in a lane that is no helper is enabled, and trap when one is. `acc j` is the accumulator before lane `j`.
R379, R380: MOP and MSAVE write a whole mask register, MPOP counts or finds a lane of a mask and EXEC, and MREST sets the
issuing fragment's NARROW alone. -/
def Obligations.CrossLaneInstructionsComplete : Prop :=
  ((∀ (s : State) (cx : Wcx) (f : VI), s.MemOk → Issues s cx (viInfo f) →
     Done (.vqswz f) s cx (viInfo f) (vresOf (isWide f.ty.toNat) f.vd.toNat cx.f.exec
       (lanes.map fun l => (s.viA cx f).getD (4 * (l / 4) + f.imm.toNat / 2 ^ (2 * (l % 4)) % 4) 0)) cx.w) ∧
   (∀ (s : State) (cx : Wcx) (f : VR), s.MemOk → Issues s cx (vrInfo f true false) →
     let a (l : Nat) : Nat := (s.srcA cx f).getD l 0
     let b (l : Nat) : Nat := (s.srcB cx f).getD l 0 % 2 ^ 32
     let from_ (l : Nat) : Int :=
       if f.fn = 0 then (b l % 32 : Nat)
       else if f.fn = 1 then (l : Int) - (b l : Nat)
       else if f.fn = 2 then (l : Int) + (b l : Nat)
       else (l ^^^ (b l % 32) : Nat)
     Done (.vshfl f) s cx (vrInfo f true false) (vresOf (isWide f.ty.toNat) f.vd.toNat cx.f.exec
       (lanes.map fun l => if 0 ≤ from_ l ∧ from_ l ≤ 31 then a (from_ l).toNat else a l)) cx.w) ∧
   (∀ (s : State) (cx : Wcx) (f : VR), s.MemOk →
     let info : WInfo := { vrInfo f true false with writes := [sReg (f.vd.toNat % 64)] }
     Issues s cx info →
     let x := (s.srcA cx f).getD ((cx.w.sreg f.vb.toNat).toNat % 32) 0
     Done (.vrdl f) s cx info []
       { cx.w with s := cx.w.s.set (f.vd.toNat % 64) (if f.ty.toNat = 0 then (w32 x).signExtend 64 else w64 x) }) ∧
   (∀ (s : State) (cx : Wcx) (f : VR), s.MemOk → Issues s cx (vrInfo f true false) →
     Done (.vwrl f) s cx (vrInfo f true false) (vresOf (isWide f.ty.toNat) f.vd.toNat
       (maskOf fun k => k == (cx.w.sreg f.vb.toNat).toNat % 32 && cx.f.exec.getLsbD k) (s.srcA cx f)) cx.w) ∧
   (∀ (s : State) (cx : Wcx) (f : VR), s.MemOk →
     let info : WInfo := { vrInfo f false false with writes := [mReg (f.vd.toNat % 16)] }
     Issues s cx info →
     Done (.ballot f) s cx info []
       { cx.w with m := cx.w.m.set (f.vd.toNat % 16) (maskOf fun l =>
           cx.f.exec.getLsbD l && (f.fn = 8 || !cx.w.helper.getLsbD l) && (s.srcA cx f).getD l 0 != 0) })) ∧
  (∀ (s : State) (cx : Wcx) (f : VR) (acc : Nat → Nat) (fl : FFlags), s.MemOk →
     let op := f.fn.toNat % 8
     let counts (j : Nat) : Bool := cx.f.exec.getLsbD j && (f.fn.toNat / 8 = 1 || !cx.w.helper.getLsbD j)
     let a (j : Nat) : Nat := (s.srcA cx f).getD j 0
     acc 0 = redIdentity op f.ty.toNat →
     (∀ j, j < 32 → acc (j + 1) = if counts j then (redStep op f.ty.toNat (acc j) (a j)).1 else acc j) →
     fl = lanes.foldr (fun j x => (if counts j && !cx.w.helper.getLsbD j then (redStep op f.ty.toNat (acc j) (a j)).2 else 0) ||| x) 0 →
     let info : WInfo := { vrInfo f false false with writes := [sReg (f.vd.toNat % 64)] }
     let trapped : State := (s.orFlags cx.b cx.slot fl).fault cx
       { cause := Cause.fpTrap, aux := fl, lanes := maskOf fun j => counts j && !cx.w.helper.getLsbD j }
     (fl &&& cx.w.fptrap.toNat = 0 →
       (Issues s cx info → Done (.vred f) s cx info []
         { cx.w with s := cx.w.s.set (f.vd.toNat % 64) (scalarOf f.ty.toNat (acc 32)),
                     fpflags := cx.w.fpflags ||| BitVec.ofNat 5 fl }) ∧
       (Issues s cx (vrInfo f false false) → Done (.vscan f) s cx (vrInfo f false false)
         (vresOf (isWide f.ty.toNat) f.vd.toNat cx.f.exec (lanes.map fun j => acc (j + 1)))
         { cx.w with fpflags := cx.w.fpflags ||| BitVec.ofNat 5 fl })) ∧
     (fl &&& cx.w.fptrap.toNat ≠ 0 →
       (Issues s cx info → exec (.vred f) s = .next trapped) ∧
       (Issues s cx (vrInfo f false false) → exec (.vscan f) s = .next trapped))) ∧
  ((∀ (s : State) (cx : Wcx) (f : VR), s.MemOk →
     let fn := f.fn.toNat
     let info : WInfo :=
       { reads := if fn = 6 then [sReg f.va.toNat] else maskReads f.va.toNat ++ (if fn ≤ 3 then maskReads f.vb.toNat else []),
         writes := [mReg f.vd.toNat] }
     Issues s cx info →
     let src (n : Nat) : W32 := if n = 16 then cx.f.mask &&& cx.f.narrow else cx.w.m.get n 0
     let a := src f.va.toNat
     let b := src f.vb.toNat
     let v : W32 := if fn = 0 then a &&& b else if fn = 1 then a ||| b else if fn = 2 then a ^^^ b
       else if fn = 3 then a &&& ~~~b else if fn = 4 then ~~~a else if fn = 5 then a
       else (cx.w.s.get f.va.toNat 0).setWidth 32
     Done (.mop f) s cx info [] { cx.w with m := cx.w.m.set f.vd.toNat v }) ∧
   (∀ (s : State) (cx : Wcx) (f : VR), s.MemOk → Issues s cx { writes := [mReg f.vd.toNat] } →
     Done (.msave f) s cx { writes := [mReg f.vd.toNat] } [] { cx.w with m := cx.w.m.set f.vd.toNat cx.f.narrow }) ∧
   (∀ (s : State) (cx : Wcx) (f : VR), s.MemOk →
     let info : WInfo := { reads := maskReads f.va.toNat, writes := [sReg f.vd.toNat] }
     Issues s cx info →
     let on := (List.range 32).filter fun l => (cx.maskSrc f.va.toNat &&& cx.f.exec).getLsbD l
     Done (.mpop f) s cx info []
       { cx.w with s := cx.w.s.set f.vd.toNat (w64 (if f.fn = 0 then on.length else on.headD 32)) }) ∧
   (∀ (s : State) (cx : Wcx) (f : VR), s.MemOk →
     let info : WInfo := { reads := maskReads f.va.toNat, barred := true }
     Issues s cx info →
     let a := cx.maskSrc f.va.toNat
     ∃ t, exec (.mrest f) s = .next t ∧
       CompletesAs s t cx { cx.f with narrow := if f.fn = 1 then cx.f.narrow &&& a else a } info (cx.f.pc + 8) [] 0 cx.w))

/-! ## Scalar instructions -/

/-- R394, R395, R317: the scalar arithmetic and logic at 64 and at 32 bits, with SCC where they set it.
R394, R395, R317: SCMP sets SCC alone, as SSUB does; SMOV writes B, or the immediate to the high half; SSEL picks A or B
by the condition of FN on SCC. -/
def Obligations.ScalarInstructionsComplete : Prop :=
  (ScalarMeans .sadd (fun _ => True) true (fun _ a b => a + b)
     (fun n a b => SccOf (a + b) (2 ^ n ≤ a.toNat + b.toNat) (BitVec.saddOverflow a b)) ∧
   ScalarMeans .ssub (fun _ => True) true (fun _ a b => a - b)
     (fun _ a b => SccOf (a - b) (BitVec.ult a b) (BitVec.ssubOverflow a b)) ∧
   ScalarMeans .smul (fun f => f.fn = 0) false (fun _ a b => a * b) (fun _ _ _ => 0) ∧
   ScalarMeans .smul (fun f => f.fn = 1) false
     (fun n a b => (a.signExtend (2 * n) * b.signExtend (2 * n)).extractLsb' n n) (fun _ _ _ => 0) ∧
   ScalarMeans .smul (fun f => f.fn = 2) false
     (fun n a b => (a.setWidth (2 * n) * b.setWidth (2 * n)).extractLsb' n n) (fun _ _ _ => 0) ∧
   ScalarMeans .sand (fun _ => True) true (fun _ a b => a &&& b) (fun _ a b => SccOf (a &&& b) false false) ∧
   ScalarMeans .sor (fun _ => True) true (fun _ a b => a ||| b) (fun _ a b => SccOf (a ||| b) false false) ∧
   ScalarMeans .sxor (fun _ => True) true (fun _ a b => a ^^^ b) (fun _ a b => SccOf (a ^^^ b) false false) ∧
   ScalarMeans .sshl (fun _ => True) false (fun n a b => a <<< (b.toNat % n)) (fun _ _ _ => 0) ∧
   ScalarMeans .sshr (fun f => f.fn = 0) false (fun n a b => a >>> (b.toNat % n)) (fun _ _ _ => 0) ∧
   ScalarMeans .sshr (fun f => f.fn = 1) false (fun n a b => a.sshiftRight (b.toNat % n)) (fun _ _ _ => 0)) ∧
  ((∀ (s : State) (cx : Wcx) (f : FS), s.MemOk → Issues s cx { reads := sReads f, writes := [sccReg] } →
     let a := cx.w.sreg f.sa.toNat
     let b := cx.sB f
     Done (.scmp f) s cx { reads := sReads f, writes := [sccReg] } []
       { cx.w with
         scc := if f.w = 1
           then SccOf ((a.setWidth 32 : W32) - b.setWidth 32) (BitVec.ult (a.setWidth 32 : W32) (b.setWidth 32))
             (BitVec.ssubOverflow (a.setWidth 32 : W32) (b.setWidth 32))
           else SccOf (a - b) (BitVec.ult a b) (BitVec.ssubOverflow a b) }) ∧
   (∀ (s : State) (cx : Wcx) (f : FS), f.fn = 0 → s.MemOk →
     let info : WInfo := { reads := if f.ib = 1 then [] else [sReg f.sb.toNat], writes := [sReg f.sd.toNat] }
     Issues s cx info →
     Done (.smov f) s cx info []
       { cx.w with s := cx.w.s.set f.sd.toNat (if f.w = 1 then ((cx.sB f).setWidth 32).signExtend 64 else cx.sB f) }) ∧
   (∀ (s : State) (cx : Wcx) (f : FS), f.fn = 1 → s.MemOk →
     let info : WInfo := { reads := [sReg f.sd.toNat], writes := [sReg f.sd.toNat] }
     Issues s cx info →
     Done (.smov f) s cx info []
       { cx.w with s := cx.w.s.set f.sd.toNat (f.imm ++ (cx.w.sreg f.sd.toNat).setWidth 32) }) ∧
   (∀ (s : State) (cx : Wcx) (f : FS), s.MemOk →
     let info : WInfo := { reads := sccReg :: sReads f, writes := [sReg f.sd.toNat] }
     Issues s cx info →
     let v := if sccCond f.fn.toNat cx.w.scc then cx.w.sreg f.sa.toNat else cx.sB f
     Done (.ssel f) s cx info []
       { cx.w with s := cx.w.s.set f.sd.toNat (if f.w = 1 then (v.setWidth 32).signExtend 64 else v) }))

/-- R402, R51: SRD writes a listed special value, zero-extended; SWR of SCC, FPFLAGS and FPTRAPEN sets them, and of STHASH
sets the group's seed and zeroes its sum; an unlisted number, and a write of a value that is not RW, raise ILLEGAL. -/
def Obligations.SpecialValuesReadAndWritten : Prop :=
  (∀ (s : State) (cx : Wcx) (f : FS), s.MemOk →
    let info : WInfo := { reads := specialReg f.imm.toNat, writes := [sReg f.sd.toNat] }
    Issues s cx info →
    let put (v : Nat) : Prop := Done (.srd f) s cx info [] { cx.w with s := cx.w.s.set f.sd.toNat (w64 v) }
    (f.imm = 0x000 → put cx.b) ∧ (f.imm = 0x001 → put (cx.b / 8)) ∧ (f.imm = 0x002 → put (cx.b / 128)) ∧
    (f.imm = 0x003 → put cx.slot) ∧ (f.imm = 0x004 → put cx.w.index) ∧ (f.imm = 0x005 → put cx.g.groupId) ∧
    (f.imm = 0x006 → put cx.g.clusterId) ∧ (f.imm = 0x007 → put cx.g.part) ∧ (f.imm = 0x008 → put cx.g.ctx) ∧
    (f.imm = 0x009 → put cx.g.param.toNat) ∧ (f.imm = 0x010 → put cx.w.helper.toNat) ∧
    (f.imm = 0x011 → put (cx.f.mask &&& cx.f.narrow).toNat) ∧ (f.imm = 0x012 → put cx.f.narrow.toNat) ∧
    (f.imm = 0x013 → put cx.w.scc.toNat) ∧ (f.imm = 0x018 → put cx.w.fpflags.toNat) ∧
    (f.imm = 0x019 → put cx.w.fptrap.toNat) ∧ (f.imm = 0x020 → put (s.cycle cx.b)) ∧ (f.imm = 0x021 → put s.dev.ptc.ptc) ∧
    (f.imm = 0x028 → put cx.g.sum.toNat) ∧ (f.imm = 0x030 → put (8 * cx.w.g0 + 8 * cx.w.g1 + 8 * cx.w.g0 * 2 ^ 10)) ∧
    (f.imm = 0x031 → put cx.g.scratch) ∧
    (f.imm.toNat ∉ [0x000, 0x001, 0x002, 0x003, 0x004, 0x005, 0x006, 0x007, 0x008, 0x009, 0x010, 0x011, 0x012, 0x013, 0x018,
        0x019, 0x020, 0x021, 0x028, 0x030, 0x031] →
      exec (.srd f) s = .next (s.fault cx (raiseOf Cause.illegal)))) ∧
  (∀ (s : State) (cx : Wcx) (f : FS), s.MemOk →
    let info : WInfo := { reads := [sReg f.sa.toNat], writes := specialReg f.imm.toNat }
    Issues s cx info →
    let v := cx.w.sreg f.sa.toNat
    (f.imm = 0x13 → Done (.swr f) s cx info [] { cx.w with scc := v.setWidth 4 }) ∧
    (f.imm = 0x18 → Done (.swr f) s cx info [] { cx.w with fpflags := v.setWidth 5 }) ∧
    (f.imm = 0x19 → Done (.swr f) s cx info [] { cx.w with fptrap := v.setWidth 5 }) ∧
    (f.imm = 0x28 → ∃ t, exec (.swr f) s = .next t ∧ t.mem = s.mem ∧
      t.group? cx.b cx.w.group = some { cx.g with seed := v, sum := dueTerms cx.f info 0 } ∧
      t.frag? cx.b cx.slot cx.e = some (cx.f.at (cx.f.pc + 8) (s.cycle cx.b) (nextWindow cx.f info [] 0))) ∧
    (f.imm ≠ 0x13 → f.imm ≠ 0x18 → f.imm ≠ 0x19 → f.imm ≠ 0x28 →
      exec (.swr f) s = .next (s.fault cx (raiseOf Cause.illegal))))

/-! ## Control -/

/-- R317: the sixteen conditions over SCC, a scalar, or a mask and EXEC. -/
def Obligations.ConditionsByTable : Prop :=
  ∀ (cx : Wcx) (sa mk : Nat),
    let z := cx.w.scc.getLsbD 0
    let n := cx.w.scc.getLsbD 1
    let c := cx.w.scc.getLsbD 2
    let v := cx.w.scc.getLsbD 3
    let x := cx.f.mask &&& cx.f.narrow
    let m := cx.w.m.get mk 0
    cx.cond 0 sa mk = true ∧ cx.cond 1 sa mk = z ∧ cx.cond 2 sa mk = !z ∧ cx.cond 3 sa mk = (n ^^ v) ∧
    cx.cond 4 sa mk = !(n ^^ v) ∧ cx.cond 5 sa mk = c ∧ cx.cond 6 sa mk = !c ∧
    cx.cond 7 sa mk = (!z && !(n ^^ v)) ∧ cx.cond 8 sa mk = (z || (n ^^ v)) ∧
    cx.cond 9 sa mk = (!c && !z) ∧ cx.cond 10 sa mk = (c || z) ∧
    cx.cond 11 sa mk = decide (cx.w.s.get sa 0 = 0) ∧ cx.cond 12 sa mk = decide (cx.w.s.get sa 0 ≠ 0) ∧
    (cx.cond 13 sa mk = true ↔ ∃ l, m.getLsbD l = true ∧ x.getLsbD l = true) ∧
    (cx.cond 14 sa mk = true ↔ ∀ l, x.getLsbD l = true → m.getLsbD l = false) ∧
    (cx.cond 15 sa mk = true ↔ ∀ l, x.getLsbD l = true → m.getLsbD l = true)

/-- R385, R341: NOP does nothing but advance PC; BR goes to PC + 8 × OFF when its condition holds and to PC + 8 when not.
R344, R364: the target of JMP and CALL that FN and OFF name, when there is one for every lane of EXEC.
R390: RET goes to s(SA) when its condition holds; a target that is not aligned raises ALIGN. -/
def Obligations.UniformControlFlowCompletes : Prop :=
  ((∀ (s : State) (cx : Wcx) (f : FC), s.MemOk → Issues s cx {} → Done (.nop f) s cx {} [] cx.w) ∧
   (∀ (s : State) (cx : Wcx) (f : FC), s.MemOk → Issues s cx { reads := condReads f } →
     ∃ t, exec (.br f) s = .next t ∧ Completes s t cx { reads := condReads f }
       (if cx.cond f.cnd.toNat f.sa.toNat f.mask.toNat then cx.f.pc + 8 * f.off.signExtend 64 else cx.f.pc + 8) [] 0 cx.w)) ∧
  (∀ (s : State) (cx : Wcx) (f : FC) (t : W64), s.MemOk →
     let holds := cx.cond f.cnd.toNat f.sa.toNat f.mask.toNat
     let callReads : List Nat := (if f.cnd.toNat < 13 ∧ f.cnd ≠ 0 then [sccReg] else if 13 ≤ f.cnd.toNat then [mReg f.mask.toNat] else [])
       ++ targetReads f
     let jmpInfo : WInfo := { reads := condReads f ++ targetReads f }
     let callInfo : WInfo := { reads := callReads, writes := [sReg f.sa.toNat] }
     let lane (l : Nat) : Nat := (s.readPair cx (f.off.toNat % 512)).getD l 0
     let target : Prop :=
       (f.fn = 0 ∧ t = cx.f.pc + 8 * f.off.signExtend 64) ∨ (f.fn = 1 ∧ t = cx.w.sreg (f.off.toNat % 64)) ∨
       (f.fn = 2 ∧ cx.f.exec ≠ 0 ∧ ∀ l, l < 32 → cx.f.exec.getLsbD l = true → lane l = t.toNat)
     -- taken, to an aligned target: CALL writes its link, the target having been read before
     (holds = true → target → t.toNat % 8 = 0 →
       (Issues s cx jmpInfo → ∃ u, exec (.jmp f) s = .next u ∧ Completes s u cx jmpInfo t [] 0 cx.w) ∧
       (Issues s cx callInfo → ∃ u, exec (.call f) s = .next u ∧
         Completes s u cx callInfo t [] 0 { cx.w with s := cx.w.s.set f.sa.toNat (cx.f.pc + 8) })) ∧
     -- a target that is not aligned raises ALIGN
     (holds = true → target → t.toNat % 8 ≠ 0 →
       (Issues s cx jmpInfo → exec (.jmp f) s = .next (s.fault cx { cause := Cause.align, va := t.toNat })) ∧
       (Issues s cx callInfo → exec (.call f) s = .next (s.fault cx { cause := Cause.align, va := t.toNat }))) ∧
     -- a target that is not the same in every lane of EXEC raises NONUNIFORM: VA is the lowest lane's, LANEMASK the lanes
     -- that differ and are no helper lanes (R208)
     (∀ lo, holds = true → f.fn = 2 → lo < 32 → cx.f.exec.getLsbD lo = true → (∀ l, l < lo → cx.f.exec.getLsbD l = false) →
       let others : W32 := maskOf fun l => cx.f.exec.getLsbD l && lane l != lane lo
       others ≠ 0 →
       (Issues s cx jmpInfo →
         exec (.jmp f) s = .next (s.fault cx { cause := Cause.nonUniform, va := lane lo, lanes := others &&& ~~~cx.w.helper })) ∧
       (Issues s cx callInfo →
         exec (.call f) s = .next (s.fault cx { cause := Cause.nonUniform, va := lane lo, lanes := others &&& ~~~cx.w.helper }))) ∧
     -- not taken, or FN 2 with EXEC = 0
     (holds = false ∨ f.fn = 2 ∧ cx.f.exec = 0 →
       (Issues s cx jmpInfo → Done (.jmp f) s cx jmpInfo [] cx.w) ∧
       (Issues s cx callInfo → Done (.call f) s cx callInfo [] cx.w))) ∧
  (∀ (s : State) (cx : Wcx) (f : FC), s.MemOk →
     let info : WInfo := { reads := sReg f.sa.toNat ::
       (if f.cnd.toNat < 13 ∧ f.cnd ≠ 0 then [sccReg] else if 13 ≤ f.cnd.toNat then [mReg f.mask.toNat] else []) }
     Issues s cx info →
     let t := cx.w.sreg f.sa.toNat
     let holds := cx.cond f.cnd.toNat f.sa.toNat f.mask.toNat
     (holds = false → Done (.ret f) s cx info [] cx.w) ∧
     (holds = true → t.toNat % 8 = 0 → ∃ u, exec (.ret f) s = .next u ∧ Completes s u cx info t [] 0 cx.w) ∧
     (holds = true → t.toNat % 8 ≠ 0 → exec (.ret f) s = .next (s.fault cx { cause := Cause.align, va := t.toNat })))

/-- R24, R25, R343: BRS splits the issuing fragment by its mask register when the partition is divergent, and is a plain
transfer when it is not. The case shown has room on chip for the two children (R28); `e1` and `e2` are the two lowest
free entries.
R26, R365: JOIN does nothing with no parent or away from its RC; otherwise the child's entry is freed and its lanes arrive
at its parent, which goes on behind the JOIN when its last child has arrived. The parent of the case shown is on chip.
R27, R357: EXIT whose condition does not hold goes on; one that leaves lanes takes those of EXEC out of MASK for good and
goes on; the last one of a fragment frees its entry and arrives at its parent with no lanes; the last one of a wave leaves
it no entry; in a handler EXIT is ILLEGAL. -/
def Obligations.DivergenceSplitsAndFuses : Prop :=
  (∀ (s : State) (cx : Wcx) (f : FC2), s.MemOk →
     let info : WInfo := { reads := [mReg f.mask.toNat], barred := true }
     Issues s cx info →
     let m := cx.w.mreg f.mask.toNat
     let k := cx.f.mask &&& (if f.fn = 1 then ~~~m else m)
     let rest := cx.f.mask &&& ~~~k
     let taken := cx.f.pc + 8 * f.tgt.signExtend 64
     let rc := cx.f.pc + 8 * f.rc.signExtend 64
     (k = cx.f.mask → ∃ t, exec (.brs f) s = .next t ∧ Completes s t cx info taken [] 0 cx.w) ∧
     (k = 0 → cx.f.mask ≠ 0 → Done (.brs f) s cx info [] cx.w) ∧
     (k ≠ 0 → rest ≠ 0 → (cx.w.frags.filter fun p => p.2.onChip).length ≤ 13 →
       ∀ e1 e2, e1 < e2 → e2 < 128 → (∀ e, e ≤ e2 → (cx.w.frags.get? e = none ↔ e = e1 ∨ e = e2)) →
       ∃ t w, exec (.brs f) s = .next t ∧ t.mem = s.mem ∧ OnlyWave s t cx 0 ∧ t.wave? cx.b cx.slot = some w ∧
         w.made = cx.w.made + 2 ∧ { w with made := cx.w.made }.bare = cx.w.bare ∧
         w.frags.get? cx.e = some { cx.f with waiting := true, pend := 2, arrive := 0, win := {} } ∧
         w.frags.get? e1 = some { mask := rest, pc := cx.f.pc + 8, rc := rc, narrow := cx.f.narrow, link := some cx.e,
                                  created := cx.w.made, since := s.cycle cx.b } ∧
         w.frags.get? e2 = some { mask := k, pc := taken, rc := rc, narrow := cx.f.narrow, link := some cx.e,
                                  created := cx.w.made + 1, since := s.cycle cx.b } ∧
         ∀ e, e ≠ cx.e → e ≠ e1 → e ≠ e2 → w.frags.get? e = cx.w.frags.get? e)) ∧
  (∀ (s : State) (cx : Wcx) (f : FC), s.MemOk → Issues s cx { barred := true } →
     (cx.f.link = none ∨ cx.f.rc ≠ cx.f.pc → Done (.join f) s cx { barred := true } [] cx.w) ∧
     (∀ p q, cx.f.link = some p → cx.f.rc = cx.f.pc → p ≠ cx.e → cx.w.frags.get? p = some q → q.onChip = true →
       (q.pend = 1 → q.arrive ||| cx.f.mask ≠ 0) →
       ∃ t, exec (.join f) s = .next t ∧ t.mem = s.mem ∧ OnlyWave s t cx 0 ∧
         t.frag? cx.b cx.slot cx.e = none ∧
         t.frag? cx.b cx.slot p = some (arrived q cx.f.mask (cx.f.pc + 8) (s.cycle cx.b)) ∧
         ∀ e, e ≠ cx.e → e ≠ p → t.frag? cx.b cx.slot e = s.frag? cx.b cx.slot e)) ∧
  (∀ (s : State) (cx : Wcx) (f : FC), s.MemOk →
     let info : WInfo := { reads := condReads f, barred := true }
     Issues s cx info →
     let holds := cx.cond f.cnd.toNat f.sa.toNat f.mask.toNat
     let left := cx.f.mask &&& ~~~(cx.f.mask &&& cx.f.narrow)
     (cx.w.inHandler = true → exec (.exit f) s = .next (s.fault cx (raiseOf Cause.illegal))) ∧
     (cx.w.inHandler = false → holds = false → Done (.exit f) s cx info [] cx.w) ∧
     (cx.w.inHandler = false → holds = true → left ≠ 0 → ∃ t, exec (.exit f) s = .next t ∧
       CompletesAs s t cx { cx.f with mask := left } info (cx.f.pc + 8) [] 0 cx.w) ∧
     (∀ p q, cx.w.inHandler = false → holds = true → left = 0 → cx.f.link = some p → p ≠ cx.e →
       cx.w.frags.get? p = some q → q.onChip = true → (q.pend = 1 → q.arrive ≠ 0) →
       ∃ t, exec (.exit f) s = .next t ∧ t.mem = s.mem ∧ OnlyWave s t cx 0 ∧
         t.frag? cx.b cx.slot cx.e = none ∧
         t.frag? cx.b cx.slot p = some (arrived q 0 (cx.f.rc + 8) (s.cycle cx.b)) ∧
         ∀ e, e ≠ cx.e → e ≠ p → t.frag? cx.b cx.slot e = s.frag? cx.b cx.slot e) ∧
     (cx.w.inHandler = false → holds = true → left = 0 → cx.f.link = none → ∃ t, exec (.exit f) s = .next t ∧
       t.frag? cx.b cx.slot cx.e = none ∧
       ∀ p q, p ≠ cx.e → cx.w.frags.get? p = some q →
         t.mem = s.mem ∧ OnlyWave s t cx 0 ∧
         ∀ e, e ≠ cx.e → t.frag? cx.b cx.slot e = s.frag? cx.b cx.slot e))

/-- R338 to R340, R401: BAR and CBAR release and park the fragment at their barrier; SLEEP parks it until a cycle or, with
n = 0, with no end of its own. A BAR or a SLEEP changes nothing else; a CBAR leaves the L1 no masked byte (R148). In a
handler the barriers are ILLEGAL. -/
def Obligations.BarriersAndSleepPark : Prop :=
  (∀ (s : State) (cx : Wcx) (f : FC), Issues s cx { barred := true } → cx.w.inHandler = false →
    (∃ t, exec (.bar f) s = .next t ∧ t.mem = s.mem ∧ OnlyWave s t cx 0 ∧
      t.frag? cx.b cx.slot cx.e = some { cx.f with wait := some .bar } ∧
      ∀ e, e ≠ cx.e → t.frag? cx.b cx.slot e = s.frag? cx.b cx.slot e) ∧
    (∃ t, exec (.cbar f) s = .next t ∧ t.frag? cx.b cx.slot cx.e = some { cx.f with wait := some .cbar } ∧
      (∀ k e, k ≠ cx.slot ∨ e ≠ cx.e → t.frag? cx.b k e = s.frag? cx.b k e) ∧
      (t.bench cx.b).groups = (s.bench cx.b).groups ∧
      (t.bench cx.b).lines = (s.bench cx.b).lines.map fun l => { l with masked := [] })) ∧
  (∀ (s : State) (cx : Wcx) (f : FC), Issues s cx { barred := true } → cx.w.inHandler = true →
    exec (.bar f) s = .next (s.fault cx (raiseOf Cause.illegal)) ∧
    exec (.cbar f) s = .next (s.fault cx (raiseOf Cause.illegal))) ∧
  (∀ (s : State) (cx : Wcx) (f : FC), s.MemOk →
    let info : WInfo := { reads := condReads f, barred := true }
    Issues s cx info →
    (cx.cond f.cnd.toNat f.sa.toNat f.mask.toNat = false → Done (.sleep f) s cx info [] cx.w) ∧
    (cx.cond f.cnd.toNat f.sa.toNat f.mask.toNat = true → ∃ t, exec (.sleep f) s = .next t ∧ t.mem = s.mem ∧
      OnlyWave s t cx 0 ∧
      t.frag? cx.b cx.slot cx.e = some { cx.f with
        wait := some (.sleep (if f.off = 0 then none else some (s.cycle cx.b + f.off.toNat))) } ∧
      ∀ e, e ≠ cx.e → t.frag? cx.b cx.slot e = s.frag? cx.b cx.slot e))

/-- R342, R410, R208: TRAP and BRKPT go on when their condition does not hold and take their fault when it does: TRAP with its
immediate in AUX, BRKPT with AUX 0.
R412, R413: ULIRET whose frame is read frees the handler's entry, restores s60 to s63, SCC and FPFLAGS from the frame, and the
suspended fragments go on; outside a handler entry it is ILLEGAL. -/
def Obligations.TrapsTakenAndInterruptReturns : Prop :=
  (∀ (s : State) (cx : Wcx) (f : FC), s.MemOk →
     let info : WInfo := { reads := condReads f, barred := true }
     Issues s cx info →
     let holds := cx.cond f.cnd.toNat f.sa.toNat f.mask.toNat
     (holds = false → Done (.trap f) s cx info [] cx.w ∧ Done (.brkpt f) s cx info [] cx.w) ∧
     (holds = true →
       exec (.trap f) s = .next (s.fault cx { cause := Cause.trap, aux := f.off.toNat }) ∧
       exec (.brkpt f) s = .next (s.fault cx { cause := Cause.brkpt }))) ∧
  (∀ (s : State) (cx : Wcx) (f : FC), Issues s cx { barred := true } →
     (cx.f.handler = false ∨ cx.f.waiting = true → exec (.uliret f) s = .next (s.fault cx (raiseOf Cause.illegal))) ∧
     (∀ bs m, cx.f.handler = true → cx.f.waiting = false → s.readFrame cx = .ok (bs, m) → m.waits = false →
       let u := m.ended cx m.s
       let word (i : Nat) : Nat := leNat ((bs.drop i).take 8)
       ∃ t w, exec (.uliret f) s = .next t ∧ t.mem = u.mem ∧ t.wave? cx.b cx.slot = some w ∧
         w.sreg 60 = w64 (word 0) ∧ w.sreg 61 = w64 (word 8) ∧ w.sreg 62 = w64 (word 16) ∧ w.sreg 63 = w64 (word 24) ∧
         (∀ n, n < 60 → w.sreg n = cx.w.sreg n) ∧ w.m = cx.w.m ∧
         w.scc = BitVec.ofNat 4 (word 32) ∧ w.fpflags = BitVec.ofNat 5 (word 48) ∧
         w.frags.get? cx.e = none ∧
         ∀ e x, e ≠ cx.e → cx.w.frags.get? e = some x →
           w.frags.get? e = some (if x.susp then { x with susp := false, since := u.cycle cx.b } else x)))

/-! ## Memory -/

/-- R368, R369, R50: LD without a buffer record, in every size, kind and address form: when every lane of EXEC has its
access translated to pieces whose reads give bytes, the destination lanes hold them, extended, and nothing else changes.
R166 to R169, R171: LD through a buffer record: the element that a lane's index and OOB name, none where it counts as zero;
when the reads of the element's accesses give bytes, the lanes hold the components of R168. A record whose number or fields
are refused raises ILLEGAL, and OOB = FAULT PERM. -/
def Obligations.LoadsComplete : Prop :=
  (∀ (s : State) (cx : Wcx) (f : FM) (ps : Nat → List Piece) (bs : Nat → List Byte), s.MemOk →
    let n : Nat := 2 ^ f.sz.toNat
    let strong := f.st != 0
    let info : WInfo :=
      { reads := fmAddr f, writes := vRegs f.vd.toNat (szRegsOf f.sz.toNat), barred := strong }
    Issues s cx info → f.brx = 0xFF → NoRequest s cx →
    (∀ l, cx.f.exec.getLsbD l = true →
      s.lanePieces cx f l strong .read = .ok (ps l, s) ∧ GivesAll s cx f.ch.toNat strong (ps l) (bs l)) →
    (f.st = 2 → (s.bench cx.b).lines = []) →
    Done (.ld f) s cx info
      (laneRes f.vd.toNat cx.f.exec n (lanes.map fun l =>
        if cx.f.exec.getLsbD l then loadExt (f.fn.getLsbD 0) n (leNat (bs l)) else 0)) cx.w) ∧
  (∀ (s : State) (cx : Wcx) (f : FM), s.MemOk →
    let n : Nat := 2 ^ f.sz.toNat
    let info : WInfo :=
      { reads := fmAddr f, writes := vRegs f.vd.toNat (szRegsOf f.sz.toNat), barred := f.st != 0 }
    Issues s cx info → f.brx ≠ 0xFF →
    (cx.record f.brx.toNat = none → exec (.ld f) s = .next (s.fault cx (raiseOf Cause.illegal))) ∧
    (∀ r, cx.record f.brx.toNat = some r →
      -- a size that is not the record's, for every encoding but RAW
      (brEnc r ≠ 0 → n ≠ 4 * brNc r → exec (.ld f) s = .next (s.fault cx (raiseOf Cause.illegal))) ∧
      (∀ (el : Nat → Option Nat) (ps : Nat → Nat × Nat → List Piece) (bs : Nat → Nat × Nat → List Byte),
        (brEnc r = 0 ∨ n = 4 * brNc r) → NoRequest s cx →
        let ix (l : Nat) : Int := (s.readV cx f.va.toNat).getD l 0 + f.off.toInt
        let nx := brNx r
        (∀ l, cx.f.exec.getLsbD l = true →
          -- the element: inside, or as OOB says: zero, the last, or the index modulo NX
          ((0 ≤ ix l ∧ ix l < nx ∧ el l = some (ix l).toNat) ∨
           (¬(0 ≤ ix l ∧ ix l < nx) ∧ brF r 267 266 ≠ 3 ∧
             ((brF r 267 266 = 0 ∨ nx = 0) ∧ el l = none ∨
              brF r 267 266 = 1 ∧ (nx : Int) ≤ ix l ∧ nx ≠ 0 ∧ el l = some (nx - 1) ∨
              brF r 267 266 = 2 ∧ nx ≠ 0 ∧ el l = some (ix l % nx).toNat))) ∧
          ∀ i, el l = some i → ∀ a ∈ brAccs r n i,
            s.vaPieces cx a.1 a.2 false .read = .ok (ps l a, s) ∧ GivesAll s cx f.ch.toNat false (ps l a) (bs l a)) →
        let vals (l : Nat) : List Nat := match el l with
          | some i => brVals r (f.fn.getLsbD 0) n i ((brAccs r n i).map (bs l))
          | none => []
        Done (.ld f) s cx info
          (if brEnc r = 0 then
             laneRes f.vd.toNat cx.f.exec n (lanes.map fun l => if cx.f.exec.getLsbD l then (vals l).getD 0 0 else 0)
           else (List.range (brNc r)).map fun c => ⟨f.vd.toNat + c, cx.f.exec, lanes.map fun l =>
             if cx.f.exec.getLsbD l then (vals l).getD c 0 else 0⟩) cx.w) ∧
      -- OOB = FAULT: the one live lane of the case shown is out of bounds
      (∀ l, (brEnc r = 0 ∨ n = 4 * brNc r) → cx.f.exec = 1#32 <<< l → l < 32 → cx.w.helper = 0 → cx.f.codes = [] →
        let i : Int := (s.readV cx f.va.toNat).getD l 0 + f.off.toInt
        ¬(0 ≤ i ∧ i < brNx r) → brF r 267 266 = 3 →
        ∃ va, exec (.ld f) s = .next ((s.dropRemotes (.frag cx.b cx.slot cx.e)).fault cx
          { cause := Cause.perm, va := va, lanes := 1#32 <<< l, trec := f.brx.toNat,
            access := accessByte 1 n (f.st != 0) }))))

/-- R403, R163: ST without a buffer record: when every lane of EXEC that is no helper lane has its access translated to
pieces that a write reaches, its bytes are written in ascending lane order, every other byte is as before, and the group's
store hash takes the lanes' terms. Beside them a write ends the reservations of its sectors and marks what the device works by
(R247, R124, R277).
R166 to R169: ST through a buffer record writes, for each lane whose index is inside, the codes of its components at the
element's accesses; an index outside writes nothing. A record whose number or fields are refused, and one of encodings 9 up,
raises ILLEGAL. -/
def Obligations.StoresComplete : Prop :=
  (∀ (s : State) (cx : Wcx) (f : FM) (ps : Nat → List Piece), s.MemOk →
    let n : Nat := 2 ^ f.sz.toNat
    let strong := f.st != 0
    let info : WInfo := { reads := fmAddr f ++ vRegs f.vd.toNat (szRegsOf f.sz.toNat), barred := strong }
    Issues s cx info → f.brx = 0xFF → NoRequest s cx →
    let live := lanesOf (cx.f.exec &&& ~~~cx.w.helper)
    let bytes (l : Nat) : List Byte := leBytes n (s.laneData cx f.vd.toNat n l)
    (∀ l ∈ live, s.lanePieces cx f l strong .write = .ok (ps l, s) ∧ ((ps l).map (·.n)).sum = n ∧
      ∀ q ∈ ps l, Takes s cx f.ch.toNat strong q) →
    (f.st = 3 → (s.bench cx.b).lines = []) →
    let terms := laneTerms live fun l => storeTerms cx.g.seed (s.laneVa cx f l) (bytes l)
    let runs := live.flatMap fun l => pieceRuns (ps l) (bytes l)
    ∃ t, exec (.st f) s = .next t ∧
      Moves (s.notedRuns runs) t cx cx.f info (cx.f.pc + 8) [] terms cx.w (runsByte runs)) ∧
  (∀ (s : State) (cx : Wcx) (f : FM), s.MemOk →
    let n : Nat := 2 ^ f.sz.toNat
    let info : WInfo := { reads := fmAddr f ++ vRegs f.vd.toNat (szRegsOf f.sz.toNat), barred := f.st != 0 }
    Issues s cx info → f.brx ≠ 0xFF →
    (cx.record f.brx.toNat = none → exec (.st f) s = .next (s.fault cx (raiseOf Cause.illegal))) ∧
    (∀ r, cx.record f.brx.toNat = some r →
      (9 ≤ brEnc r ∨ brEnc r ≠ 0 ∧ n ≠ 4 * brNc r → exec (.st f) s = .next (s.fault cx (raiseOf Cause.illegal))) ∧
      (∀ (ps : Nat → Nat × Nat → List Piece), brEnc r < 9 → (brEnc r = 0 ∨ n = 4 * brNc r) → NoRequest s cx →
        let live := lanesOf (cx.f.exec &&& ~~~cx.w.helper)
        let ix (l : Nat) : Int := (s.readV cx f.va.toNat).getD l 0 + f.off.toInt
        let inside (l : Nat) : Bool := decide (0 ≤ ix l ∧ ix l < brNx r)
        -- a lane's bytes for each of its accesses: SZ bytes of RAW, and the codes of the components otherwise
        let size := encSize (brEnc r)
        let codes (l : Nat) : List (List Byte) := (List.range (brNc r)).map fun c =>
          leBytes size (encStore (brEnc r) (w32 ((s.readV cx (f.vd.toNat + c)).getD l 0)))
        let data (l : Nat) : List (List Byte) :=
          if brEnc r = 0 then [leBytes n (s.laneData cx f.vd.toNat n l)]
          else if r.getLsbD 262 then codes l else [(codes l).flatten]
        let accs (l : Nat) : List ((Nat × Nat) × List Byte) :=
          if inside l then (brAccs r n (ix l).toNat).zip (data l) else []
        (∀ l ∈ live, (inside l = false → brF r 267 266 ≠ 3) ∧
          ∀ a ∈ accs l, s.vaPieces cx a.1.1 a.1.2 false .write = .ok (ps l a.1, s) ∧
            ((ps l a.1).map (·.n)).sum = a.1.2 ∧ ∀ q ∈ ps l a.1, Takes s cx f.ch.toNat false q) →
        let terms := laneTerms live fun l =>
          (accs l).foldl (fun x a => x + storeTerms cx.g.seed (a.1.1 % 2 ^ 64) a.2) 0
        let runs := live.flatMap fun l => (accs l).flatMap fun a => pieceRuns (ps l a.1) a.2
        ∃ t, exec (.st f) s = .next t ∧
          Moves (s.notedRuns runs) t cx cx.f info (cx.f.pc + 8) [] terms cx.w (runsByte runs))))

/-- R50, R313, R134: an offset of a translation register that is valid and whose LIMIT covers the access names PBASE + offset,
with no walk; one that its permissions refuse raises PERM, one that must be aligned and is not raises ALIGN, and one that
touches the wave's own region at HWM or above raises PRIVGROW.
R397, R50, R133: SXLAT fills its translation register: VBASE is the address always, and V is 0 with every other field 0
when the address has no walk; nothing else of the group changes, and the fragment goes on.
R397, R50, R125 to R128, R107, R134: where a walk reaches a leaf that maps the address to a defined PA, SXLAT sets the leaf's
A, and D when it permits a write, and fills every field from the leaf: PBASE, V, RD, WR, ORD, PZ and LIMIT. -/
def Obligations.TranslationRegistersFillAndTranslate : Prop :=
  (∀ (s : State) (cx : Wcx) (tb off n : Nat) (strong : Bool) (acc : Acc), acc = .read ∨ acc = .write →
     let t := cx.g.trans.get tb 0
     let vbase := (t.extractLsb' 0 64).toNat
     let pbase := (t.extractLsb' 64 56).toNat
     let limit := (t.extractLsb' 128 32).toNat
     let ord := (t.extractLsb' 123 2).toNat
     let va := (vbase + off) % 2 ^ 64
     let may := if acc = .read then t.getLsbD 121 else t.getLsbD 122
     0 < n → n ≤ 16 → t.getLsbD 120 = true → off + n ≤ limit →
     (∀ top, privGrow (s.desc cx.g.ctx) cx.b cx.slot va n = some top →
       s.trPieces cx tb off n strong acc = .error { cause := Cause.privGrow, va := va, aux := top }) ∧
     (privGrow (s.desc cx.g.ctx) cx.b cx.slot va n = none →
     ((strong = true ∨ ord = 1) → va % n ≠ 0 → s.trPieces cx tb off n strong acc = .error { cause := Cause.align, va := va }) ∧
     (((strong = true ∨ ord = 1) → va % n = 0) → may = false →
       s.trPieces cx tb off n strong acc = .error { cause := Cause.perm, va := va }) ∧
     (va % n = 0 → may = true → n ∈ [1, 2, 4, 8, 16] →
       s.trPieces cx tb off n strong acc =
         .ok ([{ va := va, pa := pbase + off, n := n, ord := ord, nc := cx.g.transNc.contains tb }], s)))) ∧
  (∀ (s : State) (cx : Wcx) (f : FS), s.MemOk →
     let info : WInfo := { reads := sReads f, writes := [bReg f.sd.toNat] }
     Issues s cx info →
     let va := cx.w.sreg f.sa.toNat + cx.sB f
     ∃ t g, exec (.sxlat f) s = .next t ∧ t.group? cx.b cx.w.group = some g ∧
       (g.trans.get f.sd.toNat 0).extractLsb' 0 64 = va ∧
       (∀ n, n ≠ f.sd.toNat → g.trans.get n 0 = cx.g.trans.get n 0) ∧
       { g with trans := cx.g.trans, transNc := cx.g.transNc, transPages := cx.g.transPages } = cx.g.hashed (dueTerms cx.f info 0) ∧
       t.frag? cx.b cx.slot cx.e = some (cx.f.at (cx.f.pc + 8) (s.cycle cx.b) (nextWindow cx.f info [] 0)) ∧
       ((∀ k, (canonical va.toNat = false ∨ s.walk (dieOf cx.b) (va.toNat % 2 ^ 57) 5 (s.desc cx.g.ctx).root = .error k) →
         g.trans.get f.sd.toNat 0 = va.setWidth 192 ∧ t.mem = s.mem))) ∧
  (∀ (s u : State) (cx : Wcx) (f : FS) (pte pa lv n : Nat), s.MemOk →
     let info : WInfo := { reads := sReads f, writes := [bReg f.sd.toNat] }
     Issues s cx info →
     let va := (cx.w.sreg f.sa.toNat + cx.sB f).toNat
     let d := s.desc cx.g.ctx
     canonical va = true → s.walk (dieOf cx.b) (va % 2 ^ 57) 5 d.root = .ok (pte, pa, lv) →
     leafPages lv (bitOf pte 63) (ptePpn pte) = some n →
     -- the page's bytes, and the physical address of va in it
     let span := 4096 * n
     let at_ := va % 2 ^ 57 % span
     let target := ptePpn pte / n * n * 4096 + at_
     s.place target ≠ .nowhere →
     let mayRead := bitOf pte 4 && bitOf pte 1
     let mayWrite := bitOf pte 4 && bitOf pte 2
     -- R127: A, and D, are set with an atomic OR, unless they stand already
     let marked := pte ||| 64 ||| (if mayWrite then 128 else 0)
     (if marked = pte then u = s else s.setAD pa marked = .ok u) →
     -- R133, R134: the wave's own region
     let size := 2 ^ d.pvsl
     let base := d.pvbase + (32 * cx.b + cx.slot) * size
     let hwm := 4096 * d.hwmp
     let inRegion := decide (base ≤ va ∧ va < base + size)
     let past := inRegion && decide (base + hwm ≤ va)
     let left := min (span - at_) 0xFFFFFFFF
     ∃ t g, exec (.sxlat f) s = .next t ∧ t.mem = u.mem ∧ t.group? cx.b cx.w.group = some g ∧
       (let b := g.trans.get f.sd.toNat 0
        b.extractLsb' 0 64 = BitVec.ofNat 64 va ∧ b.extractLsb' 64 56 = BitVec.ofNat 56 target ∧
        b.getLsbD 120 = !past ∧ b.getLsbD 121 = mayRead ∧ b.getLsbD 122 = mayWrite ∧
        b.extractLsb' 123 2 = BitVec.ofNat 2
          (if deviceBase ≤ target % 2 ^ 44 ∨ bitsOf pte 62 61 = 2 then 1 else if s.pageAttr then bitsOf pte 57 56 else 0) ∧
        b.getLsbD 125 = (s.pageAttr && bitOf pte 59) ∧ b.extractLsb' 126 2 = 0 ∧
        b.extractLsb' 128 32 = BitVec.ofNat 32 (if inRegion && !past then min left (base + hwm - va) else left) ∧
        b.extractLsb' 160 32 = 0) ∧
       (∀ k, k ≠ f.sd.toNat → g.trans.get k 0 = cx.g.trans.get k 0) ∧
       g.transNc.contains f.sd.toNat = decide (bitsOf pte 62 61 = 1) ∧
       { g with trans := cx.g.trans, transNc := cx.g.transNc, transPages := cx.g.transPages } = cx.g.hashed (dueTerms cx.f info 0) ∧
       t.frag? cx.b cx.slot cx.e = some (cx.f.at (cx.f.pc + 8) (s.cycle cx.b) (nextWindow cx.f info [] 0)) ∧
       (∀ e, e ≠ cx.e → t.frag? cx.b cx.slot e = s.frag? cx.b cx.slot e) ∧
       ∀ b k, b ≠ cx.b ∨ k ≠ cx.slot → t.wave? b k = s.wave? b k)

/-- R370, R371, R56: LDS from group scratch, the wave's registers and a shared granule: every lane of EXEC whose aligned
address lies in its space gets the bytes there, and nothing else changes.
R404, R56, R163: STS to the three spaces: the lanes of EXEC that are no helper lanes write their bytes in ascending order,
every other byte is as before, and only group and bench space give store-hash terms.
R371, R404, R56: LDS and STS whose lanes fail raise, with no effect, the cause of the lowest failing lane: ALIGN for an
address that is not a multiple of the size, PERM for one outside its space: past the group's scratch, in a register the wave
does not have, or in a granule that is not the partition's. Shown for one lane. -/
def Obligations.ScratchAccessesComplete : Prop :=
  (∀ (s : State) (cx : Wcx) (f : FM) (x : Nat → Nat), s.MemOk →
     let n : Nat := 2 ^ f.sz.toNat
     let a (l : Nat) : Nat := wrap 32 ((s.readV cx f.va.toNat).getD l 0 + f.off.toInt * n)
     let info : WInfo := { reads := [f.va.toNat], writes := vRegs f.vd.toNat (szRegsOf f.sz.toNat), barred := f.st != 0,
                           rows := if f.fn.toNat / 2 = 1 then (lanesOf cx.f.exec).map fun l => a l / 128 else [] }
     Issues s cx info → (f.st = 2 → (s.bench cx.b).lines = []) →
     (∀ l, cx.f.exec.getLsbD l = true → a l % n = 0 ∧
       ((f.fn.toNat / 2 = 0 ∧ a l + n ≤ cx.g.scratch ∧ x l = cx.g.granules.getD (a l / 1024) 0 * 1024 + a l % 1024) ∨
        (f.fn.toNat / 2 = 1 ∧ a l / 128 < cx.w.regs ∧ x l = cx.w.rowAddr (a l / 128) + a l % 128) ∨
        (2 ≤ f.fn.toNat / 2 ∧ a l < 0x400000 ∧ (s.bench cx.b).kind (a l / 1024) = 3 ∧
          (s.bench cx.b).gpart (a l / 1024) = cx.g.part ∧ x l = a l))) →
     Done (.lds f) s cx info
       (laneRes f.vd.toNat cx.f.exec n (lanes.map fun l => if cx.f.exec.getLsbD l then
         loadExt (f.fn.getLsbD 0) n (leNat (Mem.read s.mem (storePa cx.b (x l)) n)) else 0)) cx.w) ∧
  (∀ (s : State) (cx : Wcx) (f : FM) (x : Nat → Nat), s.MemOk →
     let n : Nat := 2 ^ f.sz.toNat
     let reg := decide (f.fn.toNat / 2 = 1)
     let info : WInfo :=
       { reads := f.va.toNat :: vRegs f.vd.toNat (szRegsOf f.sz.toNat), barred := f.st != 0 || reg }
     Issues s cx info → (f.st = 3 → (s.bench cx.b).lines = []) →
     let live := lanesOf (cx.f.exec &&& ~~~cx.w.helper)
     let a (l : Nat) : Nat := wrap 32 ((s.readV cx f.va.toNat).getD l 0 + f.off.toInt * n)
     let bytes (l : Nat) : List Byte := leBytes n (s.laneData cx f.vd.toNat n l)
     (∀ l ∈ live, a l % n = 0 ∧
       ((f.fn.toNat / 2 = 0 ∧ a l + n ≤ cx.g.scratch ∧ x l = cx.g.granules.getD (a l / 1024) 0 * 1024 + a l % 1024) ∨
        (f.fn.toNat / 2 = 1 ∧ a l / 128 < cx.w.regs ∧ x l = cx.w.rowAddr (a l / 128) + a l % 128) ∨
        (2 ≤ f.fn.toNat / 2 ∧ a l < 0x400000 ∧ (s.bench cx.b).kind (a l / 1024) = 3 ∧
          (s.bench cx.b).gpart (a l / 1024) = cx.g.part ∧ x l = a l))) →
     let terms := if reg then 0 else laneTerms live fun l => storeTerms cx.g.seed (a l) (bytes l)
     ∃ t, exec (.sts f) s = .next t ∧
       Moves s t cx cx.f info (cx.f.pc + 8) [] terms cx.w (laneBytes live (fun l => storePa cx.b (x l)) bytes)) ∧
  (∀ (s : State) (cx : Wcx) (f : FM) (l : Nat),
     let n : Nat := 2 ^ f.sz.toNat
     let a := wrap 32 ((s.readV cx f.va.toNat).getD l 0 + f.off.toInt * n)
     let reg := decide (f.fn.toNat / 2 = 1)
     cx.f.exec = 1#32 <<< l → l < 32 → cx.w.helper = 0 →
     let bad (cause acc : Nat) : Raise :=
       { cause := cause, va := a, lanes := 1#32 <<< l, trec := 0xFF, access := accessByte acc n (f.st != 0) }
     let ldInfo : WInfo := { reads := [f.va.toNat], writes := vRegs f.vd.toNat (szRegsOf f.sz.toNat), barred := f.st != 0 }
     let stInfo : WInfo := { reads := f.va.toNat :: vRegs f.vd.toNat (szRegsOf f.sz.toNat), barred := f.st != 0 || reg }
     let outside : Prop :=
       (f.fn.toNat / 2 = 0 ∧ cx.g.scratch < a + n) ∨ (f.fn.toNat / 2 = 1 ∧ cx.w.regs ≤ a / 128) ∨
       (2 ≤ f.fn.toNat / 2 ∧ (0x400000 ≤ a ∨ (s.bench cx.b).kind (a / 1024) ≠ 3 ∨
         (s.bench cx.b).gpart (a / 1024) ≠ cx.g.part))
     (a % n ≠ 0 →
       (Issues s cx ldInfo → exec (.lds f) s = .next (s.fault cx (bad Cause.align 1))) ∧
       (Issues s cx stInfo → exec (.sts f) s = .next (s.fault cx (bad Cause.align 2)))) ∧
     (a % n = 0 → outside →
       (Issues s cx ldInfo → exec (.lds f) s = .next (s.fault cx (bad Cause.perm 1))) ∧
       (Issues s cx stInfo → exec (.sts f) s = .next (s.fault cx (bad Cause.perm 2)))))

/-- R372, R373, R172: LDT of a 16-row tile that lies in the group's scratch: register j of lane l holds the elements
4 ÷ n × (32 j + l) up of the tile in column order; with n = 1 only lanes 0 to 15 are written.
R389, R170, R171: PREF always goes on, whatever its lanes' addresses, and changes no register of the wave; SAMPLE gives
the default NaN to a lane whose coordinate is not finite, and otherwise the weighted sum of its texels' components. -/
def Obligations.TransposePrefetchAndSampleComplete : Prop :=
  (∀ (s : State) (cx : Wcx) (f : FM), s.MemOk →
     let n : Nat := 2 ^ f.sz.toNat
     let regs := if n = 4 then 2 else 1
     let info : WInfo := { reads := [sReg f.tb.toNat], writes := vRegs f.vd.toNat regs }
     Issues s cx info → n ∈ [1, 2, 4] →
     let a := (cx.w.sreg f.tb.toNat).toNat % 2 ^ 32
     let pitch := (cx.w.sreg f.tb.toNat).toNat / 2 ^ 32
     a % (4 * n) = 0 → pitch % (4 * n) = 0 → a + 15 * pitch + 4 * n ≤ cx.g.scratch →
     let el (t : Nat) : Nat := leNat ((List.range n).map fun i =>
       Mem.get s.mem (storePa cx.b (cx.g.scratchAddr (a + t % 16 * pitch + t / 16 * n + i))))
     Done (.ldt f) s cx info
       ((List.range regs).map fun j => ⟨f.vd.toNat + j, if n = 1 then cx.f.exec &&& 0xFFFF else cx.f.exec,
         lanes.map fun l => (List.range (4 / n)).foldl (fun x e => x + el (4 / n * (32 * j + l) + e) * 2 ^ (8 * n * e)) 0⟩)
       cx.w) ∧
  ((∀ (s : State) (cx : Wcx) (f : FM), Issues s cx { reads := fmAddr f } →
     ∃ t w, exec (.pref f) s = .next t ∧ t.wave? cx.b cx.slot = some w ∧ w.bare = cx.w.bare ∧
       t.frag? cx.b cx.slot cx.e = some (cx.f.at (cx.f.pc + 8) (t.cycle cx.b) (nextWindow cx.f { reads := fmAddr f } [] 0)) ∧
       (∀ e, e ≠ cx.e → t.frag? cx.b cx.slot e = s.frag? cx.b cx.slot e) ∧
       (cx.f.exec &&& ~~~cx.w.helper = 0 → t.mem = s.mem)) ∧
   (∀ (s : State) (cx : Wcx) (f : FM) (r : BitVec 320) (taps : Nat → List (Nat × List (Nat × Nat)))
       (p : Nat → Nat × Nat → Piece) (bs : Nat → Nat × Nat → List Byte), s.MemOk →
     Issues s cx { reads := vRegs f.va.toNat 2 } → NoRequest s cx →
     cx.record f.brx.toNat = some r → 1 ≤ brEnc r → brEnc r ≤ 8 → f.vd.toNat % brNc r = 0 → f.vd.toNat + brNc r ≤ cx.w.regs →
     (cx.f.win.left ≠ 0 → ∀ n ∈ vRegs f.vd.toNat (brNc r), n ∉ cx.f.win.reads) →
     let x (l : Nat) : FVal := f32Val (w32 ((s.readV cx f.va.toNat).getD l 0))
     let y (l : Nat) : FVal := f32Val (w32 ((s.readV cx (f.va.toNat + 1)).getD l 0))
     (∀ l, cx.f.exec.getLsbD l = true → ((x l).isFin && (y l).isFin) = true →
       tapAccs r (sampleTaps r (x l) (y l)) = .ok (taps l) ∧
       ∀ a ∈ (taps l).flatMap (·.2), s.vaPieces cx a.1 a.2 false .read = .ok ([p l a], s) ∧
         Gives s cx f.ch.toNat false (p l a) (bs l a)) →
     ∃ t, exec (.sample f) s = .next t ∧
       Completes s t cx { reads := vRegs f.va.toNat 2 } (cx.f.pc + 8)
         ((List.range (brNc r)).map fun c => ⟨f.vd.toNat + c, cx.f.exec, lanes.map fun l =>
           if cx.f.exec.getLsbD l then
             if (x l).isFin && (y l).isFin then
               (sampleVals r (taps l) (((taps l).flatMap (·.2)).map (bs l))).getD c 0
             else 0x7FC00000
           else 0⟩) 0 cx.w))

/-- R396, R142: SLD loads its scalar, zero-extended, and SST stores the low bytes of its scalar, with no store-hash term;
each acts once whatever EXEC holds; an address that is not a multiple of the size raises ALIGN with LANEMASK 0. -/
def Obligations.ScalarAccessesComplete : Prop :=
  ∀ (s : State) (cx : Wcx) (f : FS) (p : Piece) (bs : List Byte), s.MemOk →
    let n : Nat := 2 ^ (f.fn.toNat % 4)
    let kind := f.fn.toNat / 4
    let va := (cx.w.sreg f.sa.toNat + f.imm.signExtend 64).toNat
    let ldInfo : WInfo := { reads := [sReg f.sa.toNat], writes := [sReg f.sd.toNat], barred := kind != 0 }
    let stInfo : WInfo := { reads := [sReg f.sa.toNat, sReg f.sd.toNat], barred := kind != 0 }
    NoRequest s cx →
    (Issues s cx ldInfo → va % n = 0 → s.vaPieces cx va n (kind != 0) .read = .ok ([p], s) →
      Gives s cx 0 (kind != 0) p bs → (kind = 2 → (s.bench cx.b).lines = []) →
      Done (.sld f) s cx ldInfo [] { cx.w with s := cx.w.s.set f.sd.toNat (w64 (leNat bs)) }) ∧
    (Issues s cx stInfo → va % n = 0 → s.vaPieces cx va n (kind != 0) .write = .ok ([p], s) → p.n = n →
      Takes s cx 0 (kind != 0) p → (kind = 3 → (s.bench cx.b).lines = []) →
      ∃ t, exec (.sst f) s = .next t ∧ Moves (s.noteWrite (p.pa % 2 ^ 44) n) t cx cx.f stInfo (cx.f.pc + 8) [] 0 cx.w
        (runByte (p.pa % 2 ^ 44) (leBytes n (cx.w.sreg f.sd.toNat).toNat))) ∧
    (Issues s cx ldInfo → va % n ≠ 0 →
      exec (.sld f) s = .next (s.fault cx { cause := Cause.align, va := va, access := accessByte 1 n (kind != 0) })) ∧
    (Issues s cx stInfo → va % n ≠ 0 →
      exec (.sst f) s = .next (s.fault cx { cause := Cause.align, va := va, access := accessByte 2 n (kind != 0) }))

/-! ## Atomics, semaphores, fences and timelines -/

/-- R333 to R336, R157: ATOM and ATOMS on local memory. Each lane that is no helper lane makes one indivisible read and
write of its target, ATOMS in lane order and ATOM in its request order (R335); VD holds each lane's old value, and a lane
that wrote gives its store-hash term (R163). The case shown has no recording and no replay of the context (R161, R162). With a
lane on an SO page the lanes go in ascending order (R141), and an ATOM with a lane that is not on a UO page waits for the
accesses of its siblings (R147). -/
def Obligations.AtomicsComplete : Prop :=
  (∀ (s : State) (cx : Wcx) (f : FA) (x : Nat → Nat), s.MemOk →
    let info : WInfo :=
      { reads := f.va.toNat :: f.vb.toNat :: (if f.fn = 1 then [f.vc.toNat] else []), writes := [f.vd.toNat], barred := true }
    Issues s cx info → f.sz = 0 → (f.st ≠ 0 → (s.bench cx.b).lines = []) →
    let live := lanesOf (cx.f.exec &&& ~~~cx.w.helper)
    let a (l : Nat) : Nat := (s.readV cx f.va.toNat).getD l 0
    let opB (l : Nat) : Nat := s.laneData cx f.vb.toNat 4 l
    let opC (l : Nat) : Nat := if f.fn = 1 then s.laneData cx f.vc.toNat 4 l else 0
    (∀ l ∈ live, a l % 4 = 0 ∧
      ((f.tb ≠ 1 ∧ a l + 4 ≤ cx.g.scratch ∧ x l = cx.g.granules.getD (a l / 1024) 0 * 1024 + a l % 1024) ∨
       (f.tb = 1 ∧ a l < 0x400000 ∧ (s.bench cx.b).kind (a l / 1024) = 3 ∧
         (s.bench cx.b).gpart (a l / 1024) = cx.g.part ∧ x l = a l))) →
    let out := live.foldl (fun (q : List Host.Cell × Tbl Nat) l =>
      let old := leNat (Mem.read q.1 (storePa cx.b (x l)) 4)
      (match atomNew f.fn.toNat 4 old (opB l) (opC l) with
        | some v => Mem.write q.1 (storePa cx.b (x l)) (leBytes 4 v)
        | none => q.1, q.2.set l old)) (s.mem, [])
    let vs := laneRes f.vd.toNat (cx.f.exec &&& ~~~cx.w.helper) 4 (lanes.map fun l => out.2.get l 0)
    ∃ t, exec (.atoms f) s = .next t ∧
      Moves s t cx cx.f info (cx.f.pc + 8) vs
        (laneTerms live fun l => match atomNew f.fn.toNat 4 (out.2.get l 0) (opB l) (opC l) with
          | some v => storeTerms cx.g.seed (a l) (leBytes 4 v)
          | none => 0) cx.w (fun b => (resByte cx vs b).or (some (Mem.get out.1 b)))) ∧
  (∀ (s : State) (cx : Wcx) (f : FA) (p : Nat → Piece), s.MemOk →
    let n : Nat := 4 * 2 ^ f.sz.toNat
    let regs (r : Nat) : List Nat := vRegs r (n / 4)
    let info : WInfo :=
      { reads := (if f.am = 1 then vRegs f.va.toNat 2 else [f.va.toNat, bReg f.tb.toNat]) ++ regs f.vb.toNat
          ++ (if f.fn = 1 then regs f.vc.toNat else []), writes := regs f.vd.toNat, barred := true }
    Issues s cx info → NoRequest s cx → (s.bench cx.b).lines = [] →
    (∀ d, (s.die d).arb.mode = 0) →
    let live := lanesOf (cx.f.exec &&& ~~~cx.w.helper)
    let opB (l : Nat) : Nat := s.laneData cx f.vb.toNat n l
    let opC (l : Nat) : Nat := if f.fn = 1 then s.laneData cx f.vc.toNat n l else 0
    (∀ l ∈ live, LocalPiece s cx (p l) ∧ (p l).n = n ∧ (p l).pa % n = 0 ∧
      (if f.am = 1 then s.vaPieces cx ((s.readPair cx f.va.toNat).getD l 0) n true .atomic
       else s.trPieces cx f.tb.toNat ((s.readV cx f.va.toNat).getD l 0) n true .atomic) = .ok ([p l], s)) →
    let sync := live.any fun l => (p l).ord != 2
    let others := cx.w.frags.any fun q => q.1 != cx.e && q.2.outFor false
    (sync && others → ∃ t, exec (.atom f) s = .next t ∧ Parks s t cx .order ∧ t.mem = s.mem) ∧
    ((sync && others) = false →
    let order := if live.any fun l => (p l).ord == 1 then live.map fun l => (l, p l) else requestOrder (live.map fun l => (l, p l))
    let out := order.foldl (fun (q : List Host.Cell × Tbl Nat) r =>
      let old := leNat (Mem.read q.1 (r.2.pa % 2 ^ 44) n)
      (match atomNew f.fn.toNat n old (opB r.1) (opC r.1) with
        | some v => Mem.write q.1 (r.2.pa % 2 ^ 44) (leBytes n v)
        | none => q.1, q.2.set r.1 old)) (s.mem, [])
    let vs := laneRes f.vd.toNat (cx.f.exec &&& ~~~cx.w.helper) n (lanes.map fun l => out.2.get l 0)
    let wrote := order.filter fun r =>
      (atomNew f.fn.toNat n (out.2.get r.1 0) (opB r.1) (opC r.1)).isSome
    ∃ t, exec (.atom f) s = .next t ∧
      Moves (wrote.foldl (fun s r => s.noteWrite (r.2.pa % 2 ^ 44) n) s) t cx cx.f info (cx.f.pc + 8) vs
        (laneTerms live fun l => match atomNew f.fn.toNat n (out.2.get l 0) (opB l) (opC l) with
          | some v => storeTerms cx.g.seed (s.atomVa cx f l) (leBytes n v)
          | none => 0) cx.w (fun b => (resByte cx vs b).or (some (Mem.get out.1 b)))))

/-- R151, R399, R400: SEMP takes one unit when there is one and nobody waits, and otherwise parks at the end of the
counter's arrival order; SEMV adds 1 or its scalar, which may not be 0 and may not carry the counter past 2³² − 1; SEMRD
reads the counter. With no live lane SEMP and SEMV do nothing. -/
def Obligations.SemaphoresComplete : Prop :=
  ∀ (s : State) (cx : Wcx) (f : FS), s.MemOk →
    let k := (s.bench cx.b).physical cx.g.ctx (f.imm.toNat % 256)
    let v := (s.bench cx.b).sem k
    let live := cx.f.exec &&& ~~~cx.w.helper
    let semv : WInfo := { reads := if f.fn = 1 then [sReg f.sa.toNat] else [], barred := true }
    let n := if f.fn = 1 then (cx.w.sreg f.sa.toNat).toNat % 2 ^ 32 else 1
    (Issues s cx { barred := true } →
      (live = 0 → Done (.semp f) s cx { barred := true } [] cx.w) ∧
      (live ≠ 0 → v ≠ 0 → (∀ w, (k, w) ∉ (s.bench cx.b).semWaits) → (∀ j, (j, .frag cx.slot cx.e) ∉ (s.bench cx.b).semWaits) →
        ∃ t, exec (.semp f) s = .next t ∧ GoesOn s t cx { barred := true } cx.w ∧ t.mem = s.mem ∧
          (t.bench cx.b).sem k = v - 1 ∧ (∀ j, j ≠ k → (t.bench cx.b).sem j = (s.bench cx.b).sem j) ∧
          (t.bench cx.b).semWaits = (s.bench cx.b).semWaits) ∧
      (live ≠ 0 → (v = 0 ∨ ∃ w, (k, w) ∈ (s.bench cx.b).semWaits) →
        (∀ j, (j, .frag cx.slot cx.e) ∉ (s.bench cx.b).semWaits) →
        ∃ t, exec (.semp f) s = .next t ∧ Parks s t cx (.sem k) ∧ t.mem = s.mem ∧
          (t.bench cx.b).sems = (s.bench cx.b).sems ∧
          (t.bench cx.b).semWaits = (s.bench cx.b).semWaits ++ [(k, .frag cx.slot cx.e)])) ∧
    (Issues s cx semv →
      (live = 0 → Done (.semv f) s cx semv [] cx.w) ∧
      (live ≠ 0 → n = 0 → exec (.semv f) s = .next (s.fault cx (raiseOf Cause.illegal))) ∧
      (live ≠ 0 → n ≠ 0 → v + n < 2 ^ 32 →
        ∃ t, exec (.semv f) s = .next t ∧ GoesOn s t cx semv cx.w ∧ (t.bench cx.b).sem k = v + n ∧
          ∀ j, j ≠ k → (t.bench cx.b).sem j = (s.bench cx.b).sem j) ∧
      (live ≠ 0 → n ≠ 0 → 2 ^ 32 ≤ v + n →
        exec (.semv f) s = .next ((s.release cx.b 2).fault cx (raiseOf Cause.semOvf)))) ∧
    (Issues s cx { writes := [sReg f.sd.toNat], barred := true } →
      Done (.semrd f) s cx { writes := [sReg f.sd.toNat], barred := true } [] (cx.w.withS f.sd.toNat (w64 v)))

/-- R148, R149, R362, R411: FENCE releases, acquires or both at its scope: from BENCH up a release leaves the L1 no masked
byte and an acquire no filled sector but those of read-only lines below DEVICE scope; TRIG marks its wave.
R191, R408, R409: TLRD reads a timeline of the wave's context and TLWAIT goes on, with the timeline in its scalar, when
it has reached the value of its operand modulo 2³², and parks when it has not. A selector that names no timeline raises
ILLEGAL, one of another context PERM. -/
def Obligations.FenceTriggerAndTimelinesComplete : Prop :=
  ((∀ (s : State) (cx : Wcx) (f : FC), Issues s cx {} →
     ∃ t, exec (.fence f) s = .next t ∧ GoesOn s t cx {} cx.w ∧
       (f.fn.toNat ≠ 0 → 2 ≤ f.cnd.toNat → ∀ l ∈ (t.bench cx.b).lines, l.masked = []) ∧
       (f.fn.toNat ≠ 1 → 2 ≤ f.cnd.toNat → ∀ l ∈ (t.bench cx.b).lines, (l.ro = false ∨ 5 ≤ f.cnd.toNat) → l.filled = []) ∧
       (f.fn.toNat = 0 ∨ f.cnd.toNat ≤ 1 → t.mem = s.mem) ∧
       (f.cnd.toNat ≤ 1 → (t.bench cx.b).lines = (s.bench cx.b).lines)) ∧
   (∀ (s : State) (cx : Wcx) (f : FC), Issues s cx {} →
     ∃ t, exec (.trig f) s = .next t ∧ GoesOn s t cx {} { cx.w with trig := true })) ∧
  (∀ (s : State) (cx : Wcx) (f : FS), s.MemOk →
     let sel := (if f.fn = 1 then (cx.w.sreg f.sb.toNat).toNat else f.imm.toNat) % 2 ^ 13
     let tl := Timeline.ofSel sel
     let sbRead := if f.fn = 1 then [sReg f.sb.toNat] else []
     let rd : WInfo := { reads := sbRead, writes := [sReg f.sd.toNat], barred := true }
     let wt : WInfo := { reads := sReg f.sa.toNat :: sbRead, writes := [sReg f.sd.toNat], barred := true }
     let v := (cx.w.sreg f.sa.toNat).toNat % 2 ^ 32
     let met := (s.tl tl % 2 ^ 32 + 2 ^ 32 - v) % 2 ^ 32 < 2 ^ 31
     let w := cx.w.withS f.sd.toNat (w64 (s.tl tl))
     (tl = .nothing ∨ tl = .reserved →
       (Issues s cx rd → exec (.tlrd f) s = .next (s.fault cx (raiseOf Cause.illegal))) ∧
       (Issues s cx wt → exec (.tlwait f) s = .next (s.fault cx (raiseOf Cause.illegal)))) ∧
     (tl ≠ .nothing → tl ≠ .reserved → s.ofCtx cx.g.ctx sel = false →
       (Issues s cx rd → exec (.tlrd f) s = .next (s.fault cx (raiseOf Cause.perm))) ∧
       (Issues s cx wt → exec (.tlwait f) s = .next (s.fault cx (raiseOf Cause.perm)))) ∧
     (tl ≠ .nothing → tl ≠ .reserved → s.ofCtx cx.g.ctx sel = true →
       (Issues s cx rd → Done (.tlrd f) s cx rd [] w) ∧
       (Issues s cx wt → met → ∃ t, exec (.tlwait f) s = .next t ∧ GoesOn s t cx wt w ∧ t.mem = s.mem) ∧
       (Issues s cx wt → ¬met → ∃ t, exec (.tlwait f) s = .next t ∧ Parks s t cx (.timeline sel v f.sd.toNat) ∧
         t.mem = s.mem)))

/-- R181, R345, R351 to R354: CPYA puts one lane copy for each live lane in flight when the bench has room for them, and
waits for room when it has not; CBATCH
opens the wave's next batch; CWAIT goes on when every copy of its batches is complete and parks when one is not. -/
def Obligations.LaneCopiesComplete : Prop :=
  (∀ (s : State) (cx : Wcx) (f : FM) (x : Nat → Nat),
    let n : Nat := 2 ^ f.sz.toNat
    let out := f.fn.getLsbD 2
    let info : WInfo := { reads := f.vd.toNat :: fmAddr f, barred := true }
    Issues s cx info →
    let live := lanesOf (cx.f.exec &&& ~~~cx.w.helper)
    let a (l : Nat) : Nat := (s.readV cx f.vd.toNat).getD l 0
    (∀ l ∈ live, a l % n = 0 ∧ s.laneVa cx f l % n = 0 ∧
      ((f.fn.getLsbD 1 = false ∧ a l + n ≤ cx.g.scratch ∧ x l = cx.g.granules.getD (a l / 1024) 0 * 1024 + a l % 1024) ∨
       (f.fn.getLsbD 1 = true ∧ a l < 0x400000 ∧ (s.bench cx.b).kind (a l / 1024) = 3 ∧
         (s.bench cx.b).gpart (a l / 1024) = cx.g.part ∧ x l = a l)) ∧
      s.copyBarred cx f l n (if out then .write else .read) = false) →
    (128 < (s.bench cx.b).inFlight + live.length →
      ∃ t, exec (.cpya f) s = .next t ∧ Parks s t cx (.room live.length) ∧ t.mem = s.mem) ∧
    ((s.bench cx.b).inFlight + live.length ≤ 128 → ∃ t, exec (.cpya f) s = .next t ∧ GoesOn s t cx info cx.w ∧
      (t.bench cx.b).copies = (s.bench cx.b).copies ++ (List.range live.length).map fun i =>
        ({ id := (s.bench cx.b).nextCopy + i, op := (s.bench cx.b).nextCopy, slot := cx.slot, lane := live.getD i 0,
           ctx := cx.g.ctx, part := cx.g.part, batch := cx.w.bn + 1, pc := cx.f.pc, out := out,
           va := w64 (s.laneVa cx f (live.getD i 0)), scr := x (live.getD i 0), size := n } : LaneCopy))) ∧
  (∀ (s : State) (cx : Wcx) (f : FS), s.MemOk → Issues s cx { writes := [sReg f.sd.toNat] } →
    let bn := (cx.w.bn + 1) % 2 ^ 64
    Done (.cbatch f) s cx { writes := [sReg f.sd.toNat] } [] { cx.w.withS f.sd.toNat (w64 bn) with bn := bn }) ∧
  (∀ (s : State) (cx : Wcx) (f : FS),
    let info : WInfo := { reads := if f.ib = 1 then [] else [sReg f.sb.toNat], barred := true }
    let n := (cx.sB f).toNat
    Issues s cx info →
    let past := ∀ c ∈ (s.bench cx.b).copies, c.gone = false → c.slot = cx.slot → c.ctx = cx.g.ctx → n < c.batch
    (cx.w.bn < n → exec (.cwait f) s = .next (s.fault cx (raiseOf Cause.illegal))) ∧
    (n ≤ cx.w.bn → past → ∃ t, exec (.cwait f) s = .next t ∧ GoesOn s t cx info cx.w ∧ t.mem = s.mem) ∧
    (n ≤ cx.w.bn → ¬past → ∃ t, exec (.cwait f) s = .next t ∧ Parks s t cx (.batch n) ∧ t.mem = s.mem))

/-- R433 to R436: VXM with one pointer for every lane of EXEC, whose weights are read: lane j holds C plus the sum of the
32 products of the vector's elements with column j of the matrix. -/
def Obligations.VectorByMatrixCompletes : Prop :=
  ∀ (s : State) (cx : Wcx) (f : VR) (p : Nat) (pc : Nat × Nat → Piece) (bs : Nat × Nat → List Byte), s.MemOk →
    let ks := f.ks.getLsbD 0
    let c := if ks then [sReg f.vc.toNat] else [f.vc.toNat]
    let info : WInfo :=
      { reads := vRegs f.va.toNat 2 ++ f.vb.toNat :: c, writes := [f.vd.toNat], barred := true,
        oc := (if f.oc.getLsbD 2 then vRegs f.va.toNat 2 else []) ++ (if f.oc.getLsbD 1 then [f.vb.toNat] else [])
          ++ (if f.oc.getLsbD 0 && !ks then c else []) }
    Issues s cx info → NoRequest s cx → cx.f.vxm = 0 → cx.f.exec &&& ~~~cx.w.helper ≠ 0 →
    (∀ l, cx.f.exec.getLsbD l = true → (s.readPair cx f.va.toNat).getD l 0 = p) → p ≠ 0 → p % 64 = 0 →
    let runs := vxmRuns f.ty.toNat p
    (∀ r ∈ runs, s.vaPieces cx r.1 r.2 false .read = .ok ([pc r], s) ∧ Gives s cx 0 false (pc r) (bs r)) →
    let x (k : Nat) : Nat := (s.readV cx f.vb.toNat).getD k 0
    let w (j k : Nat) : FVal := vxmElem f.ty.toNat (runs.map bs) j k
    let cl (j : Nat) : Nat := (s.readSrc cx false ks f.vc.toNat).getD j 0
    let lane (j : Nat) : Nat × FFlags :=
      if f.ty = 10 then
        (narrow 0 (f.sat == 1) ((List.range 32).foldl (fun a k => a + sext 32 (x k) *
          (match w j k with | .fin n m _ => if n then -(m : Int) else m | _ => 0)) (sext 32 (cl j))), 0)
      else vxmFloat f.rm.toNat (f.sat == 1) ((List.range 32).map (w j)) ((List.range 32).map fun k => f32Val (w32 (x k)))
        (if f.nc = 1 then (f32Val (w32 (cl j))).neg else f32Val (w32 (cl j)))
    let fl : FFlags := (lanesOf (cx.f.exec &&& ~~~cx.w.helper)).foldl (fun a l => a ||| (lane l).2) 0
    fl &&& cx.w.fptrap.toNat = 0 →
    Done (.vxm f) s cx info [⟨f.vd.toNat, cx.f.exec, lanes.map fun j => if cx.f.exec.getLsbD j then (lane j).1 else 0⟩]
      { cx.w with fpflags := cx.w.fpflags ||| BitVec.ofNat 5 fl }

/-! ## What waves hand to other units -/

/-- R366, R367, R188: LAUNCH of a record that is read: SD holds the grid number that the queue gives it, and the launch
is queued; a refusal leaves 2⁶³ plus its cause in SD and changes nothing else. A queue above 63 raises ILLEGAL, a record
that is not at a multiple of 64 ALIGN.
R34 to R36, R376, R377: MENQ pushes its scalar to a dynamic ring of its bench and its context that has room: the word
and its shadow entry are written, WP grows by one, and SD holds the command number; a refusal leaves 2⁶³ plus its cause. -/
def Obligations.LaunchAndCommandPushComplete : Prop :=
  (∀ (s : State) (cx : Wcx) (f : FS) (p : Piece), s.MemOk →
     let info : WInfo := { reads := sReads f, writes := [sReg f.sd.toNat], barred := true }
     Issues s cx info →
     let a := (cx.w.sreg f.sa.toNat).toNat
     let q := (cx.sB f).toNat
     (64 ≤ q → exec (.launch f) s = .next (s.fault cx (raiseOf Cause.illegal))) ∧
     (q < 64 → a % 64 ≠ 0 → exec (.launch f) s = .next (s.fault cx { cause := Cause.align, va := a })) ∧
     (q < 64 → a % 64 = 0 → NoRequest s cx → (s.bench cx.b).lines = [] → LocalPiece s cx p → p.n = 64 →
       let s0 := s.release cx.b 5
       s0.vaPieces cx a 64 false .read = .ok ([p], s0) →
       let rec_ := BitVec.ofNat 512 (leNat (Mem.read s.mem (p.pa % 2 ^ 44) 64))
       let sd (v : Nat) : Wave := cx.w.withS f.sd.toNat (w64 v)
       ((s.queue q).ctx ≠ cx.g.ctx → Done (.launch f) s cx info [] (sd (2 ^ 63 + Cause.perm))) ∧
       (∀ c, (s.queue q).ctx = cx.g.ctx → s0.launchRefusal q rec_ = some c →
         Done (.launch f) s cx info [] (sd (2 ^ 63 + c))) ∧
       ((s.queue q).ctx = cx.g.ctx → s0.launchRefusal q rec_ = none →
         ∃ t, exec (.launch f) s = .next t ∧ GoesOn s t cx info (sd ((s.queue q).acc + 1)) ∧ t.mem = s.mem ∧
           t.queue q = { s.queue q with
             acc := (s.queue q).acc + 1,
             launches := (s.queue q).launches ++
               [{ num := (s.queue q).acc + 1, record := rec_, launch := (s.ctxBlock cx.g.ctx).launches }] } ∧
           (t.ctxBlock cx.g.ctx).launches = (s.ctxBlock cx.g.ctx).launches + 1 ∧
           ∀ j, j ≠ q → t.queue j = s.queue j))) ∧
  (∀ (s : State) (cx : Wcx) (f : FS), s.MemOk →
     let info : WInfo := { reads := [sReg f.sa.toNat], writes := [sReg f.sd.toNat], barred := true }
     Issues s cx info →
     let slot := f.imm.toNat % 16
     let r := s.ring cx.b slot
     let sd (v : Nat) : Wave := cx.w.withS f.sd.toNat (w64 v)
     let barred := r.state = .unbound ∨ r.state = .aborted ∨ r.timed = true
     (barred → Done (.menq f) s cx info [] (sd (2 ^ 63 + Cause.cmdIllegal))) ∧
     (¬barred → r.ctx ≠ cx.g.ctx → Done (.menq f) s cx info [] (sd (2 ^ 63 + Cause.perm))) ∧
     (¬barred → r.ctx = cx.g.ctx → r.wp - r.tl = 2 ^ r.l2n → Done (.menq f) s cx info [] (sd (2 ^ 63 + Cause.ringFull))) ∧
     (¬barred → r.ctx = cx.g.ctx → r.wp - r.tl ≠ 2 ^ r.l2n → (s.bench cx.b).lines = [] →
       ∃ t, exec (.menq f) s = .next t ∧ GoesOn s t cx info (sd (r.wp + 1)) ∧ (t.ring cx.b slot).wp = r.wp + 1 ∧
         (∀ k, k ≠ slot → t.ring cx.b k = s.ring cx.b k) ∧
         MemAfter s t fun a =>
           (runByte (storePa cx.b (r.base + 8 * (r.wp % 2 ^ r.l2n))) (leBytes 8 (cx.w.sreg f.sa.toNat).toNat) a).or
             (runByte (storePa cx.b (r.base + 8 * 2 ^ r.l2n + 16 * (r.wp % 2 ^ r.l2n)))
               (leBytes 16 (({ pc := cx.f.pc, kind := 1, slot := cx.slot, bench := cx.b } : Pusher).shadow (r.wp + 1))) a)))

/-- R315, R378: MLOOP pushes its matrix command to the lowest-numbered dynamic matrix ring of the context; with none it
raises CMDILLEGAL with AUX 0xFF, and where it is full RINGFULL with its number in AUX. R386 to R388: NQ pushes the one to
seven commands of its block to the ring that the block names.
R55, R391: RQXFER gives its top granules to another wave of its group: both windows change as `Wave.give` and
`Wave.take` say, and the granules' entries name the receiver. It does nothing with g = 0 or to itself, raises ILLEGAL for a
wave the group does not have, and QUOTA where the receiver has ended or a window does not admit the transfer. -/
def Obligations.MatrixQueueAndTransferComplete : Prop :=
  ((∀ (s : State) (cx : Wcx) (f : FE), s.MemOk → Issues s cx { barred := true } →
     (s.mloopSlot cx.b cx.g.ctx = none → exec (.mloop f) s = .next (s.fault cx { cause := Cause.cmdIllegal, aux := 0xFF })) ∧
     (∀ k, s.mloopSlot cx.b cx.g.ctx = some k →
       let r := s.ring cx.b k
       (r.wp - r.tl = 2 ^ r.l2n → exec (.mloop f) s = .next (s.fault cx { cause := Cause.ringFull, aux := k })) ∧
       (r.wp - r.tl ≠ 2 ^ r.l2n → (s.bench cx.b).lines = [] →
         ∃ t, exec (.mloop f) s = .next t ∧ GoesOn s t cx { barred := true } cx.w ∧ (t.ring cx.b k).wp = r.wp + 1 ∧
           Mem.read t.mem (storePa cx.b (r.base + 8 * (r.wp % 2 ^ r.l2n))) 8 =
             leBytes 8 ((f.ws ++ f.sg ++ (0x11 : BitVec 8) ++ f.f : BitVec 64)).toNat))) ∧
   (∀ (s : State) (cx : Wcx) (f : FS) (p : Piece), s.MemOk →
     let info : WInfo := { reads := [sReg f.sa.toNat], writes := [sReg f.sd.toNat], barred := true }
     Issues s cx info → NoRequest s cx → (s.bench cx.b).lines = [] → LocalPiece s cx p → p.n = 64 →
     let a := (cx.w.sreg f.sa.toNat).toNat
     let s0 := s.release cx.b 5
     s0.vaPieces cx a 64 false .read = .ok ([p], s0) → a % 64 = 0 →
     let w := leNat (Mem.read s.mem (p.pa % 2 ^ 44) 64)
     let slot := w % 2 ^ 4
     let b := w / 2 ^ 4 % 2 ^ 8
     let n := w / 2 ^ 13 % 2 ^ 3 + 1
     let r := s.ring b slot
     let sd (v : Nat) : Wave := cx.w.withS f.sd.toNat (w64 v)
     let malformed := w / 2 ^ 12 % 2 = 1 ∨ w % 2 ^ 64 / 2 ^ 16 ≠ 0 ∨ n = 8
     let barred := r.state = .unbound ∨ r.state = .aborted ∨ r.timed = true
     (malformed → Done (.nq f) s cx info [] (sd (2 ^ 63 + Cause.cmdIllegal))) ∧
     (¬malformed → s.cellOn (b / 8) = false → Done (.nq f) s cx info [] (sd (2 ^ 63 + Cause.perm))) ∧
     (¬malformed → s.cellOn (b / 8) = true → barred → Done (.nq f) s cx info [] (sd (2 ^ 63 + Cause.cmdIllegal))) ∧
     (¬malformed → s.cellOn (b / 8) = true → ¬barred → r.ctx ≠ cx.g.ctx →
       Done (.nq f) s cx info [] (sd (2 ^ 63 + Cause.perm))) ∧
     (¬malformed → s.cellOn (b / 8) = true → ¬barred → r.ctx = cx.g.ctx → 2 ^ r.l2n < r.wp - r.tl + n →
       Done (.nq f) s cx info [] (sd (2 ^ 63 + Cause.ringFull))) ∧
     (¬malformed → s.cellOn (b / 8) = true → ¬barred → r.ctx = cx.g.ctx → r.wp - r.tl + n ≤ 2 ^ r.l2n →
       ∃ t, exec (.nq f) s = .next t ∧ GoesOn s t cx info (sd (r.wp + n)) ∧ (t.ring b slot).wp = r.wp + n ∧
         ∀ k, k < n → Mem.read t.mem (storePa b (r.base + 8 * ((r.wp + k) % 2 ^ r.l2n))) 8 =
           leBytes 8 (w / 2 ^ (64 * k + 64) % 2 ^ 64)))) ∧
  (∀ (s : State) (cx : Wcx) (f : FS), s.MemOk →
     let info : WInfo := { reads := sReads f, barred := true }
     Issues s cx info →
     let rx := (cx.w.sreg f.sa.toNat).toNat
     let g := (cx.sB f).toNat
     let slot := cx.g.waves.getD rx 0
     (cx.g.nwaves ≤ rx → exec (.rqxfer f) s = .next (s.fault cx (raiseOf Cause.illegal))) ∧
     (rx < cx.g.nwaves → (g = 0 ∨ rx = cx.w.index) → Done (.rqxfer f) s cx info [] cx.w) ∧
     (rx < cx.g.nwaves → g ≠ 0 → rx ≠ cx.w.index → slot ≠ cx.slot → ∀ r, s.wave? cx.b slot = some r →
       (r.frags = [] ∨ cx.w.give g = none ∨ (∃ d base, cx.w.give g = some (d, base) ∧ r.take base g = none) →
         exec (.rqxfer f) s = .next (s.fault cx (raiseOf Cause.quota))) ∧
       (∀ d base r', r.frags ≠ [] → cx.w.give g = some (d, base) → r.take base g = some r' →
         ∃ t w, exec (.rqxfer f) s = .next t ∧ t.mem = s.mem ∧ t.wave? cx.b slot = some r' ∧
           t.wave? cx.b cx.slot = some w ∧ w.bare = d.bare ∧
           t.frag? cx.b cx.slot cx.e = some (cx.f.at (cx.f.pc + 8) (s.cycle cx.b) (nextWindow cx.f info [] 0)) ∧
           (∀ e, e ≠ cx.e → t.frag? cx.b cx.slot e = s.frag? cx.b cx.slot e) ∧
           (∀ k, base / 1024 ≤ k → k < base / 1024 + g → (t.bench cx.b).granule k = granuleWord 1 slot cx.g.part 0) ∧
           (∀ k, k < base / 1024 ∨ base / 1024 + g ≤ k → (t.bench cx.b).granule k = (s.bench cx.b).granule k) ∧
           ∀ b k, b ≠ cx.b ∨ (k ≠ slot ∧ k ≠ cx.slot) → t.wave? b k = s.wave? b k)))

/-! ## Passes and rays -/

/-- R229, R232, R407: TEMIT of a grid's first wave to an open pass whose home ring runs offers n mesh groups and accepts as
many as its group and the segment have room for; SD holds their number and the status block is written. Outside the
conditions of R407 it is ILLEGAL; an offer that a split had parked is accepted though TEND has issued since (R233).
R231, R232, R374, R375: MEMIT of a mesh group bins its lanes in order; when every lane found its chunks and the tiling
engine's writes are made, VD holds the lanes' codes and the pass is as the binning leaves it. In a grid's group, or where
a lane's B is over 24 bits, it is ILLEGAL; under POL = FAULT a missing chunk raises QUOTA.
The model's choices: TEMIT and MEMIT write the pass's status block (log entry 71); TEMIT of a mesh group is ILLEGAL (log entry
73). -/
def Obligations.MeshEmissionCompletes : Prop :=
  (∀ (s : State) (cx : Wcx) (f : FS), s.MemOk →
     let info : WInfo := { reads := sReads f, writes := [sReg f.sd.toNat], barred := true }
     Issues s cx info →
     let live := cx.f.exec &&& ~~~cx.w.helper
     let a := (cx.w.sreg f.sa.toNat).toNat
     let n := a % 2 ^ 9
     let pn := a / 2 ^ 12 % 2 ^ 4
     let allowed := (∃ q num, cx.g.origin = .grid q num) ∧ cx.w.index = 0 ∧ a / 2 ^ 9 % 2 ^ 3 = 0 ∧ a / 2 ^ 16 = 0 ∧ n ≤ 256 ∧
       ∃ p, s.pass? cx.g.ctx pn = some p ∧ (p.closed = false ∨ cx.f.codes ≠ [])
     (live = 0 → Done (.temit f) s cx info [] cx.w) ∧
     (live ≠ 0 → ¬allowed → exec (.temit f) s = .next (s.fault cx (raiseOf Cause.illegal))) ∧
     (∀ p x, live ≠ 0 → allowed → s.pass? cx.g.ctx pn = some p → p.halted = false → (s.bench cx.b).lines = [] →
       let k := min n (256 - cx.g.offered)
       p.segMesh + k ≤ 2 ^ 24 → (passPol p.record = 2 → cx.g.offered + n ≤ 256 ∧ p.segMesh + n ≤ 2 ^ 24) →
       let p' : Pass := { p with
         queue := p.queue ++ (List.range k).map fun i => ⟨cx.sB f, cx.g.groupId, cx.g.offered + i⟩,
         segMesh := p.segMesh + k, meshg := p.meshg + k, dropm := p.dropm + (n - k) }
       let s1 := (s.release cx.b 5).modPass cx.g.ctx pn fun _ => p'
       s1.translateCtx [.tiling (cellOf cx.b)] (8 * cellOf cx.b) cx.g.ctx (passSt p.record % 2 ^ 64) .write = .ok (x, s1) →
       p.ctx = cx.g.ctx → LocalPiece s cx { va := 0, pa := x.pa, n := 64 } →
       ∃ t w, exec (.temit f) s = .next t ∧ MemAfter s t (runByte (x.pa % 2 ^ 44) (p'.status true)) ∧
         t.pass? cx.g.ctx pn = some p' ∧ t.wave? cx.b cx.slot = some w ∧ w.bare = (cx.w.withS f.sd.toNat (w64 k)).bare ∧
         t.group? cx.b cx.w.group = some ({ cx.g with offered := cx.g.offered + k }.hashed (dueTerms cx.f info 0)) ∧
         t.frag? cx.b cx.slot cx.e =
           some ({ cx.f with codes := [] }.at (cx.f.pc + 8) (s.cycle cx.b) (nextWindow cx.f info [] 0)) ∧
         ∀ e, e ≠ cx.e → t.frag? cx.b cx.slot e = s.frag? cx.b cx.slot e)) ∧
  (∀ (s : State) (cx : Wcx) (f : VR), s.MemOk →
     let va := f.va.toNat
     let info : WInfo :=
       { reads := vRegs va 9 ++ [f.vb.toNat, f.vc.toNat], writes := [f.vd.toNat], barred := true,
         oc := (if f.oc.getLsbD 2 then vRegs va 9 else []) ++ (if f.oc.getLsbD 1 then [f.vb.toNat] else [])
           ++ (if f.oc.getLsbD 0 then [f.vc.toNat] else []) }
     Issues s cx info →
     let live := cx.f.exec &&& ~~~cx.w.helper
     let b (l : Nat) : Nat := (s.readV cx f.vb.toNat).getD l 0
     ((∃ q num, cx.g.origin = .grid q num) → exec (.memit f) s = .next (s.fault cx (raiseOf Cause.illegal))) ∧
     (∀ pn key p, cx.g.origin = .mesh pn key → s.pass? cx.g.ctx pn = some p →
       ((∃ l, l < 32 ∧ live.getLsbD l = true ∧ 2 ^ 24 ≤ b l) → exec (.memit f) s = .next (s.fault cx (raiseOf Cause.illegal))) ∧
       ((∀ l, l < 32 → live.getLsbD l = true → b l < 2 ^ 24) → live ≠ 0 → cx.f.codes = [] → p.halted = false → p.split = 0 →
         let setUp (l : Nat) : Except Nat Tri :=
           setUpLane p.record ((List.range 9).map fun i => (s.readV cx (va + i)).getD l 0) key (b l)
             ((s.readV cx f.vc.toNat).getD l 0)
         ∀ p' ws codes full, binLanes (cellOf cx.b) setUp (lanesOf live) (p, []) [] = ((p', ws), codes, full) →
           (full = true → passPol p.record = 2 → exec (.memit f) s = .next (s.fault cx (raiseOf Cause.quota))) ∧
           (∀ s1, full = false →
             (s.modPass cx.g.ctx pn fun _ => p').passWrites cx.g.ctx pn (cellOf cx.b) (ws ++ [p'.statusWrite true]) = (true, s1) →
             s1.wcx = some cx → s1.pass? cx.g.ctx pn = some p' → s1.MemOk → s1.poisoned = [] →
             let vs : List VRes := [⟨f.vd.toNat, live, lanes.map fun l => codes.get l 0⟩]
             ∃ t, exec (.memit f) s = .next t ∧ MemAfter s1 t (resByte cx vs) ∧ t.pass? cx.g.ctx pn = some p' ∧
               t.frag? cx.b cx.slot cx.e = some (cx.f.at (cx.f.pc + 8) (s1.cycle cx.b) (nextWindow cx.f info vs 0)) ∧
               ∀ e, e ≠ cx.e → t.frag? cx.b cx.slot e = s1.frag? cx.b cx.slot e))))

/-- R242, R243, R392: RTRACE of rays whose walks read the hierarchy: a lane's four results are t, u, v and the index of the
hit of least t and then lowest index, of some hit under ANY, or a miss; a ray with an input that is not finite misses. A
descriptor that is not a multiple of 16 raises ALIGN. That the record names all live lanes, and that a ray with an input that
is not finite misses and reads nothing, are the model's choices (log entry 69).
R242: the hit that RTRACE returns without ANY is one of the ray's hits, no hit has a lesser t, and of those with its t
none has a lower index. -/
def Obligations.RaysTracedToNearestHit : Prop :=
  (∀ (s : State) (cx : Wcx) (f : VR), s.MemOk →
     let va := f.va.toNat
     let sb := f.vb.toNat % 64
     let info : WInfo := { reads := vRegs va 8 ++ [sReg sb], writes := vRegs f.vd.toNat 4, tr := f.tr == 1,
                           oc := if f.oc.getLsbD 2 then vRegs va 8 else [] }
     Issues s cx info → (s.bench cx.b).lines = [] →
     let live := cx.f.exec &&& ~~~cx.w.helper
     let desc := (cx.w.sreg sb).toNat
     (live = 0 → Done (.rtrace f) s cx info [] cx.w) ∧
     (live ≠ 0 → desc % 16 ≠ 0 →
       exec (.rtrace f) s = .next ((s.release cx.b 3).fault cx
         { cause := Cause.align, va := desc, lanes := live, access := accessByte 1 16 false })) ∧
     (∀ (bs : List Byte) (hs : Nat → List Hit) (z0 : Bool), live ≠ 0 → desc % 16 = 0 → NoRequest s cx →
       let m (n : Nat) (z : Bool) : Mu := { cx.mu { s.release cx.b 3 with free := n } with seq := true, sync := z }
       rayRead cx (m s.free false) desc 16 = .ok (bs, m s.free z0) →
       let nb := leNat (bs.take 8)
       let tb := leNat (bs.drop 8)
       nb % 128 = 0 → tb % 16 = 0 →
       let ws (l : Nat) : List Nat := (List.range 8).map fun i => (s.readV cx (va + i)).getD l 0
       let ray (l : Nat) : Ray :=
         { o := .ofWords (ws l) 0, d := .ofWords (ws l) 3, tmin := .ofWord ((ws l).getD 6 0), tmax := .ofWord ((ws l).getD 7 0) }
       (∀ l n z, l < 32 → live.getLsbD l = true → allFinite (ws l) = true →
         ∃ z', rayWalk cx (ray l) (f.fn.getLsbD 1) nb tb (2 ^ 20) [(0, 1)] [] (m n z) = .hits (hs l) (m n z')) →
       ∃ (t : State) (w : Wave) (r : Nat → Option Hit),
         let vs : List VRes := (List.range 4).map fun i => ⟨f.vd.toNat + i, live, lanes.map fun l =>
           if live.getLsbD l then (hitWords (r l)).getD i 0 else 0⟩
         exec (.rtrace f) s = .next t ∧
         (∀ l, l < 32 → live.getLsbD l = true →
           if allFinite (ws l) then
             if f.fn.getLsbD 0 then (if hs l = [] then r l = none else ∃ h ∈ hs l, r l = some h)
             else r l = bestHit (hs l)
           else r l = none) ∧
         MemAfter s t (fun a => if info.tr then none else resByte cx vs a) ∧
         t.frag? cx.b cx.slot cx.e = some (cx.f.at (cx.f.pc + 8) (s.cycle cx.b) (nextWindow cx.f info vs 0)) ∧
         t.wave? cx.b cx.slot = some w ∧ w.bare = cx.w.bare ∧
         ∀ e, e ≠ cx.e → t.frag? cx.b cx.slot e = s.frag? cx.b cx.slot e)) ∧
  (∀ hs : List Hit, (∀ h ∈ hs, 0 < h.t.2) →
     (hs = [] → bestHit hs = none) ∧
     ∀ h, bestHit hs = some h → h ∈ hs ∧ ∀ g ∈ hs, h.t.le g.t = true ∧ (g.t.le h.t = true → h.tri ≤ g.tri))

/-! ## Engine commands -/

/-- R36, R37, R39, R88, R329: the head of a running dynamic ring whose engine has room issues when it needs no unit or has
taken it: RP passes it and it is held with the copies of its records, or, when a check of R329 fails, its ring halts at it;
it stays at the head while its semaphore is zero. -/
def Obligations.EngineCommandsIssue : Prop :=
  ∀ row ∈ ([(.mxzero, 0x10, mxzeroSpec), (.mxloop, 0x11, mxloopSpec), (.mxedge, 0x12, mxedgeSpec), (.mxst, 0x13, mxstSpec),
      (.mxld, 0x14, mxldSpec), (.cpy, 0x20, cpySpec), (.cpyt, 0x21, cpytSpec), (.cpyq, 0x22, cpyqSpec),
      (.cpyx, 0x23, cpyxSpec), (.cpyf, 0x24, cpyfSpec), (.cpyc, 0x25, cpycSpec), (.cpym, 0x26, cpymSpec),
      (.fput, 0x30, fputSpec), (.fputQ, 0x30, fputQSpec), (.fget, 0x31, fgetSpec), (.fcomp, 0x32, fcompSpec),
      (.fsig, 0x33, fsigSpec), (.tbegin, 0x40, tbeginSpec), (.tend, 0x41, tendSpec)] :
      List ((Cmd → Instr) × BitVec 8 × CmdSpec)),
  ∀ (s : State) (c : Cmd) (x : Ecx), s.cur = .ring x.b x.slot x.num → x.r = s.ring x.b x.slot → x.r.state ≠ .unbound →
    x.num = x.r.rp + 1 → x.w = Encode.putCmd row.2.1 c → x.r.timed = false →
    (s.bench x.b).held x.r.eng x.r.ctx < 8 → (x.r.eng = .copy → (s.bench x.b).inFlight < 128) →
    (x.r.eng = .tiling → x.r.active = []) →
    let ctr := (s.bench x.b).physical x.r.ctx c.wait.toNat
    ((c.wait = 0xFF ∨ x.r.tookWait = true) →
      (∀ r, s.issueCheck x row.2.2 = .error r → exec (row.1 c) s = .next (s.haltRing x.b x.slot x.num r)) ∧
      (∀ recs, s.issueCheck x row.2.2 = .ok recs → ∃ t a, exec (row.1 c) s = .next t ∧ t.mem = s.mem ∧
        { t.ring x.b x.slot with tookWait := false, head := none } = { x.r with
          rp := x.r.rp + 1, tookWait := false, head := none, lastT := s.cycle x.b, slip := 0, first := false,
          active := x.r.active ++ [a] } ∧
        a.num = x.num ∧ a.word = x.w ∧ a.recs = recs ∧ a.worked = false ∧
        (∀ k, k ≠ x.slot → t.ring x.b k = s.ring x.b k) ∧ ∀ b k, t.wave? b k = s.wave? b k)) ∧
    (c.wait ≠ 0xFF → x.r.tookWait = false → (s.bench x.b).sem ctr = 0 →
      (∀ j, (j, .ring x.slot) ∈ (s.bench x.b).semWaits → j = ctr) → ∃ t, exec (row.1 c) s = .next t ∧
      t.ring x.b x.slot = x.r ∧ t.mem = s.mem ∧ (ctr, .ring x.slot) ∈ (t.bench x.b).semWaits)

/-- R78 to R86, R94 to R97: the units of the matrix commands, of records in bench store or a vault. MXZERO zeroes its tile
and sets its kind; MXST writes row i and, with Z, clears the tile after the last; MXLD loads row i; MXEDGE writes, for each
triangle, the 64 coverage bits of sample group g; MXLOOP fetches the rows of a K-step by accesses and then adds to every
element its two block products, where the choice that R99 leaves open gives no undetected error. That MXLOOP fetches one
access a turn, and a command works one unit a turn, is the model's choice (log entries 7 and 8). -/
def Obligations.MatrixCommandsWork : Prop :=
  ∀ (s : State) (c : Cmd) (x : Ecx) (a : Active), s.MemOk → AtWork s x a →
    let acc := cmdF x.w 22 20
    let tile := s.tile x.b acc
    let r := a.recs.get (cmdF x.w 39 32) 0
    let i := a.idx
    let others (t : State) : Prop := ∀ b k, b ≠ x.b ∨ k ≠ acc → t.tile b k = s.tile b k
    (x.w = Encode.putCmd 0x10 c → ∃ t, exec (.mxzero c) s = .next t ∧ Works s t x i true ∧ t.mem = s.mem ∧
      t.tile x.b acc = { elems := [], int := x.w.getLsbD 0, poison := false } ∧ others t) ∧
    (x.w = Encode.putCmd 0x13 c → trSpace r ≠ 0 → ∃ t, exec (.mxst c) s = .next t ∧ Works s t x (i + 1) (i == 63) ∧
      MemAfter s t (runByte (x.localPa (trSpace r) (trBase r + i * trStride r))
        ((List.range 64).flatMap fun j =>
          let v := tile.dense.getD (64 * i + j) 0
          if i < 64 then
            match cmdF x.w 19 18 with
            | 0 => leBytes 4 v.toNat
            | 1 => leBytes 2 (roundVal .bf16 0 (f32Val v)).1
            | _ => leBytes 2 (roundVal .f16 0 (f32Val v)).1
          else [])) ∧
      t.tile x.b acc = (if i = 63 ∧ x.w.getLsbD 17 = true then { tile with elems := [] } else tile) ∧ others t) ∧
    (x.w = Encode.putCmd 0x14 c → trSpace r ≠ 0 → i < 64 → ∃ t, exec (.mxld c) s = .next t ∧
      Works s t x (i + 1) (i == 63) ∧ t.mem = s.mem ∧ others t ∧
      { t.tile x.b acc with elems := tile.elems } = tile ∧
      ∀ p q, p < 64 → q < 64 → (t.tile x.b acc).dense.getD (64 * p + q) 0 =
        if p = i then w32 (leNat (Mem.read s.mem (x.localPa (trSpace r) (trBase r + i * trStride r) + 4 * q) 4))
        else tile.dense.getD (64 * p + q) 0) ∧
    (x.w = Encode.putCmd 0x12 c →
      let rs := a.recs.get (cmdF x.w 31 24) 0
      let rd := a.recs.get (cmdF x.w 23 16) 0
      let nt := cmdF x.w 14 10 + 1
      trSpace r = 1 → trSpace rs = 1 → trSpace rd = 1 →
      let xy (n : Nat) : Nat := (Mem.get s.mem (storePa x.b (trBase rs + 128 * i) + n)).toNat
      let edges (t : Nat) : List Byte := Mem.read s.mem (storePa x.b (trBase r) + 48 * t) 48
      ∃ t, exec (.mxedge c) s = .next t ∧ Works s t x (i + 1) (i == cmdF x.w 9 4) ∧ (∀ b k, t.tile b k = s.tile b k) ∧
        MemAfter s t (laneBytes (List.range nt) (fun t => storePa x.b (trBase rd + t * trStride rd + 8 * i))
          fun t => leBytes 8 ((List.range 64).foldl (fun v n =>
            if covered (edges t) (xy (2 * n)) (xy (2 * n + 1)) then v + 2 ^ n else v) 0))) ∧
    (x.w = Encode.putCmd 0x11 c →
      let rb := a.recs.get (cmdF x.w 31 24) 0
      let fa := trFmt r
      let fb := trFmt rb
      a.word = x.w → a.aux = [fa, 0, fb, 0] → trSpace r ≠ 0 → trSpace rb ≠ 0 →
      let fs := ((List.range 64).flatMap fun j => a.opA.fetches j i) ++ (List.range 64).flatMap fun j => a.opB.fetches j i
      -- an access of the fetch of a K-step
      (∀ f, fs[a.sub]? = some f → ∃ t a', exec (.mxloop c) s = .next t ∧ Works s t x i false ∧ t.mem = s.mem ∧
        (∀ b k, t.tile b k = s.tile b k) ∧ (t.ring x.b x.slot).active.find? (fun y => y.num == x.num) = some a' ∧
        a'.sub = a.sub + 1 ∧
        a'.fetched = a.fetched ++ Mem.read s.mem (x.localPa (trSpace (if f.isB then rb else r)) f.addr) f.n) ∧
      -- the work of a K-step whose rows are fetched, without an undetected error (R99)
      (∀ el sc : Bool → Nat → List Byte, fs.length ≤ a.sub → a.rerun = 0 → x.w.getLsbD 1 = false → Config.free s.free % 2 = 0 →
        trMv r = false → trXl r = false → trXl rb = false → fa < 7 → fb < 7 →
        (∀ isB j, (el isB j).length = fmtBytes (if isB then fb else fa) 2 ∧
          (sc isB j).length = scaleBytes (if isB then fb else fa) 2) →
        a.fetched = ((List.range 64).flatMap fun j => el false j ++ sc false j) ++
          ((List.range 64).flatMap fun j => el true j ++ sc true j) →
        let row (isB : Bool) (j : Nat) : List KBlock :=
          (stepBlocks (if isB then fb else fa) isB (el isB j) (sc isB j) none).1
        ∃ t, exec (.mxloop c) s = .next t ∧ Works s t x (i + 1) (i == cmdF x.w 19 8) ∧ t.mem = s.mem ∧ others t ∧
          { t.tile x.b acc with elems := tile.elems } = tile ∧
          ∀ p q, p < 64 → q < 64 → (t.tile x.b acc).dense.getD (64 * p + q) 0 =
            ((row false p).zip (row true q)).foldl (fun v ab => (accumulate tile.int fb v ab.1 ab.2).1)
              (tile.dense.getD (64 * p + q) 0)))

/-- R177, R178, R180, R271: a chunk of CPY, CPYF, CPYT, FPUT and FGET between records in bench store: byte m of the
destination image is the byte of the source that the command's shape gives it. CPYC reads its chunk into its checksum's image
alone and then writes the checksum; a copy with no checksum is done after its last chunk.
R178, R182, R273, R348: a chunk of CPYX, CPYQ and FPUT.Q on records in bench store. CPYX writes each element of its source
blocks in the format OF; the quantisers write, block by block, the codes, the scale and the residuals of QuantiseBlock of the
block's values, to which AR adds the cullet.
R179, R349: CPYM copies the page that its leaf names to the frame of TRD, and then writes the frame's number into the
leaf if the leaf is still as it was read; one that is not halts the ring with CMDILLEGAL and starts again.
The model's choices: a zero weight of a T5 block under a negative scale is −0 (log entry 98), and CPYM is two units of work
(log entry 61, DEDUCED). -/
def Obligations.CopyEngineCommandsWork : Prop :=
  (∀ (s : State) (c : Cmd) (x : Ecx) (a : Active), s.MemOk → AtWork s x a →
     let rs := a.recs.get (cmdTrs x.w) 0
     let rd := a.recs.get (cmdTrd x.w) 0
     let lo := 4096 * a.idx
     let n := 16 * (cmdF x.w 11 0 + 1)
     let hi (size : Nat) : Nat := min size (4096 * (a.idx + 1))
     let apart (size : Nat) (src dst : Nat → Nat) : Prop := ∀ m m', lo ≤ m → m < hi size → lo ≤ m' → m' < hi size →
       dst m ≠ src m' ∧ (m ≠ m' → dst m ≠ dst m')
     let rowAt (r : BitVec 512) (m : Nat) : Nat := storePa x.b (trBase r + m / n * trStride r) + m % n
     trSpace rd = 1 →
     (∀ mk op rows, (mk, op, rows) ∈ ([(.cpy, 0x20, cmdF x.w 23 12 + 1), (.fput, 0x30, cmdF x.w 22 12 + 1),
         (.fget, 0x31, cmdF x.w 22 12 + 1)] : List ((Cmd → Instr) × BitVec 8 × Nat)) →
       x.w = Encode.putCmd op c → trSpace rs = 1 → lo < rows * n → apart (rows * n) (rowAt rs) (rowAt rd) →
       ∃ t, exec (mk c) s = .next t ∧ Works s t x (a.idx + 1) false ∧
         Moved s t (fun m => Mem.get s.mem (rowAt rs m)) (rowAt rd) lo (hi (rows * n))) ∧
     (∀ mk op rows, (mk, op, rows) ∈ ([(.cpy, 0x20, cmdF x.w 23 12 + 1), (.fput, 0x30, cmdF x.w 22 12 + 1),
         (.fget, 0x31, cmdF x.w 22 12 + 1)] : List ((Cmd → Instr) × BitVec 8 × Nat)) →
       x.w = Encode.putCmd op c → rows * n ≤ lo → trXbase rs = 0 → trXbase rd = 0 →
       ∃ t, exec (mk c) s = .next t ∧ Works s t x a.idx true ∧ t.mem = s.mem) ∧
     (x.w = Encode.putCmd 0x24 c → lo < (cmdF x.w 23 12 + 1) * n →
       apart ((cmdF x.w 23 12 + 1) * n) (fun _ => 0) (rowAt rd) →
       ∃ t, exec (.cpyf c) s = .next t ∧ Works s t x (a.idx + 1) false ∧
         Moved s t (fun _ => BitVec.ofNat 8 (cmdF x.w 39 32)) (rowAt rd) lo (hi ((cmdF x.w 23 12 + 1) * n))) ∧
     (x.w = Encode.putCmd 0x25 c → trSpace rs = 1 →
       (lo < (cmdF x.w 23 12 + 1) * n → ∃ t b, exec (.cpyc c) s = .next t ∧ Works s t x (a.idx + 1) false ∧ t.mem = s.mem ∧
         (t.ring x.b x.slot).active.find? (fun i => i.num == x.num) = some b ∧
         ∀ m, lo ≤ m → m < hi ((cmdF x.w 23 12 + 1) * n) → (∀ k, k ≠ m → lo ≤ k → k < hi ((cmdF x.w 23 12 + 1) * n) →
           trBase rs + m / n * trStride rs + m % n ≠ trBase rs + k / n * trStride rs + k % n) →
           b.srcImg.get (trBase rs + m / n * trStride rs + m % n) 0 = Mem.get s.mem (rowAt rs m)) ∧
       ((cmdF x.w 23 12 + 1) * n ≤ lo → ∃ t, exec (.cpyc c) s = .next t ∧ Works s t x a.idx true ∧
         MemAfter s t (runByte (storePa x.b (trBase rd)) (leBytes 4 (crc32c (a.srcImg.map (·.2))).toNat)))) ∧
     (x.w = Encode.putCmd 0x21 c → trSpace rs = 1 →
       let rows := cmdF x.w 23 12 + 1
       let cols := cmdF x.w 11 2 + 1
       let z := 2 ^ cmdF x.w 1 0
       let src (m : Nat) : Nat := storePa x.b (trBase rs + m / z % rows * trStride rs + m / z / rows * z) + m % z
       let dst (m : Nat) : Nat := storePa x.b (trBase rd + m / z / rows * trStride rd + m / z % rows * z) + m % z
       lo < rows * cols * z → apart (rows * cols * z) src dst →
       ∃ t, exec (.cpyt c) s = .next t ∧ Works s t x (a.idx + 1) false ∧
         Moved s t (fun m => Mem.get s.mem (src m)) dst lo (hi (rows * cols * z)))) ∧
  (∀ (s : State) (c : Cmd) (x : Ecx) (a : Active), s.MemOk → AtWork s x a →
     let rs := a.recs.get (cmdTrs x.w) 0
     let rd := a.recs.get (cmdTrd x.w) 0
     let lo := 4096 * a.idx
     trSpace rs = 1 → trSpace rd = 1 →
     (x.w = Encode.putCmd 0x23 c →
       let rows := cmdF x.w 23 13 + 1
       let nb := cmdF x.w 12 4 + 1
       let z := cpyxZ x.w
       let tr := x.w.getLsbD 3
       let fmt := trFmt rs
       let per := if fmt = 1 then 64 else 32
       let size := rows * (32 * nb) * z
       let hi := min size (4096 * (a.idx + 1))
       fmt < 7 → a.aux = [fmt, 0] → trXl rs = false → trXbase rs = 0 → (fmt = 1 → nb % 2 = 0) → lo < size →
       let unit (i u : Nat) : List FVal × List Int :=
         let n := if fmt = 1 then 13 else fmtBlock fmt
         let w := if fmt = 1 then 2 else 1
         let bs := Mem.read s.mem (storePa x.b (trBase rs + i * trStride rs + u * n)) n
         let sc := if scaleBytes fmt 1 = 0 then []
           else Mem.read s.mem (storePa x.b (trSbase rs + i * trSstride rs + w * u)) w
         if fmt = 1 then
           ((t5Group bs).1.map fun v => (mulVal (.ofInt v) (.decode .bf16 (leNat sc))).1, (t5Group bs).1)
         else ((oneBlock fmt 14 bs (sc.getD 0 0).toNat none).vals, (oneBlock fmt 14 bs (sc.getD 0 0).toNat none).q)
       let row (m : Nat) : Nat := if tr then m / z % rows else m / z / (32 * nb)
       let col (m : Nat) : Nat := if tr then m / z / rows else m / z % (32 * nb)
       let dst (m : Nat) : Nat :=
         storePa x.b (if tr then trBase rd + col m * trStride rd + row m * z else trBase rd + row m * trStride rd + col m * z)
           + m % z
       (∀ m m', lo ≤ m → m < hi → lo ≤ m' → m' < hi → m ≠ m' → dst m ≠ dst m') →
       (∀ m, lo ≤ m → m < hi → ∀ u ∈ operandUses (cmdTrs x.w) rs rows nb, ∀ q ∈ u.runs,
         dst m < storePa x.b q.1 ∨ storePa x.b q.1 + q.2 ≤ dst m) →
       ∃ t, exec (.cpyx c) s = .next t ∧ Works s t x (a.idx + 1) false ∧
         Moved s t (fun m => (cpyxBytes (cmdF x.w 1 0) ((unit (row m) (col m / per)).1.getD (col m % per) (.fin false 0 0))
           ((unit (row m) (col m / per)).2.getD (col m % per) 0)).getD (m % z) 0) dst lo hi) ∧
     (∀ mk op tc nb, (mk, op, tc, nb) ∈ ([(.cpyq, 0x22, cmdF x.w 23 16, cmdF x.w 15 4 + 1),
         (.fputQ, 0x30, cmdF x.w 22 15, cmdF x.w 14 4 + 1)] : List ((Cmd → Instr) × BitVec 8 × Nat × Nat)) →
       x.w = Encode.putCmd op c →
       let rc := a.recs.get tc 0
       let f := if trFmt rd = 2 then Fmt.e2m1 else Fmt.e4m3
       let z := if trFmt rd = 2 then 16 else 32
       let ib := if x.w.getLsbD 3 then 4 else 2
       let cb := if x.w.getLsbD 2 then 2 else 4
       trSpace rc = 1 → trXbase rs = 0 → trXbase rd = 0 → lo < nb * z →
       let hi := min (nb * z) (4096 * (a.idx + 1))
       let val (n : Nat) (bs : List Byte) (k : Nat) : W32 :=
         let v := leNat ((bs.drop (n * k)).take n)
         if n = 4 then w32 v else f32Of (FVal.decode .bf16 v)
       let block (m : List Host.Cell) (b : Nat) : List Host.Cell :=
         let src := Mem.read m (storePa x.b (trBase rs + 32 * ib * b)) (32 * ib)
         let cul := Mem.read m (storePa x.b (trBase rc + 32 * cb * b)) (32 * cb)
         let q := quantBlock f
           (fun k => if x.w.getLsbD 0 then some (srBits (trSbase rc) ((trXbase rc + 32 * b + k) % 2 ^ 64)) else none)
           ((List.range 32).map fun k => if x.w.getLsbD 1 then f32Add (val ib src k) (val cb cul k) else val ib src k)
         let codes := codeBytes f q.codes
         let m := Mem.write m (storePa x.b (trBase rd + codes.length * b)) codes
         let m := Mem.write m (storePa x.b (trSbase rd + b)) [BitVec.ofNat 8 q.scale]
         Mem.write m (storePa x.b (trBase rc + 32 * cb * b))
           (q.res.flatMap fun v => if cb = 2 then leBytes 2 (roundVal .bf16 0 (f32Val v)).1 else leBytes 4 v.toNat)
       ∃ t, exec (mk c) s = .next t ∧ Works s t x (a.idx + 1) false ∧
         ∀ ad, Mem.get t.mem ad =
           Mem.get (((List.range ((hi - lo) / z)).map fun k => lo / z + k).foldl block s.mem) ad)) ∧
  (∀ (s : State) (c : Cmd) (x : Ecx) (a : Active), s.MemOk → AtWork s x a → x.w = Encode.putCmd 0x26 c →
     let va := trBase (a.recs.get (cmdTrs x.w) 0)
     let dst := trBase (a.recs.get (cmdTrd x.w) 0)
     let die := dieOf x.b
     let plain (pa n : Nat) : Prop := ((∃ d, s.place pa = .lpddr d) ∨ ∃ v, s.place pa = .vault v) ∧ s.reachAll die pa n = none
     (∀ pte at_ lv, a.idx = 0 → canonical va = true → s.walk die (va % 2 ^ 57) 5 (s.desc x.r.ctx).root = .ok (pte, at_, lv) →
       let n := 4096 * pgsPages (cmdF x.w 23 20)
       let src := ptePpn pte * 4096
       pgsLevel (cmdF x.w 23 20) ≠ none → pte.testBit 63 = false → pte.testBit 2 = false →
       leafPages lv false (ptePpn pte) = some (pgsPages (cmdF x.w 23 20)) →
       plain src n → plain dst n → (∀ i j, i < n → j < n → src % 2 ^ 44 + i ≠ dst % 2 ^ 44 + j) →
       ∃ t, exec (.cpym c) s = .next t ∧ Works s t x 1 false ∧
         Moved s t (fun m => Mem.get s.mem (src % 2 ^ 44 + m)) (fun m => dst % 2 ^ 44 + m) 0 n) ∧
     (∀ pte at_, a.idx ≠ 0 → a.aux = [pte, at_] → plain at_ 8 →
       (leNat (Mem.read s.mem (at_ % 2 ^ 44) 8) = pte →
         ∃ t, exec (.cpym c) s = .next t ∧ Works s t x a.idx true ∧
           MemAfter s t (runByte (at_ % 2 ^ 44) (leBytes 8 (setBits pte 53 10 (dst / 4096))))) ∧
       (leNat (Mem.read s.mem (at_ % 2 ^ 44) 8) ≠ pte →
         ∃ t, exec (.cpym c) s = .next t ∧ (t.ring x.b x.slot).state = .halted)))

/-- R224 to R227, R272, R278, R360: FCOMP to another package sends the packet of tile n as COMP flits; FSIG increments a
counter of its own package or sends a SIG flit; TBEGIN opens its pass when its headers and status block are written; TEND
frees it when its work, and the offers that are parked (R233), are over. That each goes unit by unit, a turn for each, is the
model's choice (log entry 7). -/
def Obligations.FabricAndTilingCommandsWork : Prop :=
  ∀ (s : State) (c : Cmd) (x : Ecx) (a : Active), s.MemOk → AtWork s x a →
    let r := a.recs.get (cmdF x.w 39 32) 0
    let own := s.dev.fabric.pkgid
    (x.w = Encode.putCmd 0x32 c →
      let g := s.dev.composites.get (cmdF x.w 31 28) {}
      let dst := bitsIn g.word 491 480
      let gid := bitsIn g.word 31 16
      let rank := bitsIn g.word 15 10
      let tile := cmdF x.w 19 0 + a.idx
      let pix := Mem.read s.mem (x.localPa (trSpace r) (trBase r + a.idx * trStride r))
        (if g.word.getLsbD 2 then 3072 else 2048)
      let p := packetBytes (packetHeader gid (g.word.getLsbD 2) (g.word.getLsbD 1) false (a.aux.getD 0 0) tile rank rank 0) pix
      trSpace r ≠ 0 → dst ≠ own → s.linkTo (dieOf x.b) dst = none →
      ∃ t, exec (.fcomp c) s = .next t ∧ Works s t x (a.idx + 1) (a.idx == cmdF x.w 27 24) ∧ t.mem = s.mem ∧
        t.dev.fabric.outbox = s.dev.fabric.outbox ++ (List.range (cdiv p.length 240)).map fun k =>
          ({ type := 8, vc := 2, dst := dst, src := own, tag := s.dev.fabric.nextTag % 2 ^ 16,
             len := ((p.drop (240 * k)).take 240).length, sts := 0, aop := 0, asz := 0, addr := 240 * k,
             payload := (p.drop (240 * k)).take 240 } : Flit)) ∧
    (x.w = Encode.putCmd 0x33 c →
      let pkg := cmdF x.w 39 28
      let b := cmdF x.w 27 20
      let k := cmdF x.w 19 12
      (s.bench x.b).lines = [] →
      (pkg = own → (s.bench b).sem k < 2 ^ 32 - 1 → ∃ t, exec (.fsig c) s = .next t ∧ Works s t x a.idx true ∧
        t.mem = s.mem ∧ (t.bench b).sem k = (s.bench b).sem k + 1 ∧
        ∀ b' k', b' ≠ b ∨ k' ≠ k → (t.bench b').sem k' = (s.bench b').sem k') ∧
      (pkg ≠ own → s.linkTo (dieOf x.b) pkg = none → ∃ t, exec (.fsig c) s = .next t ∧ Works s t x a.idx false ∧ t.mem = s.mem ∧
        t.dev.fabric.outbox = s.dev.fabric.outbox ++
          [{ type := 6, vc := 0, dst := pkg, src := own, tag := s.dev.fabric.nextTag % 2 ^ 16, len := 0, sts := 0, aop := 0,
             asz := 0, addr := b * 256 + k, payload := [] }])) ∧
    (x.w = Encode.putCmd 0x40 c →
      let chunks := cdiv (16 * passTiles r) 4096
      let p : Pass := { ctx := x.r.ctx, record := r, mrec := a.recs.get 256 0, bench := x.b, slot := x.slot, num := x.num,
                        nextch := passC0 r }
      let pn := cmdF x.w 31 28
      (∀ ps, 1 ≤ a.idx → a.idx ≤ chunks →
        let k := a.idx - 1
        let len := min 4096 (16 * passTiles r - 4096 * k)
        x.pieces s false .write (passPb r + 4096 * k) len = .ok (ps, s) →
        (∀ q ∈ ps, (∃ d, s.place q.pa = .lpddr d) ∧ s.reachAll (dieOf x.b) q.pa q.n = none) →
        ∃ t, exec (.tbegin c) s = .next t ∧ Works s t x (a.idx + 1) false ∧
          MemAfter s t fun ad => if ps.any (fun q => q.pa % 2 ^ 44 ≤ ad && ad < q.pa % 2 ^ 44 + q.n) then some 0 else none) ∧
      (∀ q, chunks < a.idx → x.pieces s false .write (passSt r) 64 = .ok ([q], s) →
        (∃ d, s.place q.pa = .lpddr d) → s.reachAll (dieOf x.b) q.pa 64 = none → q.n = 64 →
        ∃ t, exec (.tbegin c) s = .next t ∧ Works s t x a.idx true ∧ t.pass? x.r.ctx pn = some p ∧
          MemAfter s t (runByte (q.pa % 2 ^ 44) (p.status true)))) ∧
    (x.w = Encode.putCmd 0x41 c →
      let pn := cmdF x.w 39 36
      ∀ p, s.pass? x.r.ctx pn = some p → s.passBad p = none → s.remoteOpen p.who = false → p.halted = false → p.split = 0 →
        (p.meshLive ≠ 0 ∨ p.queue ≠ [] ∨ s.offersOn x.r.ctx pn = true → ∃ t, exec (.tend c) s = .next t ∧ Works s t x a.idx a.worked ∧
          t.pass? x.r.ctx pn = some p ∧ t.mem = s.mem) ∧
        (a.idx ≠ 0 → p.meshLive = 0 → p.queue = [] → s.offersOn x.r.ctx pn = false → ∃ t, exec (.tend c) s = .next t ∧ Works s t x a.idx true ∧
          t.pass? x.r.ctx pn = none ∧ t.mem = s.mem ∧
          ∀ ctx n, n < 16 → ctx ≠ x.r.ctx ∨ n ≠ pn → t.pass? ctx n = s.pass? ctx n))

/-- R36, R37, R39, R330: a command whose work is done completes: its SIG counter takes one unit, it leaves its ring, and the
timeline moves to it when it is the next; a SIG counter that is full halts the ring with SEMOVF. IDLE completes at its issue.
An EOP that the table does not list halts its ring. -/
def Obligations.CommandsComplete : Prop :=
  (∀ (s : State) (b slot num : Nat) (a : Active),
    let r := s.ring b slot
    let sig := cmdF a.word 55 48
    let k := (s.bench b).physical r.ctx sig
    r.active.find? (fun i => i.num == num) = some a → a.worked = true → a.owesSig = false → a.halted = false →
    r.state = .running → (s.bench b).ringStops r = false → r.timed = false → r.fin = none →
    let gone (t : State) : Prop := (∀ i ∈ (t.ring b slot).active, i.num ≠ num) ∧
      (num = r.tl + 1 → r.done = [] → (t.ring b slot).tl = num) ∧
      (num ≠ r.tl + 1 → r.done = [] → (t.ring b slot).tl = r.tl)
    (sig = 0xFF → ∃ t, exec (.commandComplete b slot num) s = .next t ∧ gone t ∧ t.mem = s.mem ∧
      ∀ j, (t.bench b).sem j = (s.bench b).sem j) ∧
    (sig ≠ 0xFF → (s.bench b).sem k < 2 ^ 32 - 1 → ∃ t, exec (.commandComplete b slot num) s = .next t ∧ gone t ∧
      (t.bench b).sem k = (s.bench b).sem k + 1 ∧ ∀ j, j ≠ k → (t.bench b).sem j = (s.bench b).sem j) ∧
    (sig ≠ 0xFF → 2 ^ 32 - 1 ≤ (s.bench b).sem k → ∃ t, exec (.commandComplete b slot num) s = .next t ∧
      (t.ring b slot).state = .halted ∧ (t.bench b).csr.hlt = true ∧ (t.ring b slot).tl = r.tl)) ∧
  (∀ (s : State) (c : Cmd) (b slot : Nat),
    let r := s.ring b slot
    s.cur = .ring b slot (r.rp + 1) → r.state ≠ .unbound → r.timed = false → c.wait = 0xFF → c.sig = 0xFF → c.f = 0 →
    r.tl = r.rp → r.done = [] → r.active = [] → r.fin = none → r.wp = r.rp + 1 →
    ∃ t, exec (.idle c) s = .next t ∧ t.mem = s.mem ∧ (t.ring b slot).rp = r.rp + 1 ∧ (t.ring b slot).tl = r.tl + 1 ∧
      (t.ring b slot).active = []) ∧
  (∀ (s : State) (w : W64) (b slot : Nat),
    let r := s.ring b slot
    s.cur = .ring b slot (r.rp + 1) → r.state ≠ .unbound → r.timed = false → cmdF w 63 56 = 0xFF →
    (s.bench b).held r.eng r.ctx < 8 → (r.eng = .copy → (s.bench b).inFlight < 128) →
    (r.eng = .tiling → r.active = []) →
    exec (.unlistedEop w) s = .next (s.haltRing b slot (r.rp + 1) (raiseOf Cause.cmdIllegal)))

/-! ## Control cores -/

/-- R247, R262, R332: every X instruction in U mode, every one that host cores do not implement on a host core, and an
unassigned custom-0 word take an illegal-instruction exception: where it is delegated, sepc, scause and stval are written and
the hart goes on in S mode at stvec; elsewhere, as in M mode, mepc, mcause and mtval, in M mode at mtvec. The instruction has
no effect. The registers of the entry are the model's (log entry 23). -/
def Obligations.IllegalInstructionExceptionTaken : Prop :=
  ∀ (s : State) (cx : Hcx), s.hcx = some cx → cx.h.blocked = none → (∀ r ∈ s.dev.fabric.remotes, r.who ≠ cx.who) →
    let taken (t : State) : Prop :=
      let h := t.hartAt cx.at_
      (cx.h.delegated 2 = true → h.csr.sepc = cx.h.pc ∧ h.csr.scause = 2 ∧ h.csr.stval = cx.h.pc ∧ h.mode = .s ∧
        (cx.h.csr.stvec.toNat % 4 = 0 → h.pc = cx.h.csr.stvec) ∧ h.csr.mstatus.getLsbD 1 = false ∧
        h.csr.mstatus.getLsbD 5 = cx.h.csr.mstatus.getLsbD 1 ∧ (h.csr.mstatus.getLsbD 8 = true ↔ cx.h.mode ≠ .u)) ∧
      (cx.h.delegated 2 = false → h.csr.mepc = cx.h.pc ∧ h.csr.mcause = 2 ∧ h.csr.mtval = cx.h.pc ∧ h.mode = .m ∧
        (cx.h.csr.mtvec.toNat % 4 = 0 → h.pc = cx.h.csr.mtvec) ∧ h.csr.mstatus.getLsbD 3 = false ∧
        h.csr.mstatus.getLsbD 7 = cx.h.csr.mstatus.getLsbD 3 ∧ h.mpp = cx.h.mode) ∧
      h.x = cx.h.x ∧ h.f = cx.h.f ∧ t.mem = s.mem ∧ ∀ b k, t.wave? b k = s.wave? b k ∧ t.ring b k = s.ring b k
    (∀ w, ∃ t, exec (.unassignedCustom0 w) s = .next t ∧ taken t) ∧
    (∀ f, cx.h.mode = .u →
      ∀ mk ∈ ([.xpush, .xpushm, .xfence, .xmsend, .xmrecv, .xtick, .xsemp, .xsemv, .xsemrd, .xsemwr, .xtlwait, .xtlrd,
          .xtkbar, .xhlaunch, .xdrain, .xwmark] : List (XR → Instr)), ∃ t, exec (mk f) s = .next t ∧ taken t) ∧
    (∀ f h, cx.host = some h →
      ∀ mk ∈ ([.xpush, .xpushm, .xmrecv, .xtick, .xsemp, .xsemv, .xsemrd, .xsemwr, .xtkbar, .xdrain, .xwmark] :
          List (XR → Instr)), ∃ t, exec (mk f) s = .next t ∧ taken t)

/-- R248, R255, R256, R438: XPUSH pushes its word to a ring slot with room, XPUSHM a whole macro or nothing; rd holds the
command number or the count, or the refusal value; XWMARK sets a bound slot's watermark.
R40, R439: XTKBAR of armed timed rings blocks its gaffer until the tick; it is refused CMDILLEGAL when a named slot is no
such ring, and TIMING when the tick is past or less than 64 cycles away. -/
def Obligations.GafferPushesAndTimedBarrierComplete : Prop :=
  (∀ (s : State) (cx : Hcx) (b : Nat) (f : XR), GafferTurn s cx b → (s.bench b).lines = [] →
     let v1 := cx.rs1 f
     let v2 := cx.rs2 f
     let slot := v1 % 16
     let r := s.ring b slot
     let closed := r.state = .unbound ∨ r.state = .aborted
     (closed → ∃ t, exec (.xpush f) s = .next t ∧ HartGoes s t cx f (refusal Cause.cmdIllegal) ∧ t.mem = s.mem) ∧
     (¬closed → 2 ^ r.l2n < r.wp - r.tl + 1 →
       ∃ t, exec (.xpush f) s = .next t ∧ HartGoes s t cx f (refusal Cause.ringFull) ∧ t.mem = s.mem) ∧
     (¬closed → r.wp - r.tl + 1 ≤ 2 ^ r.l2n → s.MemOk →
       ∃ t, exec (.xpush f) s = .next t ∧ HartGoes s t cx f (w64 (r.wp + 1)) ∧ (t.ring b slot).wp = r.wp + 1 ∧
         MemAfter s t fun a => (runByte (storePa b (r.base + 8 * (r.wp % 2 ^ r.l2n))) (leBytes 8 v2) a).or
           (runByte (storePa b (r.base + 8 * 2 ^ r.l2n + 16 * (r.wp % 2 ^ r.l2n)))
             (leBytes 16 (({ pc := cx.h.pc, kind := 0, bench := b } : Pusher).shadow (r.wp + 1))) a)) ∧
     (v2 % 8 ≠ 0 → exec (.xpushm f) s = .next (s.hartExc cx 4 v2)) ∧
     (∀ steps ok as z, v2 % 8 = 0 → macroSteps (cx.h.words.getD (s.bench b).cstore) 128 (v1 % 4096) = (steps, ok) →
       s.macroArgs cx v2 steps (cx.mu s) = .ok (as, { cx.mu s with sync := z }) →
       (ok = false → ∃ t, exec (.xpushm f) s = .next t ∧ HartGoes s t cx f (refusal Cause.cmdIllegal) ∧ t.mem = s.mem) ∧
       (∀ c, ok = true → s.macroRefusal b steps = some c →
         ∃ t, exec (.xpushm f) s = .next t ∧ HartGoes s t cx f (refusal c) ∧ t.mem = s.mem) ∧
       (ok = true → s.macroRefusal b steps = none → ∃ t, exec (.xpushm f) s = .next t ∧ HartGoes s t cx f (w64 steps.length) ∧
         ∀ k, (t.ring b k).wp = (s.ring b k).wp + (steps.filter fun st => st.slot == k).length)) ∧
     (r.state ≠ .unbound → ∃ t, exec (.xwmark f) s = .next t ∧ HartGoes s t cx f 0 ∧ t.mem = s.mem ∧
       t.ring b slot = { r with wm := min 4096 (v2 % 8192) }) ∧
     (r.state = .unbound → ∃ t, exec (.xwmark f) s = .next t ∧ HartGoes s t cx f 0 ∧ t.mem = s.mem ∧ t.ring b slot = r)) ∧
  (∀ (s : State) (cx : Hcx) (b : Nat) (f : XR), GafferTurn s cx b → (∀ t rd, cx.h.blocked ≠ some (.tick t rd)) →
     let tick := cx.rs1 f
     let mask := cx.rs2 f % 2 ^ 16
     let die := s.domain (dieOf b)
     let named (k : Nat) : Prop := k < 16 ∧ mask.testBit k = true
     let armed := ∀ k, named k → (s.ring b k).state ≠ .unbound ∧ (s.ring b k).timed = true ∧ (s.ring b k).armed = true
     (mask = 0 ∨ ¬armed → ∃ t, exec (.xtkbar f) s = .next t ∧ HartGoes s t cx f (refusal Cause.cmdIllegal) ∧ t.mem = s.mem) ∧
     (mask ≠ 0 → armed → s.dev.ptc.ptc ≤ tick → 64 ≤ s.cyclesTo die tick → ∃ t, exec (.xtkbar f) s = .next t ∧
       HartBlocks s t cx (.tick tick f.rd.toNat) ∧ t.mem = s.mem ∧ (b, tick, mask) ∈ (t.die die).tkbars) ∧
     (mask ≠ 0 → armed → (tick < s.dev.ptc.ptc ∨ s.cyclesTo die tick < 64) → ∃ t, exec (.xtkbar f) s = .next t ∧
       HartGoes s t cx f (refusal Cause.timing) ∧ ∀ k, named k → (t.ring b k).state = .halted))

/-- R149, R151, R248, R442, R444: XFENCE, the semaphore instructions, the timeline instructions and XTICK of a gaffer: each
completes with its value in rd, is refused, or blocks. That XFENCE and the semaphore instructions write back and clear the L1 of
the gaffer's bench is the model's choice (log entry 101). -/
def Obligations.GafferSynchronisationCompletes : Prop :=
  ∀ (s : State) (cx : Hcx) (b : Nat) (f : XR), GafferTurn s cx b →
    let v1 := cx.rs1 f
    let v2 := cx.rs2 f
    let k := v1 % 256
    let c := (s.bench b).sem k
    let sel := v1 % 2 ^ 13
    let tl := Timeline.ofSel sel
    let named := tl ≠ .nothing ∧ tl ≠ .reserved
    (v1 % 8 ≠ 7 → ∃ t, exec (.xfence f) s = .next t ∧ HartGoes s t cx f 0 ∧
      (v1 / 8 % 4 ≠ 0 → ∀ l ∈ (t.bench b).lines, l.masked = [])) ∧
    (v1 % 8 = 7 → exec (.xfence f) s = .next (s.hartExc cx 2 cx.h.pc.toNat)) ∧
    (∃ t, exec (.xtick f) s = .next t ∧ HartGoes s t cx f (w64 s.dev.ptc.ptc) ∧ t.mem = s.mem) ∧
    (∃ t, exec (.xsemrd f) s = .next t ∧ HartGoes s t cx f (w64 c) ∧ t.mem = s.mem) ∧
    (∃ t, exec (.xsemwr f) s = .next t ∧ HartGoes s t cx f 0 ∧ t.mem = s.mem ∧ (t.bench b).sem k = v2 % 2 ^ 32 ∧
      ∀ j, j ≠ k → (t.bench b).sem j = (s.bench b).sem j) ∧
    (v2 = 0 ∨ 2 ^ 32 ≤ v2 → exec (.xsemv f) s = .next (s.hartExc cx 2 cx.h.pc.toNat)) ∧
    (v2 ≠ 0 → v2 < 2 ^ 32 → c + v2 < 2 ^ 32 → ∃ t, exec (.xsemv f) s = .next t ∧ HartGoes s t cx f 0 ∧
      (t.bench b).sem k = c + v2) ∧
    (v2 ≠ 0 → v2 < 2 ^ 32 → 2 ^ 32 ≤ c + v2 → ∃ t, exec (.xsemv f) s = .next t ∧
      HartGoes s t cx f (refusal Cause.semOvf) ∧ (t.bench b).sem k = c) ∧
    (c ≠ 0 → (∀ w, (k, w) ∉ (s.bench b).semWaits) → (∀ j, (j, .gaffer) ∉ (s.bench b).semWaits) → ∃ t, exec (.xsemp f) s = .next t ∧ HartGoes s t cx f 0 ∧
      t.mem = s.mem ∧ (t.bench b).sem k = c - 1) ∧
    (c = 0 → (∀ j, (j, .gaffer) ∉ (s.bench b).semWaits) → ∃ t, exec (.xsemp f) s = .next t ∧ HartBlocks s t cx (.sem k f.rd.toNat) ∧
      t.mem = s.mem ∧ (t.bench b).semWaits = (s.bench b).semWaits ++ [(k, .gaffer)]) ∧
    (¬named → exec (.xtlrd f) s = .next (s.hartExc cx 2 cx.h.pc.toNat) ∧
      exec (.xtlwait f) s = .next (s.hartExc cx 2 cx.h.pc.toNat)) ∧
    (named → ∃ t, exec (.xtlrd f) s = .next t ∧ HartGoes s t cx f (w64 (s.tl tl)) ∧ t.mem = s.mem) ∧
    (named → cx.h.aborted = false → v2 ≤ s.tl tl →
      ∃ t, exec (.xtlwait f) s = .next t ∧ HartGoes s t cx f (w64 (s.tl tl)) ∧ t.mem = s.mem) ∧
    (named → cx.h.aborted = false → s.tl tl < v2 →
      (s.tlGone sel = false → ∃ t, exec (.xtlwait f) s = .next t ∧ HartBlocks s t cx (.timeline sel v2 f.rd.toNat) ∧
        t.mem = s.mem) ∧
      (s.tlGone sel = true → ∃ t, exec (.xtlwait f) s = .next t ∧ HartGoes s t cx f (refusal Cause.aborted)))

/-- R192, R200, R257, R440, R441, R443: XMSEND puts 64 bytes that it reads at the end of a mailbox, XMRECV takes the oldest
message, XHLAUNCH gives a record that it reads to a queue, and XDRAIN completes at once for a context that has nothing to
drain and starts a drain otherwise; each refusal leaves its value in rd. The order of XMSEND's refusals (alignment, read,
destination, room) is the model's choice (log entry 19). -/
def Obligations.GafferMessagesAndDrainComplete : Prop :=
  ∀ (s : State) (cx : Hcx) (b : Nat) (f : XR), GafferTurn s cx b → s.MemOk → (s.bench b).lines = [] →
    let v1 := cx.rs1 f
    let v2 := cx.rs2 f
    let dst := v1 % 1024
    (v2 % 64 ≠ 0 → exec (.xmsend f) s = .next (s.hartExc cx 4 v2)) ∧
    (v1 % 64 ≠ 0 → exec (.xmrecv f) s = .next (s.hartExc cx 6 v1) ∧ exec (.xhlaunch f) s = .next (s.hartExc cx 4 v1)) ∧
    (∀ bs z, v2 % 64 = 0 → s.hartRead cx (cx.mu s) v2 64 = .ok (bs, { cx.mu s with sync := z }) →
      (255 < dst ∨ s.cellOn (dst / 8) = false →
        ∃ t, exec (.xmsend f) s = .next t ∧ HartGoes s t cx f (refusal Cause.perm) ∧ t.mem = s.mem) ∧
      (dst ≤ 255 → s.cellOn (dst / 8) = true → 16 ≤ (s.bench dst).mailbox.length →
        ∃ t, exec (.xmsend f) s = .next t ∧ HartGoes s t cx f (refusal Cause.ringFull) ∧ t.mem = s.mem) ∧
      (dst ≤ 255 → s.cellOn (dst / 8) = true → (s.bench dst).mailbox.length < 16 →
        ∃ t, exec (.xmsend f) s = .next t ∧ HartGoes s t cx f 0 ∧ t.mem = s.mem ∧
          (t.bench dst).mailbox = (s.bench dst).mailbox ++ [(b, bs)])) ∧
    (v1 % 64 = 0 → (s.bench b).mailbox = [] → exec (.xmrecv f) s = .next s) ∧
    (∀ tag bs rest, v1 % 64 = 0 → (s.bench b).mailbox = (tag, bs) :: rest → bs.length = 64 → cx.h.dataMode = .m → v1 < 2 ^ 56 →
      s.poisoned = [] → ((∃ d, s.place v1 = .lpddr d) ∨ ∃ v, s.place v1 = .vault v) → s.reachAll cx.die v1 64 = none →
      ∃ t, exec (.xmrecv f) s = .next t ∧ HartGoes s t cx f (w64 tag) ∧ (t.bench b).mailbox = rest ∧
        MemAfter s t (runByte (v1 % 2 ^ 44) bs)) ∧
    (∀ bs z, v1 % 64 = 0 → s.hartRead cx (cx.mu s) v1 64 = .ok (bs, { cx.mu s with sync := z }) →
      let q := v2 % 64
      let r := BitVec.ofNat 512 (leNat bs)
      let s0 := s.release b 5
      (∀ c, s0.launchRefusal q r = some c →
        ∃ t, exec (.xhlaunch f) s = .next t ∧ HartGoes s t cx f (refusal c) ∧ t.queue q = s.queue q) ∧
      (s0.launchRefusal q r = none → ∃ t, exec (.xhlaunch f) s = .next t ∧ HartGoes s t cx f (w64 ((s.queue q).acc + 1)) ∧
        (t.queue q).acc = (s.queue q).acc + 1 ∧ (t.queue q).launches = (s.queue q).launches ++
          [{ num := (s.queue q).acc + 1, record := r, launch := (s.ctxBlock (s.queue q).ctx).launches, sys := false }])) ∧
    (let ctx := v1 % 65536
     let c := (s.bench b).ctx ctx
     (c.drained = true ∨ c.saved = true ∨ (s.bench b).holds ctx = false →
       ∃ t, exec (.xdrain f) s = .next t ∧ HartGoes s t cx f 0 ∧ t.mem = s.mem) ∧
     (c.drained = false → c.saved = false → (s.bench b).holds ctx = true → c.draining = false →
       ∃ t, exec (.xdrain f) s = .next t ∧ t.mem = s.mem ∧ t.hartAt cx.at_ = cx.h ∧
         ((t.bench b).ctx ctx).draining = true ∧
         ∀ j, j ≠ ctx → (t.bench b).ctx j = (s.bench b).ctx j))

/-! ## Register writes and device steps -/

/-- R38, R42, R251, R252: a write of RBIND binds the selected slot, or sets its ERR when the binding is refused, and is
ignored before the feature set is committed; RCTL.RESUME, UNBIND, CLRERR and FINISH act on a slot in a state that takes
them and set ERR on any other.
R53, R203, R214, R219, R254: writes of GENT, CSDATA, SMAP, REPLAY and ULIPOST. Of the granules that GENT selects each
takes its kind and partition where R53 lets it; CSDATA writes or reads the word at CSIDX and steps CSIDX; REPLAY frees the
entries that it matches and wakes what is parked under them. -/
def Obligations.RingAndGafferRegistersAct : Prop :=
  (∀ (s : State) (b : Nat),
     let k := (s.bench b).csr.rsel
     let r := s.ring b k
     let still (t : State) : Prop := ∀ j, j ≠ k → t.ring b j = s.ring b j
     let failed (i : Instr) : Prop :=
       ∃ t, exec i s = .next t ∧ BenchOnly s t b ∧ t.ring b k = { r with err := true } ∧ still t
     (∀ v : W64,
       let n := v.toNat
       let new : Ring :=
         { state := .running, eng := Engine.ofCode (n % 4), timed := v.getLsbD 2, l2n := bitsOf n 6 3, part := bitsOf n 10 8,
           ctx := bitsOf n 31 16, base := bitsOf n 53 32, armed := v.getLsbD 2, err := r.err }
       (s.dev.features.done = false → exec (.rbind b v) s = .next s) ∧
       (s.dev.features.done = true → s.bindRefused b k new = true → failed (.rbind b v)) ∧
       (s.dev.features.done = true → s.bindRefused b k new = false →
         ∃ t, exec (.rbind b v) s = .next t ∧ BenchOnly s t b ∧ t.ring b k = new ∧ still t ∧
           ((s.bench b).slotsOf new.eng new.ctx = [] → (t.bench b).eng new.eng new.ctx = {}))) ∧
     (r.state = .halted ∨ r.state = .drained → (∀ a ∈ r.active, a.owesSig = false) → s.passes = [] →
       ∃ t, exec (.rctlResume b) s = .next t ∧ BenchOnly s t b ∧ still t ∧
         { t.ring b k with head := none, tookWait := false } =
           { r with state := .running, armed := r.timed, begun := false, slip := 0, head := none, tookWait := false,
                    active := r.active.map fun a => { a with halted := false } }) ∧
     (r.state ≠ .halted → r.state ≠ .drained → failed (.rctlResume b)) ∧
     (let ends := r.state = .halted ∨ r.state = .drained ∨ r.state = .aborted ∨ (r.state = .running ∧ r.tl = r.wp)
      (ends → ∃ t, exec (.rctlUnbind b) s = .next t ∧ t.ring b k = { state := .unbound, err := r.err } ∧ still t) ∧
      (¬ends → failed (.rctlUnbind b))) ∧
     (∃ t, exec (.rctlClrerr b) s = .next t ∧ BenchOnly s t b ∧ t.ring b k = { r with err := false } ∧ still t) ∧
     (r.timed = true → r.state = .running → r.fin = none →
       ∃ t, exec (.rctlFinish b) s = .next t ∧ BenchOnly s t b ∧ still t ∧
         t.ring b k = if r.wp = r.tl ∨ r.wp ∈ r.done then { r with armed := true, begun := false } else { r with fin := some r.wp }) ∧
     (r.timed = false ∨ r.state ≠ .running ∨ r.fin ≠ none → failed (.rctlFinish b))) ∧
  ((∀ (s : State) (b : Nat) (v : W64),
     let x := s.bench b
     let sel := x.csr.gsel.toNat
     let picked (g : Nat) : Prop := bitsOf sel 11 0 ≤ g ∧ g ≤ bitsOf sel 11 0 + bitsOf sel 27 16 ∧ g < 4096
     let kind := v.toNat % 8
     let part := bitsOf v.toNat 10 8
     let changes (g : Nat) : Prop :=
       (kind = 0 ∨ kind = 3 ∨ kind = 4) ∧ x.kind g ≠ 1 ∧ x.kind g ≠ 2 ∧
         ¬(x.kind g = 3 ∧ x.pinned g = true ∧ (kind ≠ 3 ∨ part ≠ x.gpart g))
     ∃ t, exec (.gent b v) s = .next t ∧
       ∀ g, (picked g → changes g → (t.bench b).kind g = kind ∧ (t.bench b).gpart g = part) ∧
         (¬picked g ∨ ¬changes g → (t.bench b).granule g = x.granule g)) ∧
   (∀ (s : State) (b : Nat) (rd : BitVec 5) (w : W64),
     let x := s.bench b
     (∃ t, exec (.csdata b rd (some w)) s = .next t ∧ BenchOnly s t b ∧ (t.bench b).cstore.get x.csr.csidx 0 = w ∧
       (∀ i, i ≠ x.csr.csidx → (t.bench b).cstore.get i 0 = x.cstore.get i 0) ∧ (t.bench b).gaffer = x.gaffer ∧
       (t.bench b).csr = { x.csr with csidx := (x.csr.csidx + 1) % 4096 }) ∧
     (∃ t, exec (.csdata b rd none) s = .next t ∧ BenchOnly s t b ∧ (t.bench b).cstore = x.cstore ∧
       (t.bench b).gaffer = x.gaffer.set rd.toNat (x.cstore.get x.csr.csidx 0) ∧
       (t.bench b).csr = { x.csr with csidx := (x.csr.csidx + 1) % 4096 })) ∧
   (∀ (s : State) (b : Nat) (v : W64),
     let x := s.bench b
     let ctx := x.csr.cxsel
     let lets := (x.ctx ctx).drained = true ∨
       (x.wavesOf ctx = [] ∧ ∀ p ∈ x.rings, p.2.ctx = ctx → p.2.state ≠ .running)
     (lets → ∃ t, exec (.smap b v) s = .next t ∧ BenchOnly s t b ∧
       (t.bench b).physical ctx x.csr.smsel = v.toNat % 256 ∧
       ∀ c i, c ≠ ctx ∨ i ≠ x.csr.smsel → (t.bench b).physical c i = x.physical c i) ∧
     (¬lets → exec (.smap b v) s = .next s)) ∧
   (∀ (s : State) (b : Nat) (v : W64),
     let g := v.toNat % 32
     ∃ t, exec (.ulipost b v) s = .next t ∧ (∀ k, k ≠ g → t.group? b k = s.group? b k) ∧
       t.group? b g = (s.group? b g).map fun x => { x with uli := x.uli ||| w32 (v.toNat / 2 ^ 32) }) ∧
   (∀ (s : State) (b : Nat) (v : W64),
     let n := v.toNat
     let arg := (s.bench b).csr.rplarg.toNat
     let to_ := n % 256
     (v.getLsbD 8 = true → v.getLsbD 9 = false → exec (.replay b v) s = .next s) ∧
     (v.getLsbD 8 = false → ∃ t, exec (.replay b v) s = .next t ∧
       ∀ e w, (s.bench to_).waitTable.get? e = some w → replayHits arg n e w = true →
         ((t.bench to_).waitTable.get e {}).key = none) ∧
     (∀ e w ctx slot f, v.getLsbD 8 = false → (s.bench to_).waitTable = [(e, w)] → replayHits arg n e w = true →
       w.parkers = [.frag ctx slot f] → ((s.bench to_).ctx ctx).saved = false →
       ∃ t, exec (.replay b v) s = .next t ∧
         t.frag? to_ slot f = (s.frag? to_ slot f).map fun x =>
           x.wake ((s.wave? to_ slot).any fun y => y.holds f) (v.getLsbD 10) (s.cycle to_))))

/-- R38, R187, R200 to R202, R440: CXCMD.SAVE starts the save of a drained context, CXCMD.RESTORE the restore of a saved one
or lets a drained one go on in place, and CXCMD.HWM writes HWMP of the descriptor; a drain completes when no fragment or
command of the context is in the middle of an instruction; a save or restore that finishes leaves the context saved or
resident, or its fault in the latch. Each of the five rows completes on every state, with its effect where the state admits
it. That a CXCMD.SAVE of an undrained context has no effect is the model's reading (log entry 32). -/
def Obligations.ContextCommandsAct : Prop :=
  (∀ (s : State) (b : Nat),
    let x := s.bench b
    let ctx := x.csr.cxsel
    let c := x.ctx ctx
    (c.drained = true → c.saved = false → c.busy = 0 → ∃ t, exec (.cxcmdSave b) s = .next t ∧ BenchOnly s t b ∧
      (t.bench b).ctx ctx = { c with busy := 1 } ∧ ∀ j, j ≠ ctx → (t.bench b).ctx j = x.ctx j) ∧
    (c.drained = false ∨ c.saved = true ∨ c.busy ≠ 0 → exec (.cxcmdSave b) s = .next s)) ∧
  (∀ (s : State) (b : Nat),
    let x := s.bench b
    let ctx := x.csr.cxsel
    let c := x.ctx ctx
    (c.busy = 0 → c.saved = true → ∃ t, exec (.cxcmdRestore b) s = .next t ∧ BenchOnly s t b ∧
      (t.bench b).ctx ctx = { c with busy := 2 } ∧ ∀ j, j ≠ ctx → (t.bench b).ctx j = x.ctx j) ∧
    (c.busy = 0 → c.saved = false → c.drained = true → (∀ k, (s.ring b k).ctx = ctx → (s.ring b k).active = []) →
      s.passes = [] → ∃ t, exec (.cxcmdRestore b) s = .next t ∧ ((t.bench b).ctx ctx).drained = false ∧
        ∀ k, (s.ring b k).ctx = ctx → (s.ring b k).state = .drained → (t.ring b k).state = .running) ∧
    (c.busy ≠ 0 ∨ (c.saved = false ∧ c.drained = false) → exec (.cxcmdRestore b) s = .next s)) ∧
  (∀ (s : State) (b : Nat), s.MemOk →
    let x := s.bench b
    let ctx := x.csr.cxsel
    let pa := 64 * s.dev.ctxBase.toNat + 64 * ctx + 16
    let d := s.desc ctx
    let refused := x.csr.cxhwm < d.hwmp ∨ 2 ^ (d.pvsl - 12) < x.csr.cxhwm ∨ 2 ^ s.dev.ctxL2n ≤ ctx
    (¬refused → Plain s (dieOf b) pa 8 → ∃ t, exec (.cxcmdHwm b) s = .next t ∧
      MemAfter s t (runByte (pa % 2 ^ 44) (leBytes 8 (setBits (leNat (Mem.read s.mem (pa % 2 ^ 44) 8)) 28 8 x.csr.cxhwm)))) ∧
    (refused → exec (.cxcmdHwm b) s = .next s)) ∧
  (∀ (s : State) (b n : Nat),
    let x := s.bench b
    let y := x.ctx n
    (y.draining = true → s.stopped b n = true → ∃ t, exec (.drainComplete b n) s = .next t ∧ BenchOnly s t b ∧
      (t.bench b).ctx n = { y with draining := false, drained := true } ∧
      ∀ k, (s.ring b k).ctx = n → (s.ring b k).state = .running → k ∈ x.rings.map (·.1) →
        (t.ring b k).state = .drained ∧ (t.ring b k).fin = none) ∧
    (y.draining = false ∨ s.stopped b n = false → exec (.drainComplete b n) s = .next s)) ∧
  (∀ (s : State) (b n : Nat), s.MemOk →
    let x := s.bench b
    let y := x.ctx n
    (y.busy = 1 → ∃ t, exec (.sliceSaveRestoreDone b n) s = .next t ∧ ((t.bench b).ctx n).busy = 0 ∧
      ((((t.bench b).ctx n).saved = true ∧ ((t.bench b).ctx n).waves = x.wavesOf n ∧ (t.bench b).wavesOf n = [] ∧
          ∀ p ∈ (t.bench b).groups, p.2.ctx ≠ n) ∨
        (t.bench b).latch.record.isSome = true)) ∧
    (y.busy = 2 → y.woken = [] → (∀ p ∈ x.rings, p.2.bound = false ∨ p.2.ctx ≠ n) →
      (∀ p ∈ y.waves, x.waves.get? p.1 = none ∧ ∀ g ∈ x.groups, p.1 ∉ g.2.waves) →
      (∀ p ∈ y.groups, x.groups.get? p.1 = none) → (∀ g ∈ heldGranules y.waves y.groups, x.kind g = 0) →
      ∃ t, exec (.sliceSaveRestoreDone b n) s = .next t ∧ ((t.bench b).ctx n).busy = 0 ∧
        ((((t.bench b).ctx n).saved = false ∧ ((t.bench b).ctx n).drained = false ∧
            ∀ p ∈ y.waves, (t.wave? b p.1).isSome = true) ∨
          (t.bench b).latch.record.isSome = true)) ∧
    (y.busy ≠ 1 → y.busy ≠ 2 → exec (.sliceSaveRestoreDone b n) s = .next s))

/-- R16, R131, R132, R209, R211, R216, R217, R222: a shootdown starts, notes the transfers under way, and completes once they
are over; the latch is released, reports what waited for it and sends its message; RIDX advances and deferred records are
written; a context is reset and its reset completes. Each of the eight rows completes on every state, with its effect where
the state admits it. -/
def Obligations.ShootdownFaultAndResetEventsAct : Prop :=
  (∀ (s : State) (k : Nat),
    let d := s.dev.shoots.get k {}
    (k < 288 → d.done = true → ∃ t, exec (.shootdownGo k) s = .next t ∧ t.mem = s.mem ∧
      (s.transferring = [] → t.tlbs = s.tlbs) ∧ (t.dev.shoots.get k {}).done = false ∧
      (t.dev.shoots.get k {}).cmds = s.transferring ∧
      (t.dev.shoots.get k {}).taken = { va := d.va, asid := d.asid, allAsid := d.allAsid, allVa := d.allVa, npg := d.npg } ∧
      let stays (x : Group) : Prop := ∀ n w, x.trans.get? n = some w → w.getLsbD 120 = true →
        let page := x.transPages.get n (w.toNat % 2 ^ 57 / 4096, 1)
        d.hits (s.desc x.ctx).asid page.1 page.2 = false
      ∀ b g x, (t.group? b g = some x → stays x) ∧ ∀ c, ((t.bench b).ctx c).groups.get? g = some x → stays x) ∧
    (k < 288 → d.done = false → ∃ t, exec (.shootdownGo k) s = .next t ∧ DevOnly s t ∧
      t.dev.shoots.get k {} = { d with err := true }) ∧
    (288 ≤ k → exec (.shootdownGo k) s = .next s)) ∧
  (∀ (s : State) (k : Nat),
    let d := s.dev.shoots.get k {}
    (d.done = false → s.shootClear d = true → ∃ t, exec (.shootdownDone k) s = .next t ∧ t.mem = s.mem ∧
      t.benches = s.benches ∧
      t.dev.shoots.get k {} = { d with done := true, cmds := [], tags := [], gates := [], taken := {}, frames := [] } ∧
      ∀ u e, (u, e) ∈ t.tlbs ↔ (u, e) ∈ s.tlbs ∧
        ((∃ b, u = .gaffer b) ∨ (∃ h, u = .host h) ∨ d.taken.hits e.asid e.vpn e.pages = false)) ∧
    (d.done = true ∨ s.shootClear d = false → exec (.shootdownDone k) s = .next s)) ∧
  (∀ (s : State) (b : Nat),
    let l := (s.bench b).latch
    (l.pending = [] → ∃ t, exec (.latchRel b) s = .next t ∧ BenchOnly s t b ∧
      (t.bench b).latch = { record := none, pending := [], message := false }) ∧
    (∀ r, l.pending = [r] → ∃ t, exec (.latchRel b) s = .next t ∧ (t.bench b).latch.pending = [] ∧
      let c := s.ctxBlock r.ctx
      let full := c.widx - c.ridx = 2 ^ (s.desc r.ctx).frl2 ∨ c.waiting ≠ []
      (full → (t.ctxBlock r.ctx).waiting = c.waiting ++ [(b, r)] ∧ (t.bench b).latch.record = none) ∧
      (¬full → (t.ctxBlock r.ctx).widx = c.widx + 1 ∨ (t.bench b).latch.record = some r))) ∧
  (∀ (s : State) (b : Nat),
    let l := (s.bench b).latch
    (∀ r, l.record = some r →
      let n := (s.ctxBlock r.ctx).ntgt
      (l.message = true → (s.bench n).mailbox.length < 16 → ∃ t, exec (.latchedMessage b) s = .next t ∧ t.mem = s.mem ∧
        (t.bench n).mailbox = (s.bench n).mailbox ++ [(0x3FF, { r with cause := Cause.latched, orig := r.cause : FaultRec }.bytes)] ∧
        (t.bench b).latch.message = false ∧ (t.bench b).latch.record = some r) ∧
      (l.message = false ∨ 16 ≤ (s.bench n).mailbox.length → exec (.latchedMessage b) s = .next s)) ∧
    (l.record = none → exec (.latchedMessage b) s = .next s)) ∧
  (∀ (s : State) (ctx : Nat) (v : W64),
    let c := s.ctxBlock ctx
    (ctx < 4096 → v.toNat ≤ c.widx → c.waiting = [] → ∃ t, exec (.faultRingRidx ctx v) s = .next t ∧ DevOnly s t ∧
      t.ctxBlock ctx = { c with ridx := v.toNat } ∧ ∀ j, j ≠ ctx → t.ctxBlock j = s.ctxBlock j) ∧
    (4096 ≤ ctx ∨ c.widx < v.toNat → exec (.faultRingRidx ctx v) s = .next s)) ∧
  (∀ (s : State) (ctx : Nat),
    let c := s.ctxBlock ctx
    (∀ b r, c.waiting = [(b, r)] → r.ctx = ctx → c.widx - c.ridx ≠ 2 ^ (s.desc ctx).frl2 →
      (s.bench b).latch.record = none →
      ∃ t, exec (.faultRecordDeferred ctx) s = .next t ∧ (t.ctxBlock ctx).waiting = [] ∧
        ((t.ctxBlock ctx).widx = c.widx + 1 ∨ (t.bench b).latch.record = some r)) ∧
    (c.waiting = [] ∨ c.widx - c.ridx = 2 ^ (s.desc ctx).frl2 → exec (.faultRecordDeferred ctx) s = .next s)) ∧
  (∀ (s : State) (ctx : Nat),
    (ctx < 4096 → (s.ctxBlock ctx).rstbusy = false → (∀ p ∈ s.dev.queues, p.2.launches = []) →
      ∃ t, exec (.contextReset ctx) s = .next t ∧ (t.ctxBlock ctx).rstbusy = true ∧
        (∀ b p, p ∈ (t.bench b).groups → p.2.ctx ≠ ctx) ∧ (∀ b c, c ∈ (t.bench b).copies → c.ctx ≠ ctx) ∧
        (∀ b p, p ∈ (t.bench b).rings → p.2.bound = true → p.2.ctx = ctx → p.2.state = .aborted) ∧
        ∀ p ∈ t.passes, p.2.ctx ≠ ctx) ∧
    (4096 ≤ ctx ∨ (s.ctxBlock ctx).rstbusy = true → exec (.contextReset ctx) s = .next s)) ∧
  (∀ (s : State) (ctx : Nat), ∃ t, exec (.contextResetDone ctx) s = .next t ∧ DevOnly s t ∧
    t.ctxBlock ctx = { s.ctxBlock ctx with rstbusy := false } ∧ ∀ j, j ≠ ctx → t.ctxBlock j = s.ctxBlock j)

/-- R117, R118, R122, R123: a write that sets V validates a range, or sets ERR; one that clears it retires the range, a
coded one once none of its sectors is dirty; POOLSZ grows by free segments; a dirty block is written back when the pool has
room, and otherwise waits for it. Each of the six rows completes on every state, with its effect where the state admits it.
The model's choices: the place of the rotating pointer at validation (log entry 89); a write that sets V while the range is BUSY
takes its word with the range retired first (log entry 91). -/
def Obligations.FormatRangesAct : Prop :=
  (∀ (s : State) (n : Nat) (v : W64),
    let r := s.range n
    let others (t : State) : Prop := ∀ j, j ≠ n → t.range j = s.range j
    let new : Range := { r with word := BitVec.ofNat 512 (setBits r.word.toNat 63 0 (v.toNat &&& (2 ^ 56 - 2 ^ 12 + 0x3F))) }
    (n < 64 → v.getLsbD 0 = true → r.v = false → s.rangeRefused n new = false →
      ∃ t, exec (.formatRangeValidate n v) s = .next t ∧ others t ∧ (t.range n).word = new.word ∧
        (t.range n).err = false ∧ (t.range n).rotor = 0 ∧
        (r.busy = false → t.range n = { new with free := if new.coded then s.countFree new else 0, err := false, rotor := 0 } ∧
          t.mem = s.mem ∧ t.benches = s.benches)) ∧
    (n < 64 → v.getLsbD 0 = true → r.v = true ∨ s.rangeRefused n new = true →
      ∃ t, exec (.formatRangeValidate n v) s = .next t ∧ DevOnly s t ∧ t.range n = { r with err := true } ∧ others t) ∧
    (64 ≤ n ∨ v.getLsbD 0 = false → exec (.formatRangeValidate n v) s = .next s) ∧
    (n < 64 → v.getLsbD 0 = false → r.v = true → ∃ t, exec (.formatRangeRetire n v) s = .next t ∧ DevOnly s t ∧ others t ∧
      (r.coded = true → t.range n = { new with err := false, busy := true, old := r.word }) ∧
      (r.coded = false → t.range n = { new with err := false })) ∧
    (64 ≤ n ∨ v.getLsbD 0 = true ∨ r.v = false → exec (.formatRangeRetire n v) s = .next s)) ∧
  (∀ (s : State) (n : Nat),
    let r := s.range n
    let mine (k : Nat) : Prop := r.live.start ≤ 64 * k ∧ 64 * k < r.live.start + 4096 * r.live.size
    (r.busy = true → ∃ t, exec (.rangeRetireComplete n) s = .next t ∧
      ((t.range n).busy = false ∨ ∃ k ∈ t.viewDirty, mine k) ∧
      ((∀ k ∈ s.viewDirty, ¬mine k) → t.mem = s.mem ∧ t.range n = { r with busy := false, waiting := [] } ∧
        (∀ j, j ≠ n → t.range j = s.range j) ∧ ∀ k, k ∈ t.viewHeld ↔ k ∈ s.viewHeld ∧ ¬mine k)) ∧
    (r.busy = false → exec (.rangeRetireComplete n) s = .next s)) ∧
  (∀ (s : State) (n : Nat) (v : W64),
    let r := s.range n
    let size := v.toNat % 2 ^ 32
    let new : Range := { r with word := BitVec.ofNat 512 (setBits r.word.toNat 383 320 size), err := false }
    (n < 64 → r.v = true → r.busy = false → r.poolsz < size → ∃ t, exec (.poolszRaise n v) s = .next t ∧
      t.range n = { new with free := if r.coded then r.free + (size - r.poolsz) else r.free } ∧
      (∀ j, j ≠ n → t.range j = s.range j) ∧ t.benches = s.benches) ∧
    (n < 64 → r.v = true → size ≤ r.poolsz → ∃ t, exec (.poolszRaise n v) s = .next t ∧ DevOnly s t ∧
      t.range n = { r with err := true } ∧ ∀ j, j ≠ n → t.range j = s.range j) ∧
    (64 ≤ n ∨ r.v = false → exec (.poolszRaise n v) s = .next s)) ∧
  (∀ (s : State) (n blk : Nat),
    let dirty := s.blockDirty n blk
    let room := (s.writeBackBlock n blk).2
    (dirty = true → ∃ t, exec (.viewWriteback n blk) s = .next t ∧
      (room = true → t.blockDirty n blk = false) ∧
      (room = false → blk ∈ (t.range n).waiting ∧ t.mem = s.mem ∧ t.viewDirty = s.viewDirty)) ∧
    (dirty = false → exec (.viewWriteback n blk) s = .next s) ∧
    (dirty = true → blk ∈ (s.range n).waiting → ∃ t, exec (.poolRetry n blk) s = .next t ∧
      (room = true → t.blockDirty n blk = false) ∧ (room = false → t = s)) ∧
    (dirty = false ∨ blk ∉ (s.range n).waiting → exec (.poolRetry n blk) s = .next s))

/-- R110, R111, R113, R159, R162: a line that leaves the L1 writes exactly its masked bytes; an uncorrectable error poisons a
sector and appends to the poison map; a write of the arbitration mode; the order gate releases the atomic that its log names
next, and ends its replay when no entry is left (the model's reading, log entry 48) or when an atomic has been held too long.
That MODE going from replay to record performs the held atomics unrecorded is the model's choice (log entry 92). Each of the
five rows completes on every state that its clauses name. -/
def Obligations.LineErrorAndGateEventsAct : Prop :=
  (∀ (s : State) (b line : Nat), s.MemOk →
    (∀ l d, (s.bench b).lines.find? (fun x => x.line == line) = some l → line < 2 ^ 36 →
      (∀ o ∈ l.masked, o < 256) → s.poisoned = [] →
      (∀ i, i < 256 → s.place (256 * line + i) = .lpddr d) →
      (∀ k, k < 4 → s.reach (dieOf b) (256 * line + 64 * k) 1 = none) →
      ∃ t, exec (.l1Evict b line) s = .next t ∧
        (t.bench b).lines = (s.bench b).lines.filter (fun x => x.line != line) ∧
        MemAfter s t fun a => if a / 256 = line ∧ a % 256 ∈ l.masked then some (l.bytes.get (a % 256) 0) else none) ∧
    ((∀ l ∈ (s.bench b).lines, l.line ≠ line) → exec (.l1Evict b line) s = .next s)) ∧
  (∀ (s : State) (pa src : Nat), s.MemOk →
    let sector := pa % 2 ^ 44 / 64
    let whole := s.dev.fabric.pkgid * 2 ^ 44 + 64 * sector
    let die := (s.homeDie whole).getD 0
    let p := s.dev.poison
    let at_ := p.base.toNat + 8 * (p.widx % 2 ^ p.log2n)
    let kept := ((∃ d, s.place pa = .lpddr d) ∧ (src = 0 ∨ src = 2)) ∨ ((∃ v, s.place pa = .vault v) ∧ (src = 1 ∨ src = 2))
    (kept → s.poisonOf sector = none → ∃ t, exec (.uncorrectableError pa src) s = .next t ∧
      t.poisoned = (sector, src) :: s.poisoned ∧
      (2 ^ p.log2n ≤ p.widx - p.ridx → t.mem = s.mem ∧ t.dev.poison = { p with ovf := true }) ∧
      (p.widx - p.ridx < 2 ^ p.log2n → Plain s die at_ 8 → at_ % 2 ^ 44 / 64 ≠ sector →
        t.dev.poison = { p with widx := p.widx + 1 } ∧
          MemAfter s t (runByte (at_ % 2 ^ 44) (leBytes 8 (whole % 2 ^ 56 + src * 2 ^ 56))))) ∧
    (kept → s.poisonOf sector ≠ none → exec (.uncorrectableError pa src) s = .next s) ∧
    (∀ b o, s.place pa = .store b o → src = 4 → s.poisonOf sector = none →
      ∃ t, exec (.uncorrectableError pa src) s = .next t ∧ t.poisoned = (sector, src) :: s.poisoned ∧ t.mem = s.mem ∧
        t.dev = s.dev) ∧
    (∀ n, s.place pa = .view n → src = 2 →
      ∃ t, exec (.uncorrectableError pa src) s = .next t ∧ (t.poisonOf sector).isSome = true)) ∧
  (∀ (s : State) (die : Nat) (v : W64),
    let a := (s.die die).arb
    let m := v.toNat % 4
    let ctx := bitsOf v.toNat 31 16
    (die < 2 → m = 3 ∨ m = a.mode → ∃ t, exec (.arbitrationModeWrite die v) s = .next t ∧ t.mem = s.mem ∧
      (t.die die).arb = { a with ctx := ctx }) ∧
    (die < 2 → a.mode ≠ 2 → m ≠ 3 → m ≠ a.mode → ∃ t, exec (.arbitrationModeWrite die v) s = .next t ∧ t.mem = s.mem ∧
      (t.die die).arb = { a with ctx := ctx, mode := m, head := none, last := none }) ∧
    (die < 2 → a.mode = 2 → m ≠ 3 → m ≠ 2 → ∃ t, exec (.arbitrationModeWrite die v) s = .next t ∧
      (t.die die).arb = { a with ctx := ctx, mode := m, head := none, held := [] } ∧ (a.held = [] → t.mem = s.mem)) ∧
    (2 ≤ die → exec (.arbitrationModeWrite die v) s = .next s)) ∧
  (∀ (s : State) (die : Nat),
    let a := (s.die die).arb
    let e := a.entryPa a.ridx
    (∀ h, a.mode = 2 → a.held = [h] → a.ridx = a.widx → ∃ t, exec (.gateRelease die) s = .next t ∧
      (t.die die).arb = { a with mode := 0, head := none, held := [] } ∧
      t.mem = ((s.heldL1 h).atomAt h.pa h.size h.op h.b h.c).2.mem) ∧
    (∀ h w, a.mode = 2 → a.held = [h] → a.ridx ≠ a.widx →
      (a.head = some w ∧ w < 2 ^ 128) ∨ (a.head = none ∧ Plain s die e 16 ∧ w = leNat (Mem.read s.mem (e % 2 ^ 44) 16)) →
      let names := bitsOf w 55 8 = h.pa % 2 ^ 56 / 256 ∧ bitsOf w 63 56 = h.grid % 256 ∧ bitsOf w 87 64 = h.group ∧
        bitsOf w 91 88 = h.wave
      let run := bitsOf w 127 96
      let next := (a.ridx + 1) % 2 ^ 64
      ∃ t, exec (.gateRelease die) s = .next t ∧
        (¬names → t.mem = s.mem ∧ (t.die die).arb = { a with head := some w }) ∧
        (names → t.mem = ((s.heldL1 h).atomAt h.pa h.size h.op h.b h.c).2.mem ∧
          (t.die die).arb = if 2 ≤ run then { a with held := [], head := some (setBits w 127 96 (run - 1)) }
            else { a with held := [], head := none, ridx := next, mode := if next = a.widx then 0 else a.mode })) ∧
    (a.mode ≠ 2 ∨ a.held = [] → exec (.gateRelease die) s = .next s)) ∧
  (∀ (s : State) (die : Nat),
    let a := (s.die die).arb
    let late := ∃ h ∈ a.held, h.since + 1000 * a.gateto ≤ s.dev.ptc.ptc
    (a.mode = 2 → late → ∃ t, exec (.ordergate die) s = .next t ∧
      (t.die die).arb = { a with mode := 0, head := none, gatef := true, held := [] } ∧ t.mem = s.mem) ∧
    (a.mode ≠ 2 ∨ ¬late → exec (.ordergate die) s = .next s))

/-- R288 to R290: a quote starts and is done; ACCEPT keeps the offered bits, and COMMIT sets DONE, after which neither
changes; the writes of both ports to one ownership semaphore. The 8 bytes of PKGID in the hashed text are the model's
choice (log entry 49).
R11, R291, R292: a cell's power request, the state that it reaches and its wake; the power limit, the clock steps, the
thermal trip, which halts every timed ring of the die's domain, an ARMED one too, when a program on the clock holds it, and the
thermal cut, after which no turn but a device reset does anything. -/
def Obligations.FeatureOwnershipAndPowerEventsAct : Prop :=
  (∀ (s : State),
     let k := s.dev.boot
     let f := s.dev.features
     (k.qdone = false → exec .qgo s = .next s) ∧
     (k.qdone = true → ∃ t, exec .qgo s = .next t ∧ t = { s with dev := t.dev, free := s.free + 1 } ∧
       t.dev.boot = { k with qdone := false, sig := t.dev.boot.sig }) ∧
     (k.qdone = true → exec .quoteDone s = .next s) ∧
     (k.qdone = false → ∃ t, exec .quoteDone s = .next t ∧ DevOnly s t ∧ t.dev.boot = { k with
       qdone := true,
       sig := identitySign (sha512
         (leBytes 64 k.meas.toNat ++ leBytes 32 k.nonce.toNat ++ leBytes 8 s.dev.fabric.pkgid)) }) ∧
     (∀ word v,
       (f.done = true ∨ 8 ≤ word → exec (.featureAccept word v) s = .next s) ∧
       (f.done = false → word < 8 → ∃ t, exec (.featureAccept word v) s = .next t ∧ DevOnly s t ∧
         t.dev.features.done = false ∧
         ∀ i, t.dev.features.accept.getLsbD i = if 64 * word ≤ i ∧ i < 64 * word + 64
           then v.getLsbD (i - 64 * word) && Config.offer.getLsbD i else f.accept.getLsbD i)) ∧
     (f.done = true → exec .featureCommit s = .next s) ∧
     (f.done = false → ∃ t, exec .featureCommit s = .next t ∧ DevOnly s t ∧ t.dev.features = { f with done := true }) ∧
     (∀ n a p,
       let o := s.dev.owners.get n {}
       let claimA := a.map (fun v : W64 => v.toNat % 4) = some 1
       let claimB := p.map (fun v : W64 => v.toNat % 4) = some 2
       (32 ≤ n → exec (.ownershipSemaphore n a p) s = .next s) ∧
       (n < 32 → ∃ t, exec (.ownershipSemaphore n a p) s = .next t ∧ DevOnly s t ∧
         (∀ j, j ≠ n → t.dev.owners.get j {} = s.dev.owners.get j {}) ∧
         let o' := t.dev.owners.get n {}
         (o.own = 0 → claimA → ¬claimB → o'.own = 1) ∧ (o.own = 0 → claimB → ¬claimA → o'.own = 2) ∧
         (o.own = 0 → claimA → claimB → o'.own = (if o.lastB then 1 else 2)) ∧
         (o.own = 0 → ¬claimA → ¬claimB → o' = o) ∧
         (o.own = 1 → o'.own = if a.map (fun v : W64 => v.toNat % 4) = some 0 then 0 else 1) ∧
         (o.own = 2 → o'.own = if p.map (fun v : W64 => v.toNat % 4) = some 0 then 0 else 2)))) ∧
  (∀ (s : State),
     let p := s.dev.power
     let device (i : Instr) (f : Power) : Prop := ∃ t, exec i s = .next t ∧ DevOnly s t ∧ t.dev = { s.dev with power := f }
     (∀ c v,
       let x := s.dev.cells.get c {}
       let goes (i : Instr) (y : CellPower) : Prop :=
         ∃ t, exec i s = .next t ∧ t.dev.cells.get c {} = y ∧ ∀ j, j ≠ c → t.dev.cells.get j {} = s.dev.cells.get j {}
       (32 ≤ c → exec (.cellPowerReq c v) s = .next s) ∧
       (c < 32 → v.getLsbD 0 = true → x.state ≠ 0 → goes (.cellPowerReq c v) { x with req := true }) ∧
       (c < 32 → v.getLsbD 0 = true → x.state = 0 → s.cellIdle c = false →
         goes (.cellPowerReq c v) { x with busy := true }) ∧
       (c < 32 → v.getLsbD 0 = true → x.state = 0 → s.cellIdle c = true →
         goes (.cellPowerReq c v) { req := true, state := 1, busy := false }) ∧
       (c < 32 → v.getLsbD 0 = false →
         goes (.cellPowerReq c v) { x with req := false, state := if x.state = 0 then 0 else 4 }) ∧
       (x.state ≠ 1 → x.state ≠ 2 → exec (.cellOffReached c) s = .next s) ∧
       (x.state = 1 ∨ x.state = 2 → goes (.cellOffReached c) { x with state := 3 }) ∧
       (x.state ≠ 4 → exec (.cellWakeDone c) s = .next s) ∧
       (x.state = 4 → goes (.cellWakeDone c) { x with state := 0 } ∧
         ∃ t, exec (.cellWakeDone c) s = .next t ∧ t.mem = s.mem ∧
           (∀ b, cellOf b = c → (t.bench b).tiles = [] ∧ (t.bench b).lines = []) ∧
           ∀ b, cellOf b ≠ c → t.bench b = s.bench b)) ∧
     (∀ v : W64,
       let n := bitsOf v.toNat 11 0
       device (.plim v) { p with plim := if 900 ≤ n ∧ n ≤ 2400 then n else p.plim, throt := p.throt && !v.getLsbD 28 }) ∧
     (∀ a b, device (.clockStepSelect a b)
       { p with step0 := if a ≤ 6 ∧ s.clockHeld 0 = false then a else p.step0,
                step1 := let b := if s.dev.boot.lockstep then a else b
                         if b ≤ 6 ∧ s.clockHeld 1 = false then b else p.step1 }) ∧
     (∀ die, 2 ≤ die → exec (.thermalTrip die) s = .next s) ∧
     (∀ die, die < 2 → s.clockHeld die = false → device (.thermalTrip die)
       { p with throt := true, step0 := if s.domain 0 = s.domain die then min 6 (p.step0 + 1) else p.step0,
                step1 := if s.domain 1 = s.domain die then min 6 (p.step1 + 1) else p.step1 }) ∧
     (∀ die, die < 2 → s.clockHeld die = true → ∃ t, exec (.thermalTrip die) s = .next t ∧ t.dev.power.throt = true ∧
       (∀ b k, s.domain (dieOf b) = s.domain die → (s.ring b k).timed = true → (s.ring b k).state = .running →
         (t.ring b k).state = .halted) ∧
       ∀ b k, s.domain (dieOf b) ≠ s.domain die → t.ring b k = s.ring b k) ∧
     device .thermalCut { p with off := true } ∧
     (p.off = true → s.nextTurn.1 ≠ .event .deviceReset → step s = .next s.nextTurn.2))

/-- R286, R287: device reset runs the boot: it stops in recovery at the first object that does not pass, with what was
measured until then, or ends with every cell on, the identity key in place and gaffer 0 in machine mode at the firmware;
a recovery image that stands in the window and passes is written to flash and the boot runs again, any other is discarded.
The model's choices: reset leaves memory as it was, but for the firmware, which a boot that ends lays at an address that the
spec does not give (log entry 51); a configuration record with a package id of 4096 or more does not pass (log entry 76); the
image offered is the one that the window's bytes are (log entry 78). -/
def Obligations.DeviceResetBoots : Prop :=
  ∀ (s : State),
    let c := s.dev.boot.flashConfig
    let m := s.dev.boot.flashImage
    let one (old : BitVec 512) (object : List Byte) : BitVec 512 :=
      sha512 (leBytes 64 old.toNat ++ leBytes 64 (sha512 object).toNat)
    let passes := verified c = true ∧ Config.recPkgid c < 4096 ∧ Config.trained c = true
    (∃ t, exec .deviceReset s = .next t ∧ t.dev.boot.flashConfig = c ∧ t.dev.boot.flashImage = m ∧
      (¬(passes ∧ verified m = true) → t.mem = s.mem) ∧
      (passes ∧ verified m = true → t.mem = Mem.write s.mem (Config.firmwareAt m % 2 ^ 44) m) ∧
      (∀ b, b ≠ 0 → t.bench b = State.reset.bench b) ∧ t.passes = State.reset.passes ∧ t.hosts = State.reset.hosts ∧
      (verified c = false → t.dev.boot.stage = 7 ∧ t.dev.boot.recov = true ∧ t.dev.boot.booterr = false ∧
        t.dev.boot.meas = 0 ∧ t.bench 0 = State.reset.bench 0) ∧
      (verified c = true → 4096 ≤ Config.recPkgid c →
        t.dev.boot.stage = 7 ∧ t.dev.boot.recov = true ∧ t.dev.boot.meas = one 0 c ∧ t.bench 0 = State.reset.bench 0) ∧
      (verified c = true → Config.recPkgid c < 4096 → t.dev.fabric.pkgid = Config.recPkgid c ∧
        t.dev.power.plim = Config.recPlim c % 4096 ∧ t.dev.boot.lockstep = Config.recLockstep c ∧
        (verified m = false → t.dev.boot.stage = 7 ∧ t.dev.boot.recov = true ∧ t.dev.boot.meas = one 0 c) ∧
        (verified m = true → t.dev.boot.meas = one (one 0 c) m) ∧
        (verified m = true → Config.trained c = false →
          t.dev.boot.stage = 7 ∧ t.dev.boot.recov = true ∧ t.dev.boot.booterr = true) ∧
        (verified m = true → Config.trained c = true →
          t.dev.boot.stage = 5 ∧ t.dev.boot.recov = false ∧ t.dev.boot.idpub = identity ∧ t.dev.cells = [] ∧
          (t.bench 0).gaffer.pc = Config.firmwareEntry m ∧ (t.bench 0).gaffer.mode = .m))) ∧
    (∀ image,
      let k := s.dev.boot
      let stands := k.recov = true ∧ image ≠ [] ∧ k.window.take image.length = image
      (¬stands → exec (.recoveryImage image) s = .next s) ∧
      (stands → verified image = false → ∃ t, exec (.recoveryImage image) s = .next t ∧ DevOnly s t ∧
        t.dev.boot = { k with window := [] }) ∧
      (stands → verified image = true → ∃ t, exec (.recoveryImage image) s = .next t ∧
        t.dev.boot.flashImage = image ∧ (¬passes → t.mem = s.mem) ∧
        (passes → t.dev.boot.stage = 5 ∧ t.dev.boot.recov = false ∧ (t.bench 0).gaffer.pc = Config.firmwareEntry image ∧
          t.mem = Mem.write s.mem (Config.firmwareAt image % 2 ^ 44) image)))

/-- R5, R116, R185, R188, R197, R257, R275, R290: writes of the scheduling registers and package time. A refused write has
no effect; a whole message block goes to a mailbox that has a place; a QoS window begins at a multiple of 1,000 ns. Then the
writes of CSRs and device registers under every access code of R5: RW sets the value (the fields that a register defines;
the ones of an engine under RSEL where a ring is bound there), W1C clears what is written 1 (XIP, the poison map's OVF), WO acts
and keeps nothing (QGO, COMMIT), and RO, an unlisted CSR and an address with no register are ignored. -/
def Obligations.SchedulingRegistersAct : Prop :=
  ∀ (s : State) (v : W64),
    let n := v.toNat
    (∀ q,
      (64 ≤ q ∨ (v.getLsbD 19 = true ∧ s.dev.features.done = false) → exec (.launchQueueWrite q v) s = .next s) ∧
      (q < 64 → v.getLsbD 19 = false ∨ s.dev.features.done = true → ∃ t, exec (.launchQueueWrite q v) s = .next t ∧
        DevOnly s t ∧ (∀ j, j ≠ q → t.queue j = s.queue j) ∧
        t.queue q = { s.queue q with ctx := if (s.queue q).v then (s.queue q).ctx else bitsOf n 15 0,
                                     pri := bitsOf n 18 16, v := v.getLsbD 19 })) ∧
    ((∃ p ∈ s.dev.queues, p.2.v = true) → exec (.contextTableWrite v) s = .next s) ∧
    ((∀ p ∈ s.dev.queues, p.2.v = false) → ∃ t, exec (.contextTableWrite v) s = .next t ∧ DevOnly s t ∧
      t.dev.ctxBase.toNat = bitsOf n 55 6 ∧
      t.dev.ctxL2n = if bitsOf n 59 56 ≤ 12 then bitsOf n 59 56 else s.dev.ctxL2n) ∧
    (∀ b p word,
      let y := (s.bench b).parts.get p {}
      let sum (f : Part → Nat) : Nat :=
        ((List.range 8).filter (· != p)).foldl (fun a k => a + f ((s.bench b).parts.get k {})) 0
      let past := bitsOf n 11 6 < bitsOf n 17 12 ∨ 32 < bitsOf n 5 0 + sum (·.wq) ∨ 32 < bitsOf n 11 6 + sum (·.gq) ∨
        4096 < bitsOf n 36 24 + bitsOf n 49 37 + sum fun x => x.rq + x.sq
      (256 ≤ b ∨ 8 ≤ p ∨ word ≠ 0 ∨ past → exec (.partitionWrite b p word v) s = .next s) ∧
      (b < 256 → p < 8 → word = 0 → ¬past → ∃ t, exec (.partitionWrite b p word v) s = .next t ∧ BenchOnly s t b ∧
        (t.bench b).parts.get p {} = { y with wq := bitsOf n 5 0, gq := bitsOf n 11 6, gres := bitsOf n 17 12,
                                              rq := bitsOf n 36 24, sq := bitsOf n 49 37 })) ∧
    (∀ b,
      let ws := s.dev.messages.get b []
      let word (i : Nat) : Nat := if i = 7 then n else ((ws.find? fun p => p.1 == i).map (·.2.toNat)).getD 0
      (256 ≤ b → exec (.portBMessage b v) s = .next s) ∧
      (b < 256 → s.cellOn (cellOf b) = true → (s.bench b).mailbox.length < 16 →
        ∃ t, exec (.portBMessage b v) s = .next t ∧ t.mem = s.mem ∧
          (t.bench b).mailbox = (s.bench b).mailbox ++ [(0x1FF, (List.range 8).flatMap fun i => leBytes 8 (word i))]) ∧
      (b < 256 → s.cellOn (cellOf b) = false ∨ 16 ≤ (s.bench b).mailbox.length →
        ∃ t, exec (.portBMessage b v) s = .next t ∧ DevOnly s t)) ∧
    (let p := s.dev.ptc
     let lets := p.role = 2 ∧ s.timedBusy = false ∧ p.ptc ≤ n
     (lets → ∃ t, exec (.ptcWrite v) s = .next t ∧ DevOnly s t ∧ t.dev.ptc = { p with ptc := n }) ∧
     (¬lets → exec (.ptcWrite v) s = .next s)) ∧
    (∃ t, exec .qosWindow s = .next t ∧ DevOnly s t ∧
      t.dev = { s.dev with qosWindow := s.dev.ptc.ptc - s.dev.ptc.ptc % 1000 }) ∧
    (∀ b,
      let csr (num : Nat) (c : XCsrs) : Prop := ∃ t, exec (.registerWrite (.csr b num) v) s = .next t ∧ BenchOnly s t b ∧
        t.bench b = { s.bench b with csr := c }
      let c := (s.bench b).csr
      csr 0x5C0 { c with rsel := n % 16 } ∧ csr 0x5D2 { c with psel := n % 8 } ∧ csr 0x5D6 { c with csidx := n % 4096 } ∧
      csr 0x5D8 { c with cxsel := n % 65536 } ∧ csr 0x5DC { c with smsel := n % 256 } ∧ csr 0x5E0 { c with rplarg := v } ∧
      csr 0x5D0 { c with gsel := v &&& 0x0FFF0FFF } ∧ csr 0x5DA { c with cxhwm := n % 2 ^ 21 } ∧
      csr 0x5F1 { c with xie := w64 (n % 2 ^ 20) } ∧
      csr 0x5F0 { c with wmk := c.wmk &&& ~~~BitVec.ofNat 16 n, flt := c.flt && !v.getLsbD 16,
                         hlt := c.hlt && !v.getLsbD 18, mgt := c.mgt && !v.getLsbD 19 } ∧
      (let r := (s.bench b).ring c.rsel
       let selected (num : Nat) (e : EngCtx) : Prop :=
         (r.bound = false → exec (.registerWrite (.csr b num) v) s = .next s) ∧
         (r.bound = true → ∃ t, exec (.registerWrite (.csr b num) v) s = .next t ∧ BenchOnly s t b ∧
           (t.bench b).eng r.eng r.ctx = e ∧ { t.bench b with engs := [] } = { s.bench b with engs := [] })
       let e := (s.bench b).eng r.eng r.ctx
       selected 0x5C8 { e with tmask := v.setWidth 8 } ∧ selected 0x5C9 { e with vgrant := v.setWidth 32 } ∧
       selected 0x5CA { e with trbase := (v &&& ~~~63).setWidth 22 } ∧
       selected 0x5CB (if n ≤ 256 then { e with pgdist := v.setWidth 9 } else e) ∧
       selected 0x5CC { e with windowZero := n % 2 ^ 32, escOvf := n / 2 ^ 32 } ∧
       selected 0x5CD { e with t5Bad := n % 2 ^ 32, satI32 := n / 2 ^ 32 }) ∧
      (∀ num, num < 0x5C0 ∨ 0x5F1 < num ∨ num ∈ [0x5C3, 0x5C4, 0x5C5, 0x5C6, 0x5C7, 0x5D4, 0x5D5, 0x5DB, 0x5DE, 0x5E3] →
        exec (.registerWrite (.csr b num) v) s = .next s)) ∧
    (let put (o : Nat) (d : Device) : Prop :=
       ∃ t, exec (.registerWrite (.dev (deviceBase + o)) v) s = .next t ∧ DevOnly s t ∧ t.dev = d
     let keeps (o : Nat) : Prop := exec (.registerWrite (.dev (deviceBase + o)) v) s = .next s
     let d := s.dev
     let m := d.poison
     let k := d.boot
     (∀ p, p < 4096 → ∃ t, exec (.registerWrite (.dev (deviceBase + 0xA1000 + 8 * p)) v) s = .next t ∧ DevOnly s t ∧
       (t.dev.fabric.routes.get p 0).toNat = n % 2 ^ 24) ∧
     (∀ w, w < 4 → ∃ t, exec (.registerWrite (.dev (deviceBase + 0x110200 + 8 * w)) v) s = .next t ∧ DevOnly s t ∧
       ∀ i, t.dev.boot.nonce.getLsbD i = if 64 * w ≤ i ∧ i < 64 * w + 64 then v.getLsbD (i - 64 * w) else k.nonce.getLsbD i) ∧
     put 0x30000 { d with poison := { m with base := BitVec.ofNat 56 (bitsOf n 55 3 * 8) } } ∧
     put 0x30008 { d with poison := { m with log2n := if 4 ≤ n % 32 ∧ n % 32 ≤ 20 then n % 32 else m.log2n } } ∧
     put 0x30018 { d with poison := { m with ridx := n } } ∧
     put 0x30020 { d with poison := { m with ovf := m.ovf && !v.getLsbD 0 } } ∧
     put 0xC0000 { d with ptc := { d.ptc with role := if n % 4 = 3 then d.ptc.role else n % 4,
                                              ports := BitVec.ofNat 24 (n / 256) } } ∧
     (v.getLsbD 0 = true → k.qdone = true →
       ∃ t, exec (.registerWrite (.dev (deviceBase + 0x110220)) v) s = .next t ∧ t.dev.boot.qdone = false) ∧
     (v.getLsbD 0 = false ∨ k.qdone = false → keeps 0x110220) ∧
     (v.getLsbD 0 = true → d.features.done = false →
       put 0x120080 { d with features := { d.features with done := true } }) ∧
     (v.getLsbD 0 = false ∨ d.features.done = true → keeps 0x120080) ∧
     keeps 0x30010 ∧ keeps 0xC0010 ∧ (∀ w, w < 13 → keeps (0x110000 + 8 * w)) ∧
     (∀ w, w < 8 → keeps (0x110240 + 8 * w) ∧ keeps (0x120000 + 8 * w) ∧ keeps (0xA0000 + 8 * w)) ∧
     (∀ q w, q < 64 → 0 < w → w < 4 → keeps (0x70000 + 32 * q + 8 * w)) ∧
     (∀ b w, b < 256 → w < 8 → keeps (0xD0000 + 128 * b + 8 * w))) ∧
    (∀ pa, pa % 8 ≠ 0 ∨ DevReg.ofOff (pa % 2 ^ 44 - deviceBase) = none → exec (.registerWrite (.dev pa) v) s = .next s)

/-- R193 to R195, R199, R230, R233: the head of a queue whose dependences are met evaluates its predicate; a die places the
groups of its eligible head, and a pass its mesh group; a segment that ends is signalled, and the pass goes on when its
semaphore grants. -/
def Obligations.DistributorAndSplitEventsAct : Prop :=
  (∀ (s : State) (q : Nat),
    let k := s.queue q
    (k.head = none → exec (.launchPredicate q) s = .next s) ∧
    (∀ l, k.head = some l →
      let met := l.stage = 1 ∧ ∀ i, i < 4 → s.depMet l i = true
      let cmp := recF l.record 249 247
      let goes (s : State) : Prop := ∃ t, exec (.launchPredicate q) s = .next t ∧
        (t.queue q).head = some { l with stage := 3, since := s.dev.ptc.ptc }
      let lost := l.stage = 1 ∧ s.names s.ringAborted [] l = true
      (¬met → ¬lost → exec (.launchPredicate q) s = .next s) ∧
      (lost → exec (.launchPredicate q) s = .next (s.discard s.ringAborted [])) ∧
      (met → cmp = 0 → goes s) ∧
      (∀ w s1, met → cmp ≠ 0 → s.predicateWord k.ctx (sextVa (recF l.record 246 192 * 4)) = .ok (w, s1) →
        (predHolds cmp w (recF l.record 287 256) = true → goes s) ∧
        (predHolds cmp w (recF l.record 287 256) = false → ∃ t, exec (.launchPredicate q) s = .next t ∧
          (l.num ≤ k.acc → l.num ≤ (t.queue q).sta) ∧ ∀ x ∈ (t.queue q).launches, x.num ≠ l.num)))) ∧
  (∀ (s : State) (die : Nat),
    (s.eligible die = [] → exec (.placeGroup die) s = .next s) ∧
    (∀ q pr l w, s.eligible die = [(q, pr, l, w)] →
      (pr < 7 → s.meshEligible die = true → exec (.placeGroup die) s = .next s) ∧
      (7 ≤ pr ∨ s.meshEligible die = false → (w.map (·.1)).Nodup → ∃ t, exec (.placeGroup die) s = .next t ∧
        ∀ p ∈ w, ∃ g, t.group? p.1 p.2.gslot = some g ∧ g.ctx = (s.queue q).ctx ∧ g.part = recPart l.record ∧
          g.origin = .grid q l.num ∧ g.launch = l.launch ∧ g.waves = p.2.waves ∧ g.granules = p.2.scratch ∧
          g.scratch = 1024 * recScg l.record))) ∧
  (∀ (s : State) (ctx pn : Nat),
    (s.pass? ctx pn = none → exec (.meshGroupPlace ctx pn) s = .next s ∧ exec (.tilingSplit ctx pn) s = .next s ∧
      exec (.splitResume ctx pn) s = .next s) ∧
    (∀ p, s.pass? ctx pn = some p →
      (p.queue = [] → exec (.meshGroupPlace ctx pn) s = .next s) ∧
      (∀ m rest,
        let fit := s.bestBench ctx p.mrec false ((s.benches.map (·.1)).filter fun b => passIn p.record (cellOf b))
        let key := m.task * 256 + m.midx
        p.queue = m :: rest →
        (fit = none → exec (.meshGroupPlace ctx pn) s = .next s) ∧
        (∀ b ft, fit = some (b, ft) → ∃ t, exec (.meshGroupPlace ctx pn) s = .next t ∧
          t.pass? ctx pn = some { p with queue := rest, meshId := p.meshId + 1, meshLive := p.meshLive + 1 } ∧
          ∃ g, t.group? b ft.gslot = some g ∧ g.ctx = ctx ∧ g.origin = .mesh pn key ∧ g.groupId = p.meshId ∧
            g.waves = ft.waves)) ∧
      (s.passBad p = none → (p.split ≠ 1 ∧ p.split ≠ 4) ∨ s.passRuns p = false ∨ s.remoteOpen p.who = true →
        exec (.tilingSplit ctx pn) s = .next s) ∧
      (let signals (s1 : State) (q : Pass) : Prop :=
         let s2 := s1.release p.bench 5
         let k := (s2.bench p.bench).physical ctx (recF p.record 295 288)
         let n := (s2.bench p.bench).sem k
         ∃ t, exec (.tilingSplit ctx pn) s = .next t ∧
           (n + 1 < 2 ^ 32 → t.pass? ctx pn = some { q with split := 2 } ∧ (t.bench p.bench).sem k = n + 1) ∧
           (2 ^ 32 ≤ n + 1 → t.pass? ctx pn = some { q with split := 4, halted := true } ∧
             (p.homeless = false → (s.ring p.bench p.slot).bound = true → (t.ring p.bench p.slot).state = .halted))
       s.passBad p = none → s.passRuns p = true → s.remoteOpen p.who = false →
         (p.split = 4 → signals s p) ∧
         (∀ s1, p.split = 1 →
           let q : Pass := { p with segs := p.segs + 1, split := 4 }
           (s.modPass ctx pn fun _ => q).passWrites ctx pn (cellOf p.bench) [q.statusWrite true] = (true, s1) →
           (s1.remoteOpen p.who = false → signals s1 q) ∧
           (s1.remoteOpen p.who = true → ∃ t, exec (.tilingSplit ctx pn) s = .next t ∧ t.pass? ctx pn = some q))) ∧
      ((p.split ≠ 2 ∧ p.split ≠ 3) ∨ s.passRuns p = false → exec (.splitResume ctx pn) s = .next s) ∧
      (let p' : Pass := { p with split := 0, nextch := passC0 p.record, segMesh := 0, recFill := [], heads := [] }
       let n := 16 * passTiles p.record
       ∀ s1, p.split = 3 → s.passRuns p = true →
         (s.modPass ctx pn fun _ => p').passWrites ctx pn (cellOf p.bench) (((List.range (cdiv n 128)).map fun k =>
           (passPb p.record + 128 * k, List.replicate (min 128 (n - 128 * k)) (0 : Byte))) ++ [p'.statusWrite true]) = (true, s1) →
         ∃ t, exec (.splitResume ctx pn) s = .next t ∧ t.pass? ctx pn = some p')))

/-- R29, R30, R149, R151, R305, R327, R339, R340, R401, R409, R442: what moves a parked fragment. A semaphore grants a unit to
its first waiter; a barrier that every wave has reached lets each go on; a timeline wait that is met writes the timeline; a
sleep ends; a spilled entry is filled; an unassigned OPC takes ILLEGAL. -/
def Obligations.WaveEventsAct : Prop :=
  (∀ (s : State) (w : W64) (cx : Wcx), s.wcx = some cx →
    exec (.unassignedOpc w) s = .next (s.fault cx (raiseOf Cause.illegal))) ∧
  (∀ (s : State) (b ctr : Nat),
    let x := s.bench b
    ((∀ p ∈ x.semWaits, p.1 ≠ ctr) ∨ x.sem ctr = 0 → exec (.semaphoreGrant b ctr) s = .next s) ∧
    (∀ pre w ws, x.semWaits = pre ++ (ctr, w) :: ws → (∀ p ∈ pre, p.1 ≠ ctr) → x.sem ctr ≠ 0 →
      ∃ t, exec (.semaphoreGrant b ctr) s = .next t ∧ t.mem = s.mem ∧ (t.bench b).sem ctr = x.sem ctr - 1 ∧
      (∀ j, j ≠ ctr → (t.bench b).sem j = x.sem j) ∧ (t.bench b).semWaits = pre ++ ws ∧
      (∀ slot e, w = .frag slot e → t.frag? b slot e =
        (s.frag? b slot e).map fun f => { f with pc := f.pc + 8, wait := none, since := s.cycle b }) ∧
      (∀ k, w = .ring k → t.ring b k = { s.ring b k with tookWait := true }) ∧
      (∀ c rd, w = .gaffer → x.gaffer.blocked = some (.sem c rd) → (t.bench b).gaffer = x.gaffer.unblock rd 0) ∧
      (∀ ctx pn, w = .pass ctx pn → t.pass? ctx pn = (s.pass? ctx pn).map fun p => { p with split := 3 }))) ∧
  (∀ (s : State) (b g : Nat) (x : Group), s.group? b g = some x →
    let ws := (s.bench b).waves
    (groupArrived ws x .bar = false → exec (.barrierComplete b g) s = .next s) ∧
    (groupArrived ws x .bar = true → x.waves.Nodup → (∀ n w, ws.get? n = some w → (w.frags.map (·.1)).Nodup) →
      ∃ t, exec (.barrierComplete b g) s = .next t ∧ t.mem = s.mem ∧
        ∀ n e f, s.frag? b n e = some f → t.frag? b n e = some (if n ∈ x.waves ∧ f.wait = some .bar then
          { f with pc := f.pc + 8, wait := none, since := s.cycle b } else f)) ∧
    (let slots := if x.cluster = [] then [(b, g)] else x.cluster
     (∀ m y, m ∈ slots → s.member x m.1 m.2 = some (y, (s.bench m.1).waves, false) →
       groupArrived (s.bench m.1).waves y .cbar = false → exec (.clusterBarrierComplete b g) s = .next s) ∧
     ((slots.map (·.1)).Nodup →
       (∀ m ∈ slots, ∃ y, s.member x m.1 m.2 = some (y, (s.bench m.1).waves, false) ∧
         groupArrived (s.bench m.1).waves y .cbar = true ∧ y.waves.Nodup) →
       (∀ k n w, (s.bench k).waves.get? n = some w → (w.frags.map (·.1)).Nodup) →
       ∃ t, exec (.clusterBarrierComplete b g) s = .next t ∧ t.mem = s.mem ∧
         ∀ m y n e f, m ∈ slots → s.member x m.1 m.2 = some (y, (s.bench m.1).waves, false) → s.frag? m.1 n e = some f →
           t.frag? m.1 n e = some (if n ∈ y.waves ∧ f.wait = some .cbar then
             { f with pc := f.pc + 8, wait := none, since := s.cycle m.1 } else f)))) ∧
  (∀ (s : State) (b g : Nat), s.group? b g = none →
    exec (.barrierComplete b g) s = .next s ∧ exec (.clusterBarrierComplete b g) s = .next s) ∧
  (∀ (s : State) (b slot e : Nat) (w : Wave) (f : Frag) (sel v sd : Nat), s.wave? b slot = some w → w.frags.get? e = some f →
    f.wait = some (.timeline sel v sd) →
    let tl := s.tl (.ofSel sel)
    (tlMet tl v = false → exec (.timelineWaitMet (.frag b slot e)) s = .next s) ∧
    (tlMet tl v = true → ∃ t w', exec (.timelineWaitMet (.frag b slot e)) s = .next t ∧ t.mem = s.mem ∧
      t.wave? b slot = some w' ∧ w'.s = w.s.set sd (w64 tl) ∧
      w'.frags.get? e = some { f with pc := f.pc + 8, wait := none, since := s.cycle b } ∧
      ∀ j, j ≠ e → w'.frags.get? j = w.frags.get? j)) ∧
  (∀ (s : State) (b sel v rd : Nat), (s.bench b).gaffer.blocked = some (.timeline sel v rd) →
    let h := (s.bench b).gaffer
    let tl := s.tl (.ofSel sel)
    (h.aborted = true ∨ tl < v → exec (.timelineWaitMet (.gaffer b)) s = .next s) ∧
    (h.aborted = false → v ≤ tl → ∃ t, exec (.timelineWaitMet (.gaffer b)) s = .next t ∧ t.mem = s.mem ∧
      (t.bench b).gaffer = h.unblock rd (w64 tl))) ∧
  (∀ (s : State) (b slot e : Nat) (w : Wave) (f : Frag) (till : Option Nat), s.wave? b slot = some w →
    w.frags.get? e = some f → f.wait = some (.sleep till) →
    let past := (∃ g, s.group? b w.group = some g ∧ g.uli ≠ 0) ∨ ∃ c, till = some c ∧ c ≤ s.cycle b
    (past → ∃ t, exec (.sleepExpiry b slot e) s = .next t ∧ t.mem = s.mem ∧
      t.frag? b slot e = some { f with pc := f.pc + 8, wait := none, since := s.cycle b }) ∧
    (¬past → exec (.sleepExpiry b slot e) s = .next s)) ∧
  (∀ (s : State) (b slot e : Nat) (w : Wave) (f : Frag) (g : Group), s.wave? b slot = some w → w.frags.get? e = some f →
    s.group? b w.group = some g →
    (f.onChip = true → exec (.splitTableFill b slot e) s = .next s) ∧
    (16 ≤ w.onChip.length → w.victim [] = none → exec (.splitTableFill b slot e) s = .next s) ∧
    (∀ s1, f.onChip = false → s.fragReady b slot e w { f with onChip := true } = true → (s.bench b).waves = [(slot, w)] →
      (∀ p ∈ w.frags, p.1 ≠ e → (f.ready (s.cycle b)).since < (p.2.ready (s.cycle b)).since) → (w.frags.map (·.1)).Nodup →
      w.onChip.length < 16 ∨ w.victim [] ≠ none → s.fillEntry b slot g.ctx e = .ok s1 →
      exec (.splitTableFill b slot e) s = .next s1 ∧ (s1.frag? b slot e).map (·.onChip) = some true))

/-- R40, R181, R204, R213, R219 to R221, R276, R352, R353, R438: a user-level interrupt is delivered to a wave, or the wave is
suspended until the answer to the write of a frame that lies in another package, or the frame's fault goes to the latch; a lane
copy is performed or parks; the watchdog reports a parked fragment, one that a sibling's PRIVGROW parks too, and a ring with
commands left, which stay as they are; a timed ring halts at a missing command; timed rings start together at their tick.
The model's choices: an interrupt is delivered only where a fragment outside a bypass window would issue its next instruction
(log entry 62); a command is missing 256 cycles after the last one and the slip (log entry 74); which units the watchdog takes
as parked, a fragment that only awaits its accesses not among them (log entry 75). -/
def Obligations.InterruptCopyAndTimingEventsAct : Prop :=
  (∀ (s : State) (b slot : Nat) (w : Wave) (g : Group), s.wave? b slot = some w → s.group? b w.group = some g →
    let blk := s.ctxBlock g.ctx
    let va := (blk.ulistk.toNat + (32 * b + slot) * 256) % 2 ^ 64
    let ready := s.delivers b slot w
    let lets := g.uli ≠ 0 ∧ blk.ulivec ≠ 0 ∧ g.waves.find? (fun n => (s.wave? b n).any fun x => x.frags != []) = some slot ∧
      w.inHandler = false
    (∀ r ∈ s.dev.fabric.remotes, ∀ e, r.who ≠ .frag b slot e) →
    (ready = [] ∨ ¬lets → exec (.uliDelivery b slot) s = .next s) ∧
    (ready ≠ [] → lets → w.onChip.length < 16 → ∃ t, exec (.uliDelivery b slot) s = .next t ∧
      ((∃ w' e h, t.wave? b slot = some w' ∧ w'.sreg 62 = w64 g.uli.toNat ∧ w'.sreg 63 = w64 va ∧ w'.frame = w64 va ∧
          w'.frags.get? e = some h ∧ h.handler = true ∧ h.mask = w.liveLanes ∧ h.pc = blk.ulivec ∧
          (∀ j f, j ≠ e → w.frags.get? j = some f → w'.frags.get? j = some { f with susp := true }) ∧
          t.group? b w.group = some { g with uli := 0 }) ∨
        (∃ w' e f, t.wave? b slot = some w' ∧ e ∈ ready ∧ w.frags.get? e = some f ∧
          w'.frags.get? e = some { f with susp := true, wait := some .remote } ∧
          (∀ j f, j ≠ e → w.frags.get? j = some f → w'.frags.get? j = some { f with susp := true }) ∧
          t.group? b w.group = some g) ∨
        ∃ c, (t.bench b).latch.record.isSome = true ∧
          ∀ e ∈ ready, (t.frag? b slot e).bind (·.wait) = some (.fault c)))) ∧
  (∀ (s : State) (b id : Nat),
    ((∀ c ∈ (s.bench b).copies, c.id ≠ id) → exec (.laneCopy b id) s = .next s) ∧
    (∀ c, (s.bench b).copies.find? (fun x => x.id == id) = some c →
      let k := (s.bench b).ctx c.ctx
      let stops := c.parked = true ∨ k.draining = true ∨ k.drained = true ∨ k.saved = true
      (stops → exec (.laneCopy b id) s = .next s) ∧
      (∀ s1, ¬stops → s.performCopy b c = .ok s1 → ∃ t, exec (.laneCopy b id) s = .next t ∧ t.mem = s1.mem ∧
        ∀ x ∈ (t.bench b).copies, x.id ≠ id) ∧
      (∀ r, ¬stops → s.performCopy b c = .error r → ∃ t, exec (.laneCopy b id) s = .next t ∧
        ∃ x ∈ (t.bench b).copies, x.id = id ∧ x.parked = true))) ∧
  (∀ (s : State) (b slot e : Nat) (w : Wave) (f : Frag) (g : Group), s.wave? b slot = some w → w.frags.get? e = some f →
    s.group? b w.group = some g →
    ((f.parked = false ∧ w.holds e = false) ∨ (s.bench b).ctxStops g.ctx = true →
      exec (.watchdog (.frag b slot e)) s = .next s) ∧
    (f.parked = true ∨ w.holds e = true → (s.bench b).ctxStops g.ctx = false → ∃ t, exec (.watchdog (.frag b slot e)) s = .next t ∧
      (∀ k j, t.frag? b k j = s.frag? b k j) ∧
      ∃ n x, (t.bench b).waitTable.get? n = some x ∧ Parker.frag g.ctx slot e ∈ x.parkers)) ∧
  (∀ (s : State) (b slot : Nat),
    let r := s.ring b slot
    let idle := r.state ≠ .running ∨ r.tl = r.wp ∨ (s.bench b).ctxStops r.ctx = true
    (idle → exec (.watchdog (.ring b slot)) s = .next s) ∧
    (¬idle → ∃ t, exec (.watchdog (.ring b slot)) s = .next t ∧ t.ring b slot = r ∧
      ((s.bench b).latch.record.isSome = true →
        (t.bench b).latch.pending.length = (s.bench b).latch.pending.length + 1)) ∧
    (let missing := r.timed = true ∧ r.state = .running ∧ r.begun = true ∧ r.armed = false ∧ r.rp = r.wp ∧ r.fin = none ∧
       (s.bench b).ringStops r = false ∧ r.lastT + 256 + r.slip < s.cycle b
     (missing → ∃ t, exec (.missingCommand b slot) s = .next t ∧
       t.ring b slot = { r with state := .halted, fin := none, armed := false } ∧ (t.bench b).csr.hlt = true) ∧
     (¬missing → exec (.missingCommand b slot) s = .next s))) ∧
  (∀ (s : State) (die tick : Nat),
    (s.domain die ≠ die ∨ s.dev.ptc.ptc < tick → exec (.timedRingRendezvous die tick) s = .next s) ∧
    (∀ b m rd, s.domain die = die → (s.die die).tkbars = [(b, tick, m)] → (s.bench b).gaffer.blocked = some (.tick tick rd) →
      (s.dev.ptc.ptc = tick → ∃ t, exec (.timedRingRendezvous die tick) s = .next t ∧ t.mem = s.mem ∧
        (t.die die).tkbars = [] ∧ (t.bench b).gaffer = (s.bench b).gaffer.unblock rd 0 ∧
        ∀ k, k < 16 → m.testBit k = true → (s.ring b k).timed = true → (s.ring b k).armed = true →
          (s.ring b k).state = .running → t.ring b k =
            { s.ring b k with armed := false, begun := true, first := true, lastT := (s.die die).cycle, slip := 0 }) ∧
      (tick < s.dev.ptc.ptc → ∃ t, exec (.timedRingRendezvous die tick) s = .next t ∧ (t.die die).tkbars = [] ∧
        (t.bench b).gaffer = (s.bench b).gaffer.unblock rd (refusal Cause.timing) ∧
        ∀ k, k < 16 → m.testBit k = true → (t.ring b k).state = .halted)))

/-- R264 to R269, R272, R275, R276, R278: a flit for this package. A request that no ingress window admits is answered with
STS 1; an admitted one reads, writes, or acts on local memory or a counter and is answered; a packet is gathered from its
pieces, and, after what is due at this time, a whole one that its root group takes is held until the other input of its tile
is there, when the two are merged, delivered and emitted, and one that no group takes, or a bad one, is counted; a SYNC never moves package time back; a response meets its request. A flit of another type or for another package
changes nothing, but one of a reserved type is counted. The place of c in an AT payload is the model's reading (log
entry 27).
R264, R265, R269: a port comes up or goes down; the link between the dies goes down, with the management interrupt, and
in package lockstep every timed ring that runs, ARMED or not, halts; a request that has no response in time gets its time-out. -/
def Obligations.FlitAndLinkEventsAct : Prop :=
  (∀ (s : State) (f : Flit), s.MemOk →
     let x := s.dev.fabric
     let ours := f.dst = x.pkgid
     let reply (t : State) (type sts : Nat) (bs : List Byte) : Prop := t.dev.fabric.outbox = x.outbox ++
       [{ type := type, vc := 1, dst := f.src, src := x.pkgid, tag := f.tag, len := bs.length, sts := sts, aop := 0, asz := 0,
          addr := 0, payload := bs }]
     let pa := x.pkgid * 2 ^ 44 + f.addr
     let plain (n : Nat) : Prop := Plain s (s.nearDie pa) pa n
     let odd := f.aop % 2 = 1 ∧ f.len ≠ 0 ∧ f.addr % f.len ≠ 0
     let n := 4 * 2 ^ f.asz
     let legal := f.aop ≤ 11 ∧ f.asz ≤ 2 ∧ (f.asz = 2 → f.aop = 1)
     let k := f.addr % 2 ^ 20
     let c := (s.bench (k / 256)).sem (k % 256)
     (¬ours → ∀ mk ∈ ([.rdFlit, .wrFlit, .atFlit, .sigFlit, .compFlit, .syncFlit, .rdrFlit, .wraFlit, .atrFlit, .sigaFlit] :
       List (Flit → Instr)), exec (mk f) s = .next s) ∧
     (ours → f.type = 0 →
       (s.admits false 2 f f.addr f.len = false → ∃ t, exec (.rdFlit f) s = .next t ∧ DevOnly s t ∧ reply t 1 1 []) ∧
       (s.admits false 2 f f.addr f.len = true → odd → ∃ t, exec (.rdFlit f) s = .next t ∧ DevOnly s t ∧ reply t 1 3 []) ∧
       (s.admits false 2 f f.addr f.len = true → ¬odd → plain f.len → ∃ t, exec (.rdFlit f) s = .next t ∧ DevOnly s t ∧
         reply t 1 0 (Mem.read s.mem (pa % 2 ^ 44) f.len))) ∧
     (ours → f.type = 2 →
       (s.admits false 3 f f.addr f.len = false → ∃ t, exec (.wrFlit f) s = .next t ∧ DevOnly s t ∧ reply t 3 1 []) ∧
       (s.admits false 3 f f.addr f.len = true → odd → ∃ t, exec (.wrFlit f) s = .next t ∧ DevOnly s t ∧ reply t 3 3 []) ∧
       (s.admits false 3 f f.addr f.len = true → ¬odd → plain (f.payload.take f.len).length →
         ∃ t, exec (.wrFlit f) s = .next t ∧ reply t 3 0 [] ∧ t.benches = s.benches ∧
           MemAfter s t (runByte (pa % 2 ^ 44) (f.payload.take f.len)))) ∧
     (ours → f.type = 4 →
       (s.admits false 4 f f.addr n = false → ∃ t, exec (.atFlit f) s = .next t ∧ DevOnly s t ∧ reply t 5 1 []) ∧
       (s.admits false 4 f f.addr n = true → ¬legal → exec (.atFlit f) s = .next s) ∧
       (s.admits false 4 f f.addr n = true → legal → f.addr % n ≠ 0 → ∃ t, exec (.atFlit f) s = .next t ∧ DevOnly s t ∧ reply t 5 3 []) ∧
       (s.admits false 4 f f.addr n = true → legal → f.addr % n = 0 → plain n →
         let old := leNat (Mem.read s.mem (pa % 2 ^ 44) n)
         ∃ t, exec (.atFlit f) s = .next t ∧ reply t 5 0 (leBytes n old) ∧ t.benches = s.benches ∧
           MemAfter s t fun a =>
             (atomNew f.aop n old (leNat (f.payload.take n)) (leNat ((f.payload.drop n).take n))).bind fun v =>
               runByte (pa % 2 ^ 44) (leBytes n v) a)) ∧
     (ours → f.type = 6 →
       (s.admits true 3 f k 1 = false ∨ 65536 ≤ k → ∃ t, exec (.sigFlit f) s = .next t ∧ DevOnly s t ∧ reply t 7 1 []) ∧
       (s.admits true 3 f k 1 = true → k < 65536 → c + 1 < 2 ^ 32 → ∃ t, exec (.sigFlit f) s = .next t ∧ t.mem = s.mem ∧
         reply t 7 0 [] ∧ (t.bench (k / 256)).sem (k % 256) = c + 1) ∧
       (s.admits true 3 f k 1 = true → k < 65536 → 2 ^ 32 ≤ c + 1 → ∃ t, exec (.sigFlit f) s = .next t ∧ DevOnly s t ∧
         reply t 7 4 [])) ∧
     (ours → f.type = 8 →
       let key := f.src * 2 ^ 16 + f.tag
       let ps := x.pieces.get key [] ++ [(f.addr % 2 ^ 13, f.payload.take f.len)]
       let size (h : List Byte) : Nat := packetSize ((leNat h).testBit 18) ((leNat h).testBit 16)
       (gathered ps 32 = none ∨ (∃ h, gathered ps 32 = some h ∧ gathered ps (size h) = none) →
         ∃ t, exec (.compFlit f) s = .next t ∧ DevOnly s t ∧ t.dev.fabric.pieces.get key [] = ps) ∧
       (∀ h bs, gathered ps 32 = some h → gathered ps (size h) = some bs →
         let s1 := (s.modFabric fun x => { x with pieces := x.pieces.erase key }).settleTime
         let mine (y : Composite) : Bool :=
           y.word.getLsbD 0 && y.word.getLsbD 3 && y.f 31 16 == leNat (bs.take 32) % 2 ^ 16
         ((∀ y ∈ s1.dev.composites, mine y.2 = false) → ∃ t, exec (.compFlit f) s = .next t ∧ DevOnly s1 t ∧
           t.dev = { s1.dev with fabric := { s1.dev.fabric with cdrop := sat32 (s1.dev.fabric.cdrop + 1) } }) ∧
         (∀ g c, s1.dev.composites.find? (fun y => mine y.2) = some (g, c) → s1.dev.composites.get g {} = c →
           let p := packetOf bs
           let held (r : Nat × Nat) (q : Packet) : Bool :=
             q.frame == p.frame && q.tile == p.tile && q.rlo == r.1 && q.rhi == r.2
           let takes := leNat (bs.drop (size h - 4)) = (crc32c (bs.take (size h - 4))).toNat ∧
             (p.frame = c.f 63 32 ∨ (c.f 255 224 ≠ 0 ∧ p.frame = (c.f 63 32 + 1) % 2 ^ 32)) ∧ p.tile < c.f 276 256 ∧
             ((p.rlo, p.rhi) = c.inputs.1 ∨ (p.rlo, p.rhi) = c.inputs.2) ∧ (p.frame, p.tile) ∉ c.emitted ∧
             c.held.find? (held (p.rlo, p.rhi)) = none
           let s2 := (s1.modComposite g fun c => { c with held := c.held ++ [p] }).stage g
           (¬takes → ∃ t, exec (.compFlit f) s = .next t ∧ DevOnly s1 t ∧
             t.dev.composites.get g {} = { c with word := bumpField c.word 384 }) ∧
           (takes → p.frame ≠ c.f 63 32 → (∀ q ∈ c.held, q.frame ≠ c.f 63 32) →
             exec (.compFlit f) s = .next s2 ∧ (s2.dev.composites.get g {}).held = c.held ++ [p]) ∧
           (takes → p.frame = c.f 63 32 → (∀ q ∈ c.held, q.frame = p.frame → q.tile = p.tile) → ∀ l r,
             (c.held ++ [p]).find? (held c.inputs.1) = l → (c.held ++ [p]).find? (held c.inputs.2) = r →
             (l = none ∨ r = none → exec (.compFlit f) s = .next s2 ∧
               (s2.dev.composites.get g {}).held = c.held ++ [p]) ∧
             (∀ a b, l = some a → r = some b → c.spoiled = false →
               let out := mergePackets (c.word.getLsbD 1) a b
               let s3 := s2.modComposite g fun y =>
                 { y with held := y.held.filter fun q => !(q.frame == p.frame && q.tile == p.tile),
                          emitted := (p.frame, p.tile) :: y.emitted }
               ∃ t, exec (.compFlit f) s = .next t ∧ (p.frame, p.tile) ∈ (t.dev.composites.get g {}).emitted ∧
                 (∀ q ∈ (t.dev.composites.get g {}).held, q.frame = p.frame → q.tile ≠ p.tile) ∧
                 t.mem = (if c.f 122 120 = 0 then s3.deliver (c.f 119 64 + p.tile * c.f 319 288)
                     (outColour (c.word.getLsbD 2) out.colour ++ out.depth.flatMap fun d => leBytes 4 d.toNat)
                   else s3.deliverHead (c.f 122 120 - 1) out).1.mem))))) ∧
     (ours → f.type = 9 →
       (s.dev.ptc.role ≠ 1 → exec (.syncFlit f) s = .next s) ∧
       (s.dev.ptc.role = 1 → ∃ t, exec (.syncFlit f) s = .next t ∧ t.mem = s.mem ∧ t.benches = s.benches ∧
         s.dev.ptc.ptc ≤ t.dev.ptc.ptc ∧ (s.dev.ptc.bound ≤ 100 → t.dev.ptc.ptc = s.dev.ptc.ptc))) ∧
     (ours → ∀ p ∈ ([(1, .rdrFlit), (3, .wraFlit), (5, .atrFlit), (7, .sigaFlit)] : List (Nat × (Flit → Instr))), f.type = p.1 →
       let mine (r : Remote) : Prop := r.req.tag = f.tag ∧ r.req.dst = f.src ∧ r.req.type + 1 = f.type ∧ r.resp = none
       ((∀ r ∈ x.remotes, ¬mine r) → exec (p.2 f) s = .next s) ∧
       (∀ pre r post, x.remotes = pre ++ r :: post → (∀ q ∈ pre, ¬mine q) → mine r →
         ∃ t, exec (p.2 f) s = .next t ∧ DevOnly s t ∧ t.dev.fabric.remotes =
           pre ++ { r with resp := some (f.sts, f.payload.take f.len) } :: post)) ∧
     (f.type < 10 → exec (.reservedTypeFlit f) s = .next s) ∧
     (10 ≤ f.type → ∃ t, exec (.reservedTypeFlit f) s = .next t ∧ DevOnly s t ∧
       t.dev.fabric = { x with badfl := sat32 (x.badfl + 1) })) ∧
  (∀ (s : State),
     let x := s.dev.fabric
     (∀ port up,
       (24 ≤ port → exec (.portupChange port up) s = .next s) ∧
       (port < 24 → ∃ t, exec (.portupChange port up) s = .next t ∧ DevOnly s t ∧
         ∀ i, t.dev.fabric.portup.getLsbD i = if i = port then up else x.portup.getLsbD i)) ∧
     (∃ t, exec .linkDown s = .next t ∧ t.dev.fabric.linkDown = true ∧
       (∀ b, (s.bench b).csr.xie.getLsbD 19 = true → (t.bench b).csr.mgt = true) ∧
       (s.dev.boot.lockstep = false → t.mem = s.mem ∧ ∀ b, (t.bench b).rings = (s.bench b).rings) ∧
       (s.dev.boot.lockstep = true → ∀ b k, (s.ring b k).timed = true → (s.ring b k).state = .running →
         (t.ring b k).state = .halted)) ∧
     (∀ tag,
       let late (r : Remote) : Prop := r.req.tag = tag ∧ r.resp = none
       ((∀ r ∈ x.remotes, ¬late r) → exec (.fabtimeout tag) s = .next s) ∧
       (∀ pre r post, x.remotes = pre ++ r :: post → (∀ q ∈ pre, ¬late q) → late r →
         ∃ t, exec (.fabtimeout tag) s = .next t ∧ DevOnly s t ∧ t.dev.fabric.tocnt = sat32 (x.tocnt + 1) ∧
           t.dev.fabric.remotes = pre ++ { r with resp := some (100, []) } :: post)))

/-- R277, R282 to R284: writes of a composite-group descriptor and of a scan-out head, the end of a frame, the root's
deadline, a flip, and the vertical blanking that shows it. That a disabled head makes no flip is the model's reading (log
entry 52). -/
def Obligations.CompositeAndScanOutEventsAct : Prop :=
  (∀ (s : State) (g w : Nat) (v : W64),
    let c := s.dev.composites.get g {}
    let m := compositeMask w
    let new : BitVec 512 := BitVec.ofNat 512 (setBits c.word.toNat (64 * w + 63) (64 * w)
      (bitsIn c.word (64 * w + 63) (64 * w) - (bitsIn c.word (64 * w + 63) (64 * w) &&& m) + (v.toNat &&& m)))
    let gets (y : Composite) : Prop := ∃ t, exec (.compositeGroupWrite g w v) s = .next t ∧ DevOnly s t ∧
      t.dev = { s.dev with composites := s.dev.composites.set g y }
    let valid := c.word.getLsbD 0 = true
    let sets := w = 0 ∧ v.getLsbD 0 = true
    let bad := bitsIn new 9 4 < bitsIn new 15 10 ∨ bitsIn new 276 256 = 0 ∨
      (new.getLsbD 3 = true ∧ (bitsIn new 375 320 % 4096 ≠ 0 ∨ bitsIn new 119 64 % 256 ≠ 0 ∨ 4 < bitsIn new 122 120))
    (16 ≤ g → exec (.compositeGroupWrite g w v) s = .next s) ∧
    (g < 16 →
    (valid → w ≠ 0 ∨ v.getLsbD 0 = true → exec (.compositeGroupWrite g w v) s = .next s) ∧
    (valid → w = 0 → v.getLsbD 0 = false → gets { word := new, held := [], emitted := [] }) ∧
    (¬valid → sets → bad → exec (.compositeGroupWrite g w v) s = .next s) ∧
    (¬valid → sets → ¬bad → gets { word := new, held := [], emitted := [] }) ∧
    (¬valid → ¬sets → gets { c with word := new }))) ∧
  (∀ (s : State) (g : Nat),
    let c := s.dev.composites.get g {}
    let due := c.word.getLsbD 0 = true ∧ c.f 191 128 ≤ s.dev.ptc.ptc
    (¬due → exec (.compositeFrameEnd g) s = .next s ∧ exec (.nodeDeadline g) s = .next s) ∧
    (c.word.getLsbD 3 = false → exec (.nodeDeadline g) s = .next s) ∧
    (due → c.word.getLsbD 3 = true → ∃ t, exec (.nodeDeadline g) s = .next t ∧
      ∀ tile, tile < c.f 276 256 → (c.f 63 32, tile) ∈ (t.dev.composites.get g {}).emitted) ∧
    (due → ∃ t, exec (.compositeFrameEnd g) s = .next t ∧
      let y := t.dev.composites.get g {}
      (c.f 255 224 = 0 → y.word.getLsbD 0 = false ∧ y.held = []) ∧
      (c.f 255 224 ≠ 0 → y.word.getLsbD 0 = true ∧ y.f 63 32 = (c.f 63 32 + 1) % 2 ^ 32 ∧
        y.f 191 128 = (c.f 191 128 + c.f 255 224) % 2 ^ 64))) ∧
  (∀ (s : State) (h : Nat), 4 ≤ h → exec (.headFlip h) s = .next s ∧ exec (.verticalBlanking h) s = .next s ∧
    ∀ w v, exec (.headWrite h w v) s = .next s) ∧
  (∀ (s : State) (h : Nat), h < 4 →
    let x := s.dev.heads.get h {}
    let gets (i : Instr) (y : Head) : Prop := ∃ t, exec i s = .next t ∧ DevOnly s t ∧
      t.dev = { s.dev with heads := s.dev.heads.set h y }
    (∀ w v,
      let m := headMask w
      let y : Head := { x with word := BitVec.ofNat 512 (setBits x.word.toNat (64 * w + 63) (64 * w)
        (bitsIn x.word (64 * w + 63) (64 * w) - (bitsIn x.word (64 * w + 63) (64 * w) &&& m) + (v.toNat &&& m))) }
      let bad := w = 0 ∧ v.getLsbD 0 = true ∧ (2 ^ 18 < y.tiles ∨ y.fba % 4096 ≠ 0 ∨ y.fbb % 4096 ≠ 0)
      (bad → exec (.headWrite h w v) s = .next s) ∧
      (¬bad → w ≠ 2 → w ≠ 3 → gets (.headWrite h w v) y) ∧
      (w = 2 ∨ w = 3 → y.word.getLsbD 0 = false ∨ s.dev.ptc.ptc < y.flip →
        gets (.headWrite h w v) { y with flipped := false }) ∧
      (w = 2 ∨ w = 3 → y.word.getLsbD 0 = true → y.flip ≤ s.dev.ptc.ptc →
        gets (.headWrite h w v) { y with flipped := false }.doFlip)) ∧
    (let due := x.word.getLsbD 0 = true ∧ x.flipped = false ∧ x.flip ≤ s.dev.ptc.ptc
     (¬due → exec (.headFlip h) s = .next s) ∧
     (due → x.tiles < 2 ^ 32 → ∃ t, exec (.headFlip h) s = .next t ∧ DevOnly s t ∧
       let y := t.dev.heads.get h {}
       (∀ k, k ∈ y.sel ↔ (k ∈ x.sel ∧ k ∉ x.ready) ∨ (k ∈ x.ready ∧ k ∉ x.sel)) ∧ y.ready = [] ∧ y.shown = x.shown ∧
         bitsIn y.word 287 256 = (bitsIn x.word 287 256 + 1) % 2 ^ 32 ∧
         bitsIn y.word 319 288 = x.tiles - x.ready.length ∧
         y.flip = (if x.fper = 0 then x.flip else (x.flip + x.fper) % 2 ^ 64) ∧
         (y.flipped = true ↔ x.fper = 0))) ∧
    gets (.verticalBlanking h) { x with shown := x.sel })

/-! ## The machine as a whole -/

/-- R38, R52, R86, R104, R113, R115, R131, R159, R214, R250 to R253, R265, R275, R288 to R292: what reset leaves. Memory
lists nothing and is in canonical form, no wave is resident, every ring is UNBOUND, and the registers have the values that
the spec gives. That an unlisted byte is 0 is the model's choice (log entry 1). -/
def Obligations.ResetLeaves : Prop :=
  let s := State.reset
  s.MemOk ∧ s.poisoned = [] ∧ s.tlbs = [] ∧ s.passes = [] ∧
  (∀ b k,
    s.wave? b k = none ∧ s.group? b k = none ∧ (s.ring b k).state = .unbound ∧ (s.bench b).kind k = 4 ∧
      (s.bench b).gpart k = 0 ∧ (s.bench b).sem k = 0 ∧ (s.bench b).physical k b = b ∧
      (s.bench b).tiles.get k {} = { elems := [], int := false, poison := false } ∧
      (s.bench b).readCsr 0x5D0 = some 0 ∧ (s.bench b).readCsr 0x5D9 = some 0 ∧ (s.bench b).readCsr 0x5E0 = some 0 ∧
      (s.bench b).readCsr 0x5F1 = some 0 ∧ (s.bench b).mailbox = [] ∧ (s.bench b).latch.record = none) ∧
  (∀ b e ctx, ((s.bench b).eng e ctx).pgdist = 16 ∧ ((s.bench b).eng e ctx).tmask = 0) ∧
  (∀ d c, (s.die d).cycle = 0 ∧ (s.die d).arb.mode = 0 ∧ (s.die d).arb.log2n = 10 ∧ (s.die d).arb.gateto = 100 ∧
    ((s.die d).qos.get c (qosReset c)).toNat % 2 ^ 32 = 0xFFFFFFFF) ∧
  (∀ n, s.range n = {} ∧ (s.dev.shoots.get n {}).done = true ∧ (s.queue n).v = false ∧ (s.queue n).tl = 0 ∧
    (s.ctxBlock n).widx = 0 ∧ (s.ctxBlock n).ridx = 0 ∧ (s.dev.cells.get n {}).state = 0) ∧
  s.dev.poison.log2n = 4 ∧ s.dev.poison.widx = 0 ∧ s.dev.fabric.portup = 0 ∧ s.dev.ptc.ptc = 0 ∧ s.dev.ptc.role = 0 ∧
  s.dev.ptc.bound = 0xFFFFFFFF ∧ s.dev.boot.qdone = true ∧ s.dev.boot.stage = 0 ∧ s.dev.features.done = false

/-- Memory keeps its canonical form (addresses strictly rising, no listed byte that an unlisted one reads as) through every
step, whatever unit or event moves. -/
def Obligations.StepKeepsMemoryCanonical : Prop :=
  ∀ s t : State, s.MemOk → step s = .next t → t.MemOk

/-- R303 to R329, R332: every well-formed wave instruction, every engine command and every X instruction decodes from its
encoded word to itself, with each operand at every value that its encoding admits. FPUT and FPUT.Q share an EOP, so each has
its own value of the Q bit (R270). -/
def Obligations.DecodeOfEncode : Prop :=
  (∀ (i : Instr) (w : W64), Encode.wave i = some w → WellFormed.ok i = true → Decode.wave w = .ok i) ∧
  (∀ (i : Instr) (w : W32), Encode.gaffer i = some w → WellFormed.ok i = true → Decode.gaffer w = .ok i) ∧
  (∀ (i : Instr) (w : W64), Encode.command i = some w →
    (∀ c, i = .fput c → c.f.getLsbD 23 = false) → (∀ c, i = .fputQ c → c.f.getLsbD 23 = true) → Decode.command w = .ok i)

/-- R303 to R329: a wave word that decodes is the encoding of its instruction: no two words of the wave table mean the same
instruction, and no field of a word is dropped. -/
def Obligations.EncodeOfDecode : Prop :=
  ∀ (i : Instr) (w : W64), Decode.wave w = .ok i → Encode.wave i = some w ∧ WellFormed.ok i = true

/-- R363, R366, R370, R376, R385, R386, R392, R408, R429, R437: the words that the spec writes out decode to the instructions
they stand for. -/
def Obligations.SpecWordsDecode : Prop :=
  Decode.wave 0x0100000000000000 = .ok (.nop { fn := 0, cnd := 0, sa := 0, mask := 0, rsv := 0, off := 0 }) ∧
  Decode.wave 0xD200830200000009 = .ok (.launch { fn := 0, sd := 2, sa := 3, sb := 0, ib := 1, w := 0, imm := 9 }) ∧
  Decode.wave 0xD300830000000000 = .ok (.nq { fn := 0, sd := 2, sa := 3, sb := 0, ib := 0, w := 0, imm := 0 }) ∧
  Decode.wave 0xA611421000000000 = .ok (.tlwait { fn := 1, sd := 5, sa := 2, sb := 4, ib := 0, w := 0, imm := 0 }) ∧
  Decode.wave 0x823028040FF20002 = .ok (.lds
    { am := 0, fn := 3, vd := 5, va := 1, tb := 0, rsv := 0, brx := 0xFF, sz := 1, st := 0, sc := 0, ch := 0, off := 2 }) ∧
  Decode.wave 0x700010040000001B = .ok (.vqswz { ty := 0, vd := 2, va := 1, ka := 0, tr := 0, imm := 0x1B }) ∧
  Decode.wave 0xC210802004004000 = .ok (.rtrace
    { fn := 1, vd := 16, va := 8, vb := 2, vc := 0, ks := 2, oc := 0, tr := 0, ty := 0, rm := 0, sat := 0, na := 0, nc := 0 }) ∧
  Decode.wave 0 = .error .unassignedOpc ∧
  Decode.command 0xFFFF000000000000 = .ok (.idle { wait := 0xFF, sig := 0xFF, f := 0 }) ∧
  Decode.gaffer 0x00C5850B = .ok (.xpush { rd := 10, rs1 := 11, rs2 := 12 }) ∧
  Decode.gaffer 0x02C5A50B = .ok (.xtlwait { rd := 10, rs1 := 11, rs2 := 12 }) ∧
  Decode.gaffer 0x06E6B00B = .ok (.xsemwr { rd := 0, rs1 := 13, rs2 := 14 }) ∧
  Decode.gaffer 0x02B5700B = .ok (.xwmark { rd := 0, rs1 := 10, rs2 := 11 }) ∧
  Decode.gaffer 0x00000013 = .error .baseWord

/-- R376: MENQ is format S with OPC 0xB1 and FN 0; IMM[3:0] holds the slot, and IMM[31:4], IB, SB and W are 0. -/
def Obligations.MenqEncoding : Prop :=
  (∀ f : FS, Decode.wave (0xB1#8 ++ f.fn ++ f.sd ++ f.sa ++ f.sb ++ f.ib ++ f.w ++ f.imm) =
    if f.fn = 0 ∧ f.imm.toNat < 16 ∧ f.ib = 0 ∧ f.sb = 0 ∧ f.w = 0 then .ok (.menq f) else .error .illegalField) ∧
  Decode.wave 0xB100830000000005 = .ok (.menq { fn := 0, sd := 2, sa := 3, sb := 0, ib := 0, w := 0, imm := 5 })

/-- R338: BAR and CBAR are format C with every field 0, and their two words are given; with another value in a field they
raise ILLEGAL, and so they do inside a bypass window and in a user-level-interrupt handler, with no other effect. -/
def Obligations.BarrierEncodingAndLimits : Prop :=
  let zero : FC := { fn := 0, cnd := 0, sa := 0, mask := 0, rsv := 0, off := 0 }
  (∀ p ∈ ([(0x0B, .bar), (0x0C, .cbar)] : List (BitVec 8 × (FC → Instr))),
    (∀ f : FC, Decode.wave (p.1 ++ f.fn ++ f.cnd ++ f.sa ++ f.mask ++ f.rsv ++ f.off) =
      if f = zero then .ok (p.2 zero) else .error .illegalField) ∧
    ∀ (s : State) (cx : Wcx), s.wcx = some cx → s.poisoned = [] → cx.f.win.left ≠ 0 ∨ cx.w.inHandler = true →
      exec (p.2 zero) s = .next (s.fault cx (raiseOf Cause.illegal))) ∧
  Decode.wave 0x0B00000000000000 = .ok (.bar zero) ∧ Decode.wave 0x0C00000000000000 = .ok (.cbar zero) ∧
  ∀ (s : State) (cx : Wcx) (w : W64), s.wcx = some cx →
    exec (.unassignedOpc w) s = .next (s.fault cx (raiseOf Cause.illegal))

/-- R7, R8, R31, R37 to R43, R220, R247, R253, R286, R291, R304 to R306, R327, R329: a step runs the instruction that its
unit's word decodes to. A quarter picks a fragment, which goes on with the word it has under way, or fetches the word at its PC
through the page that maps it, where no user-level interrupt is due; of a word stored since the group started it runs the new
one or the old, an open choice (log entry 10); one that an earlier access of a sibling orders waits. A ring takes the head or a
command with work left; a gaffer that the boot has started and a host core take an interrupt, or fetch their word, which is an
X instruction, an unassigned custom-0 word, or a base RISC-V word that the hart executes, or raise an exception, or await
another package; a device event is its row. A word with no instruction runs the row for such words. The units of a cell that is
not ON do nothing. What base RISC-V words do is the cited architecture's (log entry 23). -/
def Obligations.StepRunsDecoded : Prop :=
  (∀ (s : State) (b q slot e : Nat) (rest : List Turn) (cx : Wcx) (x : Xlat) (s2 : State), b < 256 → q < 4 →
    let s0 : State := { s with agenda := rest, cur := .none }
    let s1 : State := { s0 with cur := .wave b slot e }
    let runs (u : State) (w : W64) : Prop :=
      let u1 := u.modFrag b slot e fun f => { f with wait := none, reads := [], writes := [], word := w }
      (∀ i, Decode.wave w = .ok i → step s = exec i u1) ∧ (∀ r, Decode.wave w = .error r → step s = exec (.unassignedOpc w) u1)
    let due := cx.f.win.left = 0 ∧ s1.uliDue b slot cx.w cx.g = true
    s.agenda = .quarter b q :: rest → s.powered = true →
    (s.cellOn (cellOf b) = false → step s = .next s0) ∧
    (s.cellOn (cellOf b) = true → s0.pick b q = some (slot, e) → s1.wcx = some cx →
      (s1.goesOn b slot e cx.f = true → runs s1 cx.f.word) ∧
      (s1.goesOn b slot e cx.f = false → due → step s = exec (.uliDelivery b slot) s1) ∧
      (s1.goesOn b slot e cx.f = false → ¬due →
        cx.g.brt.getLsbD 0 = false → s1.dev.fabric.remotes = [] → privGrow (s1.desc cx.g.ctx) b slot cx.f.pc.toNat 8 = none →
        s1.translateCtx [.bench b] b cx.g.ctx cx.f.pc.toNat .fetch = .ok (x, s2) → s2.dev.fabric.remotes = [] →
        Plain s2 (dieOf b) x.pa 8 →
        let word (m : List Host.Cell) : W64 := w64 (leNat (Mem.read m (x.pa % 2 ^ 44) 8))
        let goes (u : State) (w : W64) : Prop :=
          (cx.ordered w = false → runs u w) ∧
          (cx.ordered w = true →
            step s = .next (u.modFrag b slot e fun f => { f with wait := some .order, word := w }))
        let same := ∀ m, cx.g.text = some m → Mem.read m (x.pa % 2 ^ 44) 8 = Mem.read s2.mem (x.pa % 2 ^ 44) 8
        (same → goes s2 (word s2.mem)) ∧
        (∀ m, cx.g.text = some m → ¬same →
          goes { s2 with free := s2.free + 1 } (word s2.mem) ∨ goes { s2 with free := s2.free + 1 } (word m))))) ∧
  (∀ (s : State) (b slot k : Nat) (rest : List Turn) (s1 : State), b < 256 → slot < 16 →
    let s0 : State := { s with agenda := rest, cur := .none }
    s.agenda = .ring b slot :: rest → s.powered = true → s.cellOn (cellOf b) = true → s0.ringPick b slot = some (k, s1) →
    let w := s1.cmdWord b slot k
    let s2 : State := { s1 with cur := .ring b slot k }
    (∀ i, Decode.command w = .ok i → (engineOf w = none ∨ engineOf w = some (s1.ring b slot).eng) → step s = exec i s2) ∧
    ((∃ r, Decode.command w = .error r) ∨ (∃ n, engineOf w = some n ∧ n ≠ (s1.ring b slot).eng) →
      step s = exec (.unlistedEop w) s2)) ∧
  (∀ (s : State) (turn : Turn) (who : Issuer) (rest : List Turn) (cx : Hcx) (w : W32) (s2 : State),
    let s1 : State := { s with agenda := rest, cur := who }
    (∃ b, b < 256 ∧ turn = .gaffer b ∧ who = .gaffer b ∧ s.cellOn (cellOf b) = true ∧ s.dev.boot.stage = 5) ∨
      (∃ h, h < 32 ∧ turn = .host h ∧ who = .host h) →
    s.agenda = turn :: rest → s.powered = true → s1.hcx = some cx →
    (∀ k, s1.interrupt cx = some k → step s = .next (s1.hartExc cx (w64 (2 ^ 63 + k)) 0)) ∧
    (∀ x, s1.interrupt cx = none → s1.hartFetch cx = .error x → step s = .next (s1.hartRaise cx x)) ∧
    (s1.interrupt cx = none → s1.hartFetch cx = .ok (none, s2) → step s = .next s2) ∧
    (s1.interrupt cx = none → s1.hartFetch cx = .ok (some w, s2) →
      (∀ i, Decode.gaffer w = .ok i → step s = exec i s2) ∧
      (Decode.gaffer w = .error .unassignedCustom0 → step s = exec (.unassignedCustom0 w) s2) ∧
      (∀ r, Decode.gaffer w = .error r → r ≠ .unassignedCustom0 → step s = .next (s2.runBase cx w)))) ∧
  (∀ (s : State) (i : Instr) (rest : List Turn), s.agenda = .event i :: rest → s.powered = true → isEvent i = true →
    eventReal i = true → s.eventOn i = true → step s = exec i { s with agenda := rest, cur := .none }) ∧
  (∀ (s : State) (b slot : Nat) (turn : Turn) (rest : List Turn), s.agenda = turn :: rest → s.powered = true →
    turn = .ring b slot ∨ turn = .gaffer b → s.cellOn (cellOf b) = false →
    step s = .next { s with agenda := rest, cur := .none })

/-- R29, R206 to R211, R213, R216: a fault of a wave instruction parks its fragment at the instruction, or at the first producer
of its bypass window, under an entry of the wait table, and a PRIVGROW its whole wave; what the access left behind stays (a
sector that did not decode is poisoned, a time-out is counted); its record goes behind those that wait for a full latch, waits while
the context's fault ring is full, or is written at WIDX, which advances. -/
def Obligations.WaveFaultsTaken : Prop :=
  ∀ (s : State) (cx : Wcx) (r : Raise), s.wcx = some cx → s.MemOk →
    let t := s.fault cx r
    let u := s.noteCause r.cause
    let pc := if cx.f.win.left = 0 then cx.f.pc else cx.f.win.producer
    let c := u.ctxBlock cx.g.ctx
    let d := u.desc cx.g.ctx
    let a := d.frbase + 64 * (c.widx % 2 ^ d.frl2)
    let full := c.widx - c.ridx = 2 ^ d.frl2
    let parks (tok : Nat) : Prop := ∃ n w, (t.bench cx.b).waitTable.get? n = some w ∧ tok = n * 2 ^ 26 + w.gen ∧
      .frag cx.g.ctx cx.slot cx.e ∈ w.parkers
    let rec_ (tok : Nat) : FaultRec :=
      { cause := Cause.shown r.cause, unit := 0, ring := cx.slot, bench := cx.b, ctx := cx.g.ctx, pc := pc, va := w64 r.va,
        timeline := w64 cx.e, lanes := r.lanes, token := w32 tok, trec := r.trec, access := r.access, aux := w64 r.aux }
    t.frag? cx.b cx.slot cx.e = some { cx.f with pc := pc, wait := some (.fault (Cause.shown r.cause)), win := {} } ∧
    (∀ b k e, b ≠ cx.b ∨ k ≠ cx.slot ∨ e ≠ cx.e → t.frag? b k e = s.frag? b k e) ∧ (∀ b k, t.group? b k = s.group? b k) ∧
    (r.cause < 2 ^ 16 → u = s) ∧
    (∃ w', t.wave? cx.b cx.slot = some w' ∧ (r.cause = Cause.privGrow → w'.held = true ∧
      ∃ n w, (t.bench cx.b).waitTable.get? n = some w ∧ .wave cx.g.ctx cx.slot ∈ w.parkers)) ∧
    ∃ tok, parks tok ∧
      ((u.bench cx.b).latch.record.isSome = true →
        t.mem = u.mem ∧ (t.bench cx.b).latch.pending = (u.bench cx.b).latch.pending ++ [rec_ tok]) ∧
      ((u.bench cx.b).latch.record = none → full ∨ c.waiting ≠ [] →
        t.mem = u.mem ∧ (t.ctxBlock cx.g.ctx).waiting = c.waiting ++ [(cx.b, rec_ tok)]) ∧
      ((u.bench cx.b).latch.record = none → ¬full → c.waiting = [] → Plain u (dieOf cx.b) a 64 → (u.bench cx.b).lines = [] →
        MemAfter u t (runByte (a % 2 ^ 44) (rec_ tok).bytes) ∧ (t.ctxBlock cx.g.ctx).widx = c.widx + 1 ∧
          (c.ie = true → (t.bench c.ntgt).csr.flt = true))

/-- R48, R61: an instruction that names a vector register at or above the wave's window raises ILLEGAL with no other effect,
whatever its format, and so does one inside a bypass window that writes a register an earlier one of the window has read, or
that may not stand there: a strong access, an atomic, a semaphore or timeline operation, an engine push, RQXFER, STS in REG
space, BRS, JOIN, EXIT, BAR, CBAR, SLEEP, CWAIT or TLWAIT. -/
def Obligations.RegisterLimitsRefuse : Prop :=
  ∀ (s : State) (cx : Wcx), s.wcx = some cx → (∀ p ∈ cx.w.frags, p.1 ≠ cx.e → p.2.inFlight = false) →
    let no (i : Instr) : Prop := exec i s = .next (s.fault cx (raiseOf Cause.illegal))
    let window := cx.f.win.left ≠ 0
    let passes (i : WInfo) : Prop := (∃ n, (n ∈ i.reads ∨ n ∈ i.writes) ∧ n < 1000 ∧ cx.w.regs ≤ n) ∨
      (window ∧ ∃ n ∈ i.writes, n ∈ cx.f.win.reads)
    (∀ f : VR,
      (passes (vrInfo f true false) →
        ∀ mk ∈ ([.vadd, .vsub, .vmul, .vand, .vor, .vxor, .vshl, .vshr, .vmin, .vmax, .vfadd, .vfmul, .vfmin, .vfmax] :
          List (VR → Instr)), no (mk f)) ∧
      (passes (vrInfo f true true) → no (.vmad f) ∧ no (.vdot4 f) ∧ no (.vfma f)) ∧
      (cx.w.regs ≤ f.vd.toNat → no (.vxm f) ∧ no (.rtrace f) ∧ no (.memit f)) ∧
      (cx.w.regs ≤ f.va.toNat → no (.vxm f) ∧ no (.rtrace f) ∧ no (.memit f))) ∧
    (∀ f : VI, passes (viInfo f) →
      ∀ mk ∈ ([.vaddImm, .vmulImm, .vandImm, .vorImm, .vfaddImm, .vfmulImm] : List (VI → Instr)), no (mk f)) ∧
    (∀ f : VI, cx.w.regs ≤ f.vd.toNat → no (.vmovImm f)) ∧
    (∀ f : FM, cx.w.regs ≤ f.vd.toNat → no (.ld f) ∧ no (.st f) ∧ no (.lds f) ∧ no (.sts f) ∧ no (.cpya f)) ∧
    (∀ f : FM, cx.w.regs ≤ f.va.toNat → no (.ld f) ∧ no (.st f) ∧ no (.lds f) ∧ no (.sts f) ∧ no (.sample f)) ∧
    (∀ f : FA, cx.w.regs ≤ f.va.toNat ∨ cx.w.regs ≤ f.vb.toNat ∨ cx.w.regs ≤ f.vd.toNat → no (.atom f) ∧ no (.atoms f)) ∧
    (window →
      (∀ f : FM, f.st ≠ 0 → no (.ld f) ∧ no (.st f) ∧ no (.lds f) ∧ no (.sts f)) ∧
      (∀ f : FM, fmSpace f = 1 → no (.sts f)) ∧
      (∀ f : FS, smKind f ≠ 0 → no (.sld f) ∧ no (.sst f)) ∧
      (∀ f : FA, no (.atom f) ∧ no (.atoms f)) ∧ (∀ f : FE, no (.mloop f)) ∧ (∀ f : FC2, no (.brs f)) ∧
      (∀ f : FS, ∀ mk ∈ ([.semp, .semv, .semrd, .tlrd, .tlwait, .cwait, .nq, .menq, .rqxfer] : List (FS → Instr)), no (mk f)) ∧
      ∀ f : FC, ∀ mk ∈ ([.join, .exit, .bar, .cbar, .sleep] : List (FC → Instr)), no (mk f))

/-- R76: SRBits(seed, ctr) maps a 64-bit seed and a 64-bit counter to 32 random bits, modulo 2⁶⁴ with logical right shifts. -/
def Obligations.RandomBits : Prop :=
  ∀ seed ctr : W64,
    let z := seed ^^^ (ctr * 0x9E3779B97F4A7C15#64)
    let z := (z ^^^ (z >>> 30)) * 0xBF58476D1CE4E5B9#64
    let z := (z ^^^ (z >>> 27)) * 0x94D049BB133111EB#64
    let z := z ^^^ (z >>> 31)
    srBits seed.toNat ctr.toNat = (z.extractLsb' 32 32).toNat

/-- R280: in DEPTH mode the pixel with the lesser depth wins, +0 and −0 compare equal, a NaN is farther than +∞, and on equal
depth Left wins; the output keeps the winner's depth bits and its colour. -/
def Obligations.DepthModeMerges : Prop :=
  ∀ (lc rc : List W32) (ld rd : W32),
    let nan (d : W32) : Prop := (f32Val d).isNaN = true
    let right := ¬nan rd ∧ (nan ld ∨ ltVal (f32Val rd) (f32Val ld) = true)
    (right → mergePixel false lc rc ld rd = (rc, rd)) ∧ (¬right → mergePixel false lc rc ld rd = (lc, ld)) ∧
    mergePixel false lc rc 0x00000000 0x80000000 = (lc, 0x00000000) ∧
    mergePixel false lc rc 0x7FC00000 0x7F800000 = (rc, 0x7F800000)
end

