-- ==== Sys2Proof/Laws/Memory.lean ====
section
/-! SUPPORT. Laws of byte memory: reading after writing, and that writing keeps the canonical form. -/

namespace Sys2Proof.Machine.Mem

open Sys2Proof

theorem get_of_wfFrom_lt {m : List Host.Cell} {lo a : Nat} (h : wfFrom lo m = true) (ha : a < lo) : get m a = 0 := by
  induction m generalizing lo with
  | nil => rfl
  | cons p m ih =>
    obtain ⟨k, v⟩ := p
    simp only [wfFrom, Bool.and_eq_true, decide_eq_true_eq] at h
    have hk : k ≠ a := by omega
    simp only [get, hk, if_false]
    exact ih h.2 (by omega)

theorem wfFrom_mono {m : List Host.Cell} {lo lo' : Nat} (h : wfFrom lo m = true) (hl : lo' ≤ lo) : wfFrom lo' m = true := by
  cases m with
  | nil => rfl
  | cons p m =>
    obtain ⟨k, v⟩ := p
    simp only [wfFrom, Bool.and_eq_true, decide_eq_true_eq] at h ⊢
    exact ⟨⟨by omega, h.1.2⟩, h.2⟩

/-- Writing a byte keeps the canonical form. -/
theorem wfFrom_set {m : List Host.Cell} {lo : Nat} (h : wfFrom lo m = true) (a : Nat) (v : Byte) (ha : lo ≤ a) :
    wfFrom lo (set m a v) = true := by
  induction m generalizing lo with
  | nil => simp only [set]; split <;> simp_all [wfFrom]
  | cons p m ih =>
    obtain ⟨k, w⟩ := p
    simp only [wfFrom, Bool.and_eq_true, decide_eq_true_eq] at h
    simp only [set]
    split
    · simp only [wfFrom, Bool.and_eq_true, decide_eq_true_eq]
      exact ⟨h.1, ih h.2 (by omega)⟩
    · split
      · split
        · exact wfFrom_mono h.2 (by omega)
        · simp_all [wfFrom]
      · split
        · simp only [wfFrom, Bool.and_eq_true, decide_eq_true_eq]; exact h
        · simp_all [wfFrom]; omega

theorem wf_set {m : List Host.Cell} (h : wf m = true) (a : Nat) (v : Byte) : wf (set m a v) = true :=
  wfFrom_set h a v (Nat.zero_le a)

/-- Writing bytes keeps the canonical form. -/
theorem wf_write {m : List Host.Cell} (h : wf m = true) (a : Nat) (bs : List Byte) : wf (write m a bs) = true := by
  induction bs generalizing m a with
  | nil => exact h
  | cons b bs ih => exact ih (wf_set h a b) (a + 1)

/-- Reading after one byte is written, in a memory of canonical form. -/
theorem get_set {m : List Host.Cell} {lo : Nat} (h : wfFrom lo m = true) (a x : Nat) (v : Byte) :
    get (set m a v) x = if x = a then v else get m x := by
  induction m generalizing lo with
  | nil =>
    by_cases hv : v = 0#8
    · simp [set, get, hv]
    · by_cases hx : x = a
      · simp [set, get, hv, hx]
      · simp [set, get, hv, hx, Ne.symm hx]
  | cons p m ih =>
    obtain ⟨k, w⟩ := p
    simp only [wfFrom, Bool.and_eq_true, decide_eq_true_eq] at h
    have low : x ≤ k → get m x = 0 := fun hx => get_of_wfFrom_lt h.2 (by omega)
    rcases Nat.lt_trichotomy k a with hk | hk | hk
    · simp only [set, hk, if_true, get, ih h.2]
      by_cases hx : k = x
      · have : x ≠ a := by omega
        simp [hx, this]
      · simp [hx]
    · subst hk
      by_cases hv : v = 0#8
      · by_cases hx : x = k
        · subst hx; simp [set, hv, low]
        · simp [set, hv, get, hx, Ne.symm hx]
      · by_cases hx : x = k
        · subst hx; simp [set, hv, get]
        · simp [set, hv, get, hx, Ne.symm hx]
    · have h1 : ¬ k < a := by omega
      have h2 : k ≠ a := by omega
      by_cases hv : v = 0#8
      · by_cases hx : x = a
        · have : k ≠ x := by omega
          subst hx; simp [set, h1, h2, hv, get, low (by omega)]
        · simp [set, h1, h2, hv, hx]
      · by_cases hx : x = a
        · subst hx; simp [set, h1, h2, hv, get]
        · simp [set, h1, h2, hv, get, hx, Ne.symm hx]

/-- Reading after bytes are written. -/
theorem get_write {m : List Host.Cell} (h : wf m = true) (a x : Nat) (bs : List Byte) :
    get (write m a bs) x = if a ≤ x ∧ x < a + bs.length then bs.getD (x - a) 0 else get m x := by
  induction bs generalizing m a with
  | nil => rw [if_neg (by simp only [List.length_nil]; omega)]; rfl
  | cons b bs ih =>
    simp only [write, ih (wf_set h a b), get_set h, List.length_cons]
    by_cases hx : x = a
    · subst hx
      have h1 : ¬ (x + 1 ≤ x ∧ x < x + 1 + bs.length) := by omega
      have h2 : x ≤ x ∧ x < x + (bs.length + 1) := by omega
      rw [if_neg h1, if_pos rfl, if_pos h2, Nat.sub_self]
      rfl
    · by_cases h1 : a + 1 ≤ x ∧ x < a + 1 + bs.length
      · have e : x - a = (x - (a + 1)) + 1 := by omega
        have h2 : a ≤ x ∧ x < a + (bs.length + 1) := by omega
        rw [if_pos h1, if_pos h2, e]
        rfl
      · have h2 : ¬ (a ≤ x ∧ x < a + (bs.length + 1)) := by omega
        rw [if_neg h1, if_neg h2, if_neg hx]

/-- Reading outside the bytes written. -/
theorem get_write_out {m : List Host.Cell} (h : wf m = true) {a x : Nat} {bs : List Byte}
    (hx : x < a ∨ a + bs.length ≤ x) : get (write m a bs) x = get m x := by
  rw [get_write h, if_neg (by omega)]

/-- Reading back what was written. -/
theorem read_write {m : List Host.Cell} (h : wf m = true) (a : Nat) (bs : List Byte) :
    read (write m a bs) a bs.length = bs := by
  apply List.ext_getElem (by simp [read])
  intro i h1 h2
  simp [read, get_write h, h2]

end Sys2Proof.Machine.Mem
end

