-- ==== Sys2Proof/Laws/Table.lean ====
section
/-! SUPPORT. Laws of sparse tables: what reading gives after a write, an erasure or a change of every value. -/

namespace Sys2Proof

@[simp] theorem Tbl.get?_nil {α : Type} (n : Nat) : Tbl.get? ([] : Tbl α) n = none := rfl

theorem Tbl.get?_set {α : Type} (t : Tbl α) (n m : Nat) (v : α) :
    (t.set n v).get? m = if m = n then some v else t.get? m := by
  induction t with
  | nil => simp only [Tbl.set, Tbl.get?, eq_comm (a := m)]
  | cons p t ih =>
    obtain ⟨k, w⟩ := p
    rcases Nat.lt_trichotomy k n with h | h | h
    · simp only [Tbl.set, h, if_true, Tbl.get?, ih]
      by_cases hk : k = m
      · subst hk; simp [Nat.ne_of_lt h]
      · simp [hk]
    · subst h
      simp only [Tbl.set, Nat.lt_irrefl, if_false, if_true, Tbl.get?]
      by_cases hk : k = m
      · subst hk; simp
      · simp [hk, Ne.symm hk]
    · simp only [Tbl.set, Nat.lt_asymm h, Nat.ne_of_gt h, if_false, Tbl.get?]
      by_cases hk : n = m
      · subst hk; simp
      · simp [hk, Ne.symm hk]

@[simp] theorem Tbl.get?_set_self {α : Type} (t : Tbl α) (n : Nat) (v : α) : (t.set n v).get? n = some v := by
  simp [Tbl.get?_set]

@[simp] theorem Tbl.get?_set_ne {α : Type} (t : Tbl α) {n m : Nat} (v : α) (h : m ≠ n) :
    (t.set n v).get? m = t.get? m := by simp [Tbl.get?_set, h]

theorem Tbl.get_set {α : Type} (t : Tbl α) (n m : Nat) (v d : α) :
    (t.set n v).get m d = if m = n then v else t.get m d := by
  simp only [Tbl.get, Tbl.get?_set]; split <;> rfl

@[simp] theorem Tbl.get_set_self {α : Type} (t : Tbl α) (n : Nat) (v d : α) : (t.set n v).get n d = v := by
  simp [Tbl.get_set]

@[simp] theorem Tbl.get_set_ne {α : Type} (t : Tbl α) {n m : Nat} (v d : α) (h : m ≠ n) :
    (t.set n v).get m d = t.get m d := by simp [Tbl.get_set, h]

theorem Tbl.get_upd {α : Type} (t : Tbl α) (n m : Nat) (d : α) (f : α → α) :
    (t.upd n d f).get m d = if m = n then f (t.get n d) else t.get m d := by
  simp only [Tbl.upd, Tbl.get_set]

@[simp] theorem Tbl.get_upd_self {α : Type} (t : Tbl α) (n : Nat) (d : α) (f : α → α) :
    (t.upd n d f).get n d = f (t.get n d) := by simp [Tbl.get_upd]

@[simp] theorem Tbl.get_upd_ne {α : Type} (t : Tbl α) {n m : Nat} (d : α) (f : α → α) (h : m ≠ n) :
    (t.upd n d f).get m d = t.get m d := by simp [Tbl.get_upd, h]

theorem Tbl.set_set {α : Type} (t : Tbl α) (n : Nat) (v w : α) : (t.set n v).set n w = t.set n w := by
  induction t with
  | nil => simp [Tbl.set]
  | cons p t ih =>
    obtain ⟨k, x⟩ := p
    simp only [Tbl.set]
    split
    · rename_i h; simp [Tbl.set, h, ih]
    · split <;> simp [Tbl.set]

theorem Tbl.get?_erase {α : Type} (t : Tbl α) (n m : Nat) :
    (t.erase n).get? m = if m = n then none else t.get? m := by
  unfold Tbl.erase
  induction t with
  | nil => simp [Tbl.get?]
  | cons p t ih =>
    obtain ⟨k, v⟩ := p
    by_cases hk : k = n
    · subst hk
      simp only [List.filter, bne_self_eq_false, ih, Tbl.get?]
      by_cases hm : m = k
      · simp [hm]
      · simp [hm, Ne.symm hm]
    · have : (k != n) = true := by simpa using hk
      simp only [List.filter, this, Tbl.get?, ih]
      by_cases hm : k = m
      · subst hm; simp [hk]
      · simp [hm]

theorem Tbl.get?_mapVal {α : Type} (t : Tbl α) (f : Nat → α → α) (n : Nat) :
    (t.mapVal f).get? n = (t.get? n).map (f n) := by
  induction t with
  | nil => rfl
  | cons p t ih =>
    obtain ⟨k, v⟩ := p
    simp only [Tbl.mapVal, List.map, Tbl.get?] at ih ⊢
    split
    · simp_all
    · exact ih

end Sys2Proof
end

