-- ==== Sys2Proof/Laws/State.lean ====
section
/-! SUPPORT. The small laws of the updates of the state: what each leaves unchanged, and what it changes. -/

namespace Sys2Proof.Machine

open Sys2Proof

@[simp] theorem State.modBench_agenda (s : State) (b : Nat) (f : Bench → Bench) : (s.modBench b f).agenda = s.agenda := rfl
@[simp] theorem State.modBench_cur (s : State) (b : Nat) (f : Bench → Bench) : (s.modBench b f).cur = s.cur := rfl
@[simp] theorem State.modBench_free (s : State) (b : Nat) (f : Bench → Bench) : (s.modBench b f).free = s.free := rfl
@[simp] theorem State.modBench_mem (s : State) (b : Nat) (f : Bench → Bench) : (s.modBench b f).mem = s.mem := rfl
@[simp] theorem State.modBench_view (s : State) (b : Nat) (f : Bench → Bench) : (s.modBench b f).view = s.view := rfl
@[simp] theorem State.modBench_viewHeld (s : State) (b : Nat) (f : Bench → Bench) : (s.modBench b f).viewHeld = s.viewHeld := rfl
@[simp] theorem State.modBench_viewDirty (s : State) (b : Nat) (f : Bench → Bench) : (s.modBench b f).viewDirty = s.viewDirty := rfl
@[simp] theorem State.modBench_altered (s : State) (b : Nat) (f : Bench → Bench) : (s.modBench b f).altered = s.altered := rfl
@[simp] theorem State.modBench_poisoned (s : State) (b : Nat) (f : Bench → Bench) : (s.modBench b f).poisoned = s.poisoned := rfl
@[simp] theorem State.modBench_resv (s : State) (b : Nat) (f : Bench → Bench) : (s.modBench b f).resv = s.resv := rfl
@[simp] theorem State.modBench_tlbs (s : State) (b : Nat) (f : Bench → Bench) : (s.modBench b f).tlbs = s.tlbs := rfl
@[simp] theorem State.modBench_benches (s : State) (b : Nat) (f : Bench → Bench) : (s.modBench b f).benches = s.benches.upd b {} f := rfl
@[simp] theorem State.modBench_dies (s : State) (b : Nat) (f : Bench → Bench) : (s.modBench b f).dies = s.dies := rfl
@[simp] theorem State.modBench_hosts (s : State) (b : Nat) (f : Bench → Bench) : (s.modBench b f).hosts = s.hosts := rfl
@[simp] theorem State.modBench_passes (s : State) (b : Nat) (f : Bench → Bench) : (s.modBench b f).passes = s.passes := rfl
@[simp] theorem State.modBench_dev (s : State) (b : Nat) (f : Bench → Bench) : (s.modBench b f).dev = s.dev := rfl

@[simp] theorem State.modDie_agenda (s : State) (d : Nat) (f : Die → Die) : (s.modDie d f).agenda = s.agenda := rfl
@[simp] theorem State.modDie_cur (s : State) (d : Nat) (f : Die → Die) : (s.modDie d f).cur = s.cur := rfl
@[simp] theorem State.modDie_free (s : State) (d : Nat) (f : Die → Die) : (s.modDie d f).free = s.free := rfl
@[simp] theorem State.modDie_mem (s : State) (d : Nat) (f : Die → Die) : (s.modDie d f).mem = s.mem := rfl
@[simp] theorem State.modDie_view (s : State) (d : Nat) (f : Die → Die) : (s.modDie d f).view = s.view := rfl
@[simp] theorem State.modDie_viewHeld (s : State) (d : Nat) (f : Die → Die) : (s.modDie d f).viewHeld = s.viewHeld := rfl
@[simp] theorem State.modDie_viewDirty (s : State) (d : Nat) (f : Die → Die) : (s.modDie d f).viewDirty = s.viewDirty := rfl
@[simp] theorem State.modDie_altered (s : State) (d : Nat) (f : Die → Die) : (s.modDie d f).altered = s.altered := rfl
@[simp] theorem State.modDie_poisoned (s : State) (d : Nat) (f : Die → Die) : (s.modDie d f).poisoned = s.poisoned := rfl
@[simp] theorem State.modDie_resv (s : State) (d : Nat) (f : Die → Die) : (s.modDie d f).resv = s.resv := rfl
@[simp] theorem State.modDie_tlbs (s : State) (d : Nat) (f : Die → Die) : (s.modDie d f).tlbs = s.tlbs := rfl
@[simp] theorem State.modDie_benches (s : State) (d : Nat) (f : Die → Die) : (s.modDie d f).benches = s.benches := rfl
@[simp] theorem State.modDie_dies (s : State) (d : Nat) (f : Die → Die) : (s.modDie d f).dies = s.dies.upd d {} f := rfl
@[simp] theorem State.modDie_hosts (s : State) (d : Nat) (f : Die → Die) : (s.modDie d f).hosts = s.hosts := rfl
@[simp] theorem State.modDie_passes (s : State) (d : Nat) (f : Die → Die) : (s.modDie d f).passes = s.passes := rfl
@[simp] theorem State.modDie_dev (s : State) (d : Nat) (f : Die → Die) : (s.modDie d f).dev = s.dev := rfl

@[simp] theorem State.modHost_agenda (s : State) (h : Nat) (f : Hart → Hart) : (s.modHost h f).agenda = s.agenda := rfl
@[simp] theorem State.modHost_cur (s : State) (h : Nat) (f : Hart → Hart) : (s.modHost h f).cur = s.cur := rfl
@[simp] theorem State.modHost_free (s : State) (h : Nat) (f : Hart → Hart) : (s.modHost h f).free = s.free := rfl
@[simp] theorem State.modHost_mem (s : State) (h : Nat) (f : Hart → Hart) : (s.modHost h f).mem = s.mem := rfl
@[simp] theorem State.modHost_view (s : State) (h : Nat) (f : Hart → Hart) : (s.modHost h f).view = s.view := rfl
@[simp] theorem State.modHost_viewHeld (s : State) (h : Nat) (f : Hart → Hart) : (s.modHost h f).viewHeld = s.viewHeld := rfl
@[simp] theorem State.modHost_viewDirty (s : State) (h : Nat) (f : Hart → Hart) : (s.modHost h f).viewDirty = s.viewDirty := rfl
@[simp] theorem State.modHost_altered (s : State) (h : Nat) (f : Hart → Hart) : (s.modHost h f).altered = s.altered := rfl
@[simp] theorem State.modHost_poisoned (s : State) (h : Nat) (f : Hart → Hart) : (s.modHost h f).poisoned = s.poisoned := rfl
@[simp] theorem State.modHost_resv (s : State) (h : Nat) (f : Hart → Hart) : (s.modHost h f).resv = s.resv := rfl
@[simp] theorem State.modHost_tlbs (s : State) (h : Nat) (f : Hart → Hart) : (s.modHost h f).tlbs = s.tlbs := rfl
@[simp] theorem State.modHost_benches (s : State) (h : Nat) (f : Hart → Hart) : (s.modHost h f).benches = s.benches := rfl
@[simp] theorem State.modHost_dies (s : State) (h : Nat) (f : Hart → Hart) : (s.modHost h f).dies = s.dies := rfl
@[simp] theorem State.modHost_hosts (s : State) (h : Nat) (f : Hart → Hart) : (s.modHost h f).hosts = s.hosts.upd h {} f := rfl
@[simp] theorem State.modHost_passes (s : State) (h : Nat) (f : Hart → Hart) : (s.modHost h f).passes = s.passes := rfl
@[simp] theorem State.modHost_dev (s : State) (h : Nat) (f : Hart → Hart) : (s.modHost h f).dev = s.dev := rfl

@[simp] theorem State.modDev_agenda (s : State) (f : Device → Device) : (s.modDev f).agenda = s.agenda := rfl
@[simp] theorem State.modDev_cur (s : State) (f : Device → Device) : (s.modDev f).cur = s.cur := rfl
@[simp] theorem State.modDev_free (s : State) (f : Device → Device) : (s.modDev f).free = s.free := rfl
@[simp] theorem State.modDev_mem (s : State) (f : Device → Device) : (s.modDev f).mem = s.mem := rfl
@[simp] theorem State.modDev_view (s : State) (f : Device → Device) : (s.modDev f).view = s.view := rfl
@[simp] theorem State.modDev_viewHeld (s : State) (f : Device → Device) : (s.modDev f).viewHeld = s.viewHeld := rfl
@[simp] theorem State.modDev_viewDirty (s : State) (f : Device → Device) : (s.modDev f).viewDirty = s.viewDirty := rfl
@[simp] theorem State.modDev_altered (s : State) (f : Device → Device) : (s.modDev f).altered = s.altered := rfl
@[simp] theorem State.modDev_poisoned (s : State) (f : Device → Device) : (s.modDev f).poisoned = s.poisoned := rfl
@[simp] theorem State.modDev_resv (s : State) (f : Device → Device) : (s.modDev f).resv = s.resv := rfl
@[simp] theorem State.modDev_tlbs (s : State) (f : Device → Device) : (s.modDev f).tlbs = s.tlbs := rfl
@[simp] theorem State.modDev_benches (s : State) (f : Device → Device) : (s.modDev f).benches = s.benches := rfl
@[simp] theorem State.modDev_dies (s : State) (f : Device → Device) : (s.modDev f).dies = s.dies := rfl
@[simp] theorem State.modDev_hosts (s : State) (f : Device → Device) : (s.modDev f).hosts = s.hosts := rfl
@[simp] theorem State.modDev_passes (s : State) (f : Device → Device) : (s.modDev f).passes = s.passes := rfl
@[simp] theorem State.modDev_dev (s : State) (f : Device → Device) : (s.modDev f).dev = f s.dev := rfl

@[simp] theorem State.modQueue_agenda (s : State) (q : Nat) (f : Queue → Queue) : (s.modQueue q f).agenda = s.agenda := rfl
@[simp] theorem State.modQueue_cur (s : State) (q : Nat) (f : Queue → Queue) : (s.modQueue q f).cur = s.cur := rfl
@[simp] theorem State.modQueue_free (s : State) (q : Nat) (f : Queue → Queue) : (s.modQueue q f).free = s.free := rfl
@[simp] theorem State.modQueue_mem (s : State) (q : Nat) (f : Queue → Queue) : (s.modQueue q f).mem = s.mem := rfl
@[simp] theorem State.modQueue_view (s : State) (q : Nat) (f : Queue → Queue) : (s.modQueue q f).view = s.view := rfl
@[simp] theorem State.modQueue_viewHeld (s : State) (q : Nat) (f : Queue → Queue) : (s.modQueue q f).viewHeld = s.viewHeld := rfl
@[simp] theorem State.modQueue_viewDirty (s : State) (q : Nat) (f : Queue → Queue) : (s.modQueue q f).viewDirty = s.viewDirty := rfl
@[simp] theorem State.modQueue_altered (s : State) (q : Nat) (f : Queue → Queue) : (s.modQueue q f).altered = s.altered := rfl
@[simp] theorem State.modQueue_poisoned (s : State) (q : Nat) (f : Queue → Queue) : (s.modQueue q f).poisoned = s.poisoned := rfl
@[simp] theorem State.modQueue_resv (s : State) (q : Nat) (f : Queue → Queue) : (s.modQueue q f).resv = s.resv := rfl
@[simp] theorem State.modQueue_tlbs (s : State) (q : Nat) (f : Queue → Queue) : (s.modQueue q f).tlbs = s.tlbs := rfl
@[simp] theorem State.modQueue_benches (s : State) (q : Nat) (f : Queue → Queue) : (s.modQueue q f).benches = s.benches := rfl
@[simp] theorem State.modQueue_dies (s : State) (q : Nat) (f : Queue → Queue) : (s.modQueue q f).dies = s.dies := rfl
@[simp] theorem State.modQueue_hosts (s : State) (q : Nat) (f : Queue → Queue) : (s.modQueue q f).hosts = s.hosts := rfl
@[simp] theorem State.modQueue_passes (s : State) (q : Nat) (f : Queue → Queue) : (s.modQueue q f).passes = s.passes := rfl
@[simp] theorem State.modQueue_dev (s : State) (q : Nat) (f : Queue → Queue) : (s.modQueue q f).dev = { s.dev with queues := s.dev.queues.upd q {} f } := rfl

@[simp] theorem State.modCtxBlock_agenda (s : State) (n : Nat) (f : CtxBlock → CtxBlock) : (s.modCtxBlock n f).agenda = s.agenda := rfl
@[simp] theorem State.modCtxBlock_cur (s : State) (n : Nat) (f : CtxBlock → CtxBlock) : (s.modCtxBlock n f).cur = s.cur := rfl
@[simp] theorem State.modCtxBlock_free (s : State) (n : Nat) (f : CtxBlock → CtxBlock) : (s.modCtxBlock n f).free = s.free := rfl
@[simp] theorem State.modCtxBlock_mem (s : State) (n : Nat) (f : CtxBlock → CtxBlock) : (s.modCtxBlock n f).mem = s.mem := rfl
@[simp] theorem State.modCtxBlock_view (s : State) (n : Nat) (f : CtxBlock → CtxBlock) : (s.modCtxBlock n f).view = s.view := rfl
@[simp] theorem State.modCtxBlock_viewHeld (s : State) (n : Nat) (f : CtxBlock → CtxBlock) : (s.modCtxBlock n f).viewHeld = s.viewHeld := rfl
@[simp] theorem State.modCtxBlock_viewDirty (s : State) (n : Nat) (f : CtxBlock → CtxBlock) : (s.modCtxBlock n f).viewDirty = s.viewDirty := rfl
@[simp] theorem State.modCtxBlock_altered (s : State) (n : Nat) (f : CtxBlock → CtxBlock) : (s.modCtxBlock n f).altered = s.altered := rfl
@[simp] theorem State.modCtxBlock_poisoned (s : State) (n : Nat) (f : CtxBlock → CtxBlock) : (s.modCtxBlock n f).poisoned = s.poisoned := rfl
@[simp] theorem State.modCtxBlock_resv (s : State) (n : Nat) (f : CtxBlock → CtxBlock) : (s.modCtxBlock n f).resv = s.resv := rfl
@[simp] theorem State.modCtxBlock_tlbs (s : State) (n : Nat) (f : CtxBlock → CtxBlock) : (s.modCtxBlock n f).tlbs = s.tlbs := rfl
@[simp] theorem State.modCtxBlock_benches (s : State) (n : Nat) (f : CtxBlock → CtxBlock) : (s.modCtxBlock n f).benches = s.benches := rfl
@[simp] theorem State.modCtxBlock_dies (s : State) (n : Nat) (f : CtxBlock → CtxBlock) : (s.modCtxBlock n f).dies = s.dies := rfl
@[simp] theorem State.modCtxBlock_hosts (s : State) (n : Nat) (f : CtxBlock → CtxBlock) : (s.modCtxBlock n f).hosts = s.hosts := rfl
@[simp] theorem State.modCtxBlock_passes (s : State) (n : Nat) (f : CtxBlock → CtxBlock) : (s.modCtxBlock n f).passes = s.passes := rfl
@[simp] theorem State.modCtxBlock_dev (s : State) (n : Nat) (f : CtxBlock → CtxBlock) : (s.modCtxBlock n f).dev = { s.dev with ctxs := s.dev.ctxs.upd n {} f } := rfl

@[simp] theorem State.modFabric_agenda (s : State) (f : Fabric → Fabric) : (s.modFabric f).agenda = s.agenda := rfl
@[simp] theorem State.modFabric_cur (s : State) (f : Fabric → Fabric) : (s.modFabric f).cur = s.cur := rfl
@[simp] theorem State.modFabric_free (s : State) (f : Fabric → Fabric) : (s.modFabric f).free = s.free := rfl
@[simp] theorem State.modFabric_mem (s : State) (f : Fabric → Fabric) : (s.modFabric f).mem = s.mem := rfl
@[simp] theorem State.modFabric_view (s : State) (f : Fabric → Fabric) : (s.modFabric f).view = s.view := rfl
@[simp] theorem State.modFabric_viewHeld (s : State) (f : Fabric → Fabric) : (s.modFabric f).viewHeld = s.viewHeld := rfl
@[simp] theorem State.modFabric_viewDirty (s : State) (f : Fabric → Fabric) : (s.modFabric f).viewDirty = s.viewDirty := rfl
@[simp] theorem State.modFabric_altered (s : State) (f : Fabric → Fabric) : (s.modFabric f).altered = s.altered := rfl
@[simp] theorem State.modFabric_poisoned (s : State) (f : Fabric → Fabric) : (s.modFabric f).poisoned = s.poisoned := rfl
@[simp] theorem State.modFabric_resv (s : State) (f : Fabric → Fabric) : (s.modFabric f).resv = s.resv := rfl
@[simp] theorem State.modFabric_tlbs (s : State) (f : Fabric → Fabric) : (s.modFabric f).tlbs = s.tlbs := rfl
@[simp] theorem State.modFabric_benches (s : State) (f : Fabric → Fabric) : (s.modFabric f).benches = s.benches := rfl
@[simp] theorem State.modFabric_dies (s : State) (f : Fabric → Fabric) : (s.modFabric f).dies = s.dies := rfl
@[simp] theorem State.modFabric_hosts (s : State) (f : Fabric → Fabric) : (s.modFabric f).hosts = s.hosts := rfl
@[simp] theorem State.modFabric_passes (s : State) (f : Fabric → Fabric) : (s.modFabric f).passes = s.passes := rfl
@[simp] theorem State.modFabric_dev (s : State) (f : Fabric → Fabric) : (s.modFabric f).dev = { s.dev with fabric := f s.dev.fabric } := rfl

@[simp] theorem State.modRing_agenda (s : State) (b k : Nat) (f : Ring → Ring) : (s.modRing b k f).agenda = s.agenda := rfl
@[simp] theorem State.modRing_cur (s : State) (b k : Nat) (f : Ring → Ring) : (s.modRing b k f).cur = s.cur := rfl
@[simp] theorem State.modRing_free (s : State) (b k : Nat) (f : Ring → Ring) : (s.modRing b k f).free = s.free := rfl
@[simp] theorem State.modRing_mem (s : State) (b k : Nat) (f : Ring → Ring) : (s.modRing b k f).mem = s.mem := rfl
@[simp] theorem State.modRing_view (s : State) (b k : Nat) (f : Ring → Ring) : (s.modRing b k f).view = s.view := rfl
@[simp] theorem State.modRing_viewHeld (s : State) (b k : Nat) (f : Ring → Ring) : (s.modRing b k f).viewHeld = s.viewHeld := rfl
@[simp] theorem State.modRing_viewDirty (s : State) (b k : Nat) (f : Ring → Ring) : (s.modRing b k f).viewDirty = s.viewDirty := rfl
@[simp] theorem State.modRing_altered (s : State) (b k : Nat) (f : Ring → Ring) : (s.modRing b k f).altered = s.altered := rfl
@[simp] theorem State.modRing_poisoned (s : State) (b k : Nat) (f : Ring → Ring) : (s.modRing b k f).poisoned = s.poisoned := rfl
@[simp] theorem State.modRing_resv (s : State) (b k : Nat) (f : Ring → Ring) : (s.modRing b k f).resv = s.resv := rfl
@[simp] theorem State.modRing_tlbs (s : State) (b k : Nat) (f : Ring → Ring) : (s.modRing b k f).tlbs = s.tlbs := rfl
@[simp] theorem State.modRing_benches (s : State) (b k : Nat) (f : Ring → Ring) : (s.modRing b k f).benches = s.benches.upd b {} fun x => { x with rings := x.rings.upd k {} f } := rfl
@[simp] theorem State.modRing_dies (s : State) (b k : Nat) (f : Ring → Ring) : (s.modRing b k f).dies = s.dies := rfl
@[simp] theorem State.modRing_hosts (s : State) (b k : Nat) (f : Ring → Ring) : (s.modRing b k f).hosts = s.hosts := rfl
@[simp] theorem State.modRing_passes (s : State) (b k : Nat) (f : Ring → Ring) : (s.modRing b k f).passes = s.passes := rfl
@[simp] theorem State.modRing_dev (s : State) (b k : Nat) (f : Ring → Ring) : (s.modRing b k f).dev = s.dev := rfl

@[simp] theorem State.modCtxBench_agenda (s : State) (b n : Nat) (f : CtxBench → CtxBench) : (s.modCtxBench b n f).agenda = s.agenda := rfl
@[simp] theorem State.modCtxBench_cur (s : State) (b n : Nat) (f : CtxBench → CtxBench) : (s.modCtxBench b n f).cur = s.cur := rfl
@[simp] theorem State.modCtxBench_free (s : State) (b n : Nat) (f : CtxBench → CtxBench) : (s.modCtxBench b n f).free = s.free := rfl
@[simp] theorem State.modCtxBench_mem (s : State) (b n : Nat) (f : CtxBench → CtxBench) : (s.modCtxBench b n f).mem = s.mem := rfl
@[simp] theorem State.modCtxBench_view (s : State) (b n : Nat) (f : CtxBench → CtxBench) : (s.modCtxBench b n f).view = s.view := rfl
@[simp] theorem State.modCtxBench_viewHeld (s : State) (b n : Nat) (f : CtxBench → CtxBench) : (s.modCtxBench b n f).viewHeld = s.viewHeld := rfl
@[simp] theorem State.modCtxBench_viewDirty (s : State) (b n : Nat) (f : CtxBench → CtxBench) : (s.modCtxBench b n f).viewDirty = s.viewDirty := rfl
@[simp] theorem State.modCtxBench_altered (s : State) (b n : Nat) (f : CtxBench → CtxBench) : (s.modCtxBench b n f).altered = s.altered := rfl
@[simp] theorem State.modCtxBench_poisoned (s : State) (b n : Nat) (f : CtxBench → CtxBench) : (s.modCtxBench b n f).poisoned = s.poisoned := rfl
@[simp] theorem State.modCtxBench_resv (s : State) (b n : Nat) (f : CtxBench → CtxBench) : (s.modCtxBench b n f).resv = s.resv := rfl
@[simp] theorem State.modCtxBench_tlbs (s : State) (b n : Nat) (f : CtxBench → CtxBench) : (s.modCtxBench b n f).tlbs = s.tlbs := rfl
@[simp] theorem State.modCtxBench_benches (s : State) (b n : Nat) (f : CtxBench → CtxBench) : (s.modCtxBench b n f).benches = s.benches.upd b {} fun x => { x with ctxs := x.ctxs.upd n {} f } := rfl
@[simp] theorem State.modCtxBench_dies (s : State) (b n : Nat) (f : CtxBench → CtxBench) : (s.modCtxBench b n f).dies = s.dies := rfl
@[simp] theorem State.modCtxBench_hosts (s : State) (b n : Nat) (f : CtxBench → CtxBench) : (s.modCtxBench b n f).hosts = s.hosts := rfl
@[simp] theorem State.modCtxBench_passes (s : State) (b n : Nat) (f : CtxBench → CtxBench) : (s.modCtxBench b n f).passes = s.passes := rfl
@[simp] theorem State.modCtxBench_dev (s : State) (b n : Nat) (f : CtxBench → CtxBench) : (s.modCtxBench b n f).dev = s.dev := rfl

@[simp] theorem State.modEng_agenda (s : State) (b : Nat) (e : Engine) (c : Nat) (f : EngCtx → EngCtx) : (s.modEng b e c f).agenda = s.agenda := rfl
@[simp] theorem State.modEng_cur (s : State) (b : Nat) (e : Engine) (c : Nat) (f : EngCtx → EngCtx) : (s.modEng b e c f).cur = s.cur := rfl
@[simp] theorem State.modEng_free (s : State) (b : Nat) (e : Engine) (c : Nat) (f : EngCtx → EngCtx) : (s.modEng b e c f).free = s.free := rfl
@[simp] theorem State.modEng_mem (s : State) (b : Nat) (e : Engine) (c : Nat) (f : EngCtx → EngCtx) : (s.modEng b e c f).mem = s.mem := rfl
@[simp] theorem State.modEng_view (s : State) (b : Nat) (e : Engine) (c : Nat) (f : EngCtx → EngCtx) : (s.modEng b e c f).view = s.view := rfl
@[simp] theorem State.modEng_viewHeld (s : State) (b : Nat) (e : Engine) (c : Nat) (f : EngCtx → EngCtx) : (s.modEng b e c f).viewHeld = s.viewHeld := rfl
@[simp] theorem State.modEng_viewDirty (s : State) (b : Nat) (e : Engine) (c : Nat) (f : EngCtx → EngCtx) : (s.modEng b e c f).viewDirty = s.viewDirty := rfl
@[simp] theorem State.modEng_altered (s : State) (b : Nat) (e : Engine) (c : Nat) (f : EngCtx → EngCtx) : (s.modEng b e c f).altered = s.altered := rfl
@[simp] theorem State.modEng_poisoned (s : State) (b : Nat) (e : Engine) (c : Nat) (f : EngCtx → EngCtx) : (s.modEng b e c f).poisoned = s.poisoned := rfl
@[simp] theorem State.modEng_resv (s : State) (b : Nat) (e : Engine) (c : Nat) (f : EngCtx → EngCtx) : (s.modEng b e c f).resv = s.resv := rfl
@[simp] theorem State.modEng_tlbs (s : State) (b : Nat) (e : Engine) (c : Nat) (f : EngCtx → EngCtx) : (s.modEng b e c f).tlbs = s.tlbs := rfl
@[simp] theorem State.modEng_benches (s : State) (b : Nat) (e : Engine) (c : Nat) (f : EngCtx → EngCtx) : (s.modEng b e c f).benches = s.benches.upd b {} fun x => { x with engs := x.engs.upd (engKey e c) {} f } := rfl
@[simp] theorem State.modEng_dies (s : State) (b : Nat) (e : Engine) (c : Nat) (f : EngCtx → EngCtx) : (s.modEng b e c f).dies = s.dies := rfl
@[simp] theorem State.modEng_hosts (s : State) (b : Nat) (e : Engine) (c : Nat) (f : EngCtx → EngCtx) : (s.modEng b e c f).hosts = s.hosts := rfl
@[simp] theorem State.modEng_passes (s : State) (b : Nat) (e : Engine) (c : Nat) (f : EngCtx → EngCtx) : (s.modEng b e c f).passes = s.passes := rfl
@[simp] theorem State.modEng_dev (s : State) (b : Nat) (e : Engine) (c : Nat) (f : EngCtx → EngCtx) : (s.modEng b e c f).dev = s.dev := rfl

@[simp] theorem State.setSem_agenda (s : State) (b k v : Nat) : (s.setSem b k v).agenda = s.agenda := rfl
@[simp] theorem State.setSem_cur (s : State) (b k v : Nat) : (s.setSem b k v).cur = s.cur := rfl
@[simp] theorem State.setSem_free (s : State) (b k v : Nat) : (s.setSem b k v).free = s.free := rfl
@[simp] theorem State.setSem_mem (s : State) (b k v : Nat) : (s.setSem b k v).mem = s.mem := rfl
@[simp] theorem State.setSem_view (s : State) (b k v : Nat) : (s.setSem b k v).view = s.view := rfl
@[simp] theorem State.setSem_viewHeld (s : State) (b k v : Nat) : (s.setSem b k v).viewHeld = s.viewHeld := rfl
@[simp] theorem State.setSem_viewDirty (s : State) (b k v : Nat) : (s.setSem b k v).viewDirty = s.viewDirty := rfl
@[simp] theorem State.setSem_altered (s : State) (b k v : Nat) : (s.setSem b k v).altered = s.altered := rfl
@[simp] theorem State.setSem_poisoned (s : State) (b k v : Nat) : (s.setSem b k v).poisoned = s.poisoned := rfl
@[simp] theorem State.setSem_resv (s : State) (b k v : Nat) : (s.setSem b k v).resv = s.resv := rfl
@[simp] theorem State.setSem_tlbs (s : State) (b k v : Nat) : (s.setSem b k v).tlbs = s.tlbs := rfl
@[simp] theorem State.setSem_benches (s : State) (b k v : Nat) : (s.setSem b k v).benches = s.benches.upd b {} fun x => { x with sems := x.sems.set k v } := rfl
@[simp] theorem State.setSem_dies (s : State) (b k v : Nat) : (s.setSem b k v).dies = s.dies := rfl
@[simp] theorem State.setSem_hosts (s : State) (b k v : Nat) : (s.setSem b k v).hosts = s.hosts := rfl
@[simp] theorem State.setSem_passes (s : State) (b k v : Nat) : (s.setSem b k v).passes = s.passes := rfl
@[simp] theorem State.setSem_dev (s : State) (b k v : Nat) : (s.setSem b k v).dev = s.dev := rfl

@[simp] theorem State.writeElem_agenda (s : State) (b : Nat) (w : Wave) (n l v : Nat) : (s.writeElem b w n l v).agenda = s.agenda := rfl
@[simp] theorem State.writeElem_cur (s : State) (b : Nat) (w : Wave) (n l v : Nat) : (s.writeElem b w n l v).cur = s.cur := rfl
@[simp] theorem State.writeElem_free (s : State) (b : Nat) (w : Wave) (n l v : Nat) : (s.writeElem b w n l v).free = s.free := rfl
@[simp] theorem State.writeElem_mem (s : State) (b : Nat) (w : Wave) (n l v : Nat) : (s.writeElem b w n l v).mem = Mem.write s.mem (storePa b (w.rowAddr n) + 4 * l) (leBytes 4 v) := rfl
@[simp] theorem State.writeElem_view (s : State) (b : Nat) (w : Wave) (n l v : Nat) : (s.writeElem b w n l v).view = s.view := rfl
@[simp] theorem State.writeElem_viewHeld (s : State) (b : Nat) (w : Wave) (n l v : Nat) : (s.writeElem b w n l v).viewHeld = s.viewHeld := rfl
@[simp] theorem State.writeElem_viewDirty (s : State) (b : Nat) (w : Wave) (n l v : Nat) : (s.writeElem b w n l v).viewDirty = s.viewDirty := rfl
@[simp] theorem State.writeElem_altered (s : State) (b : Nat) (w : Wave) (n l v : Nat) : (s.writeElem b w n l v).altered = s.altered := rfl
@[simp] theorem State.writeElem_poisoned (s : State) (b : Nat) (w : Wave) (n l v : Nat) : (s.writeElem b w n l v).poisoned = s.poisoned := rfl
@[simp] theorem State.writeElem_resv (s : State) (b : Nat) (w : Wave) (n l v : Nat) : (s.writeElem b w n l v).resv = s.resv := rfl
@[simp] theorem State.writeElem_tlbs (s : State) (b : Nat) (w : Wave) (n l v : Nat) : (s.writeElem b w n l v).tlbs = s.tlbs := rfl
@[simp] theorem State.writeElem_benches (s : State) (b : Nat) (w : Wave) (n l v : Nat) : (s.writeElem b w n l v).benches = s.benches := rfl
@[simp] theorem State.writeElem_dies (s : State) (b : Nat) (w : Wave) (n l v : Nat) : (s.writeElem b w n l v).dies = s.dies := rfl
@[simp] theorem State.writeElem_hosts (s : State) (b : Nat) (w : Wave) (n l v : Nat) : (s.writeElem b w n l v).hosts = s.hosts := rfl
@[simp] theorem State.writeElem_passes (s : State) (b : Nat) (w : Wave) (n l v : Nat) : (s.writeElem b w n l v).passes = s.passes := rfl
@[simp] theorem State.writeElem_dev (s : State) (b : Nat) (w : Wave) (n l v : Nat) : (s.writeElem b w n l v).dev = s.dev := rfl

@[simp] theorem State.fresh_agenda (s : State) : s.fresh.2.agenda = s.agenda := rfl
@[simp] theorem State.fresh_cur (s : State) : s.fresh.2.cur = s.cur := rfl
@[simp] theorem State.fresh_free (s : State) : s.fresh.2.free = s.free + 1 := rfl
@[simp] theorem State.fresh_mem (s : State) : s.fresh.2.mem = s.mem := rfl
@[simp] theorem State.fresh_view (s : State) : s.fresh.2.view = s.view := rfl
@[simp] theorem State.fresh_viewHeld (s : State) : s.fresh.2.viewHeld = s.viewHeld := rfl
@[simp] theorem State.fresh_viewDirty (s : State) : s.fresh.2.viewDirty = s.viewDirty := rfl
@[simp] theorem State.fresh_altered (s : State) : s.fresh.2.altered = s.altered := rfl
@[simp] theorem State.fresh_poisoned (s : State) : s.fresh.2.poisoned = s.poisoned := rfl
@[simp] theorem State.fresh_resv (s : State) : s.fresh.2.resv = s.resv := rfl
@[simp] theorem State.fresh_tlbs (s : State) : s.fresh.2.tlbs = s.tlbs := rfl
@[simp] theorem State.fresh_benches (s : State) : s.fresh.2.benches = s.benches := rfl
@[simp] theorem State.fresh_dies (s : State) : s.fresh.2.dies = s.dies := rfl
@[simp] theorem State.fresh_hosts (s : State) : s.fresh.2.hosts = s.hosts := rfl
@[simp] theorem State.fresh_passes (s : State) : s.fresh.2.passes = s.passes := rfl
@[simp] theorem State.fresh_dev (s : State) : s.fresh.2.dev = s.dev := rfl

@[simp] theorem State.modPass_agenda (s : State) (c n : Nat) (f : Pass → Pass) : (s.modPass c n f).agenda = s.agenda := by
  unfold State.modPass; split <;> rfl
@[simp] theorem State.modPass_cur (s : State) (c n : Nat) (f : Pass → Pass) : (s.modPass c n f).cur = s.cur := by
  unfold State.modPass; split <;> rfl
@[simp] theorem State.modPass_free (s : State) (c n : Nat) (f : Pass → Pass) : (s.modPass c n f).free = s.free := by
  unfold State.modPass; split <;> rfl
@[simp] theorem State.modPass_mem (s : State) (c n : Nat) (f : Pass → Pass) : (s.modPass c n f).mem = s.mem := by
  unfold State.modPass; split <;> rfl
@[simp] theorem State.modPass_view (s : State) (c n : Nat) (f : Pass → Pass) : (s.modPass c n f).view = s.view := by
  unfold State.modPass; split <;> rfl
@[simp] theorem State.modPass_viewHeld (s : State) (c n : Nat) (f : Pass → Pass) : (s.modPass c n f).viewHeld = s.viewHeld := by
  unfold State.modPass; split <;> rfl
@[simp] theorem State.modPass_viewDirty (s : State) (c n : Nat) (f : Pass → Pass) : (s.modPass c n f).viewDirty = s.viewDirty := by
  unfold State.modPass; split <;> rfl
@[simp] theorem State.modPass_altered (s : State) (c n : Nat) (f : Pass → Pass) : (s.modPass c n f).altered = s.altered := by
  unfold State.modPass; split <;> rfl
@[simp] theorem State.modPass_poisoned (s : State) (c n : Nat) (f : Pass → Pass) : (s.modPass c n f).poisoned = s.poisoned := by
  unfold State.modPass; split <;> rfl
@[simp] theorem State.modPass_resv (s : State) (c n : Nat) (f : Pass → Pass) : (s.modPass c n f).resv = s.resv := by
  unfold State.modPass; split <;> rfl
@[simp] theorem State.modPass_tlbs (s : State) (c n : Nat) (f : Pass → Pass) : (s.modPass c n f).tlbs = s.tlbs := by
  unfold State.modPass; split <;> rfl
@[simp] theorem State.modPass_benches (s : State) (c n : Nat) (f : Pass → Pass) : (s.modPass c n f).benches = s.benches := by
  unfold State.modPass; split <;> rfl
@[simp] theorem State.modPass_dies (s : State) (c n : Nat) (f : Pass → Pass) : (s.modPass c n f).dies = s.dies := by
  unfold State.modPass; split <;> rfl
@[simp] theorem State.modPass_hosts (s : State) (c n : Nat) (f : Pass → Pass) : (s.modPass c n f).hosts = s.hosts := by
  unfold State.modPass; split <;> rfl
@[simp] theorem State.modPass_dev (s : State) (c n : Nat) (f : Pass → Pass) : (s.modPass c n f).dev = s.dev := by
  unfold State.modPass; split <;> rfl

@[simp] theorem State.modWave_agenda (s : State) (b k : Nat) (f : Wave → Wave) : (s.modWave b k f).agenda = s.agenda := by
  unfold State.modWave; split <;> rfl
@[simp] theorem State.modWave_cur (s : State) (b k : Nat) (f : Wave → Wave) : (s.modWave b k f).cur = s.cur := by
  unfold State.modWave; split <;> rfl
@[simp] theorem State.modWave_free (s : State) (b k : Nat) (f : Wave → Wave) : (s.modWave b k f).free = s.free := by
  unfold State.modWave; split <;> rfl
@[simp] theorem State.modWave_mem (s : State) (b k : Nat) (f : Wave → Wave) : (s.modWave b k f).mem = s.mem := by
  unfold State.modWave; split <;> rfl
@[simp] theorem State.modWave_view (s : State) (b k : Nat) (f : Wave → Wave) : (s.modWave b k f).view = s.view := by
  unfold State.modWave; split <;> rfl
@[simp] theorem State.modWave_viewHeld (s : State) (b k : Nat) (f : Wave → Wave) : (s.modWave b k f).viewHeld = s.viewHeld := by
  unfold State.modWave; split <;> rfl
@[simp] theorem State.modWave_viewDirty (s : State) (b k : Nat) (f : Wave → Wave) : (s.modWave b k f).viewDirty = s.viewDirty := by
  unfold State.modWave; split <;> rfl
@[simp] theorem State.modWave_altered (s : State) (b k : Nat) (f : Wave → Wave) : (s.modWave b k f).altered = s.altered := by
  unfold State.modWave; split <;> rfl
@[simp] theorem State.modWave_poisoned (s : State) (b k : Nat) (f : Wave → Wave) : (s.modWave b k f).poisoned = s.poisoned := by
  unfold State.modWave; split <;> rfl
@[simp] theorem State.modWave_resv (s : State) (b k : Nat) (f : Wave → Wave) : (s.modWave b k f).resv = s.resv := by
  unfold State.modWave; split <;> rfl
@[simp] theorem State.modWave_tlbs (s : State) (b k : Nat) (f : Wave → Wave) : (s.modWave b k f).tlbs = s.tlbs := by
  unfold State.modWave; split <;> rfl
@[simp] theorem State.modWave_dies (s : State) (b k : Nat) (f : Wave → Wave) : (s.modWave b k f).dies = s.dies := by
  unfold State.modWave; split <;> rfl
@[simp] theorem State.modWave_hosts (s : State) (b k : Nat) (f : Wave → Wave) : (s.modWave b k f).hosts = s.hosts := by
  unfold State.modWave; split <;> rfl
@[simp] theorem State.modWave_passes (s : State) (b k : Nat) (f : Wave → Wave) : (s.modWave b k f).passes = s.passes := by
  unfold State.modWave; split <;> rfl
@[simp] theorem State.modWave_dev (s : State) (b k : Nat) (f : Wave → Wave) : (s.modWave b k f).dev = s.dev := by
  unfold State.modWave; split <;> rfl

@[simp] theorem State.modGroup_agenda (s : State) (b g : Nat) (f : Group → Group) : (s.modGroup b g f).agenda = s.agenda := by
  unfold State.modGroup; split <;> rfl
@[simp] theorem State.modGroup_cur (s : State) (b g : Nat) (f : Group → Group) : (s.modGroup b g f).cur = s.cur := by
  unfold State.modGroup; split <;> rfl
@[simp] theorem State.modGroup_free (s : State) (b g : Nat) (f : Group → Group) : (s.modGroup b g f).free = s.free := by
  unfold State.modGroup; split <;> rfl
@[simp] theorem State.modGroup_mem (s : State) (b g : Nat) (f : Group → Group) : (s.modGroup b g f).mem = s.mem := by
  unfold State.modGroup; split <;> rfl
@[simp] theorem State.modGroup_view (s : State) (b g : Nat) (f : Group → Group) : (s.modGroup b g f).view = s.view := by
  unfold State.modGroup; split <;> rfl
@[simp] theorem State.modGroup_viewHeld (s : State) (b g : Nat) (f : Group → Group) : (s.modGroup b g f).viewHeld = s.viewHeld := by
  unfold State.modGroup; split <;> rfl
@[simp] theorem State.modGroup_viewDirty (s : State) (b g : Nat) (f : Group → Group) : (s.modGroup b g f).viewDirty = s.viewDirty := by
  unfold State.modGroup; split <;> rfl
@[simp] theorem State.modGroup_altered (s : State) (b g : Nat) (f : Group → Group) : (s.modGroup b g f).altered = s.altered := by
  unfold State.modGroup; split <;> rfl
@[simp] theorem State.modGroup_poisoned (s : State) (b g : Nat) (f : Group → Group) : (s.modGroup b g f).poisoned = s.poisoned := by
  unfold State.modGroup; split <;> rfl
@[simp] theorem State.modGroup_resv (s : State) (b g : Nat) (f : Group → Group) : (s.modGroup b g f).resv = s.resv := by
  unfold State.modGroup; split <;> rfl
@[simp] theorem State.modGroup_tlbs (s : State) (b g : Nat) (f : Group → Group) : (s.modGroup b g f).tlbs = s.tlbs := by
  unfold State.modGroup; split <;> rfl
@[simp] theorem State.modGroup_dies (s : State) (b g : Nat) (f : Group → Group) : (s.modGroup b g f).dies = s.dies := by
  unfold State.modGroup; split <;> rfl
@[simp] theorem State.modGroup_hosts (s : State) (b g : Nat) (f : Group → Group) : (s.modGroup b g f).hosts = s.hosts := by
  unfold State.modGroup; split <;> rfl
@[simp] theorem State.modGroup_passes (s : State) (b g : Nat) (f : Group → Group) : (s.modGroup b g f).passes = s.passes := by
  unfold State.modGroup; split <;> rfl
@[simp] theorem State.modGroup_dev (s : State) (b g : Nat) (f : Group → Group) : (s.modGroup b g f).dev = s.dev := by
  unfold State.modGroup; split <;> rfl

@[simp] theorem State.modFrag_agenda (s : State) (b k e : Nat) (f : Frag → Frag) : (s.modFrag b k e f).agenda = s.agenda := by
  simp [State.modFrag]
@[simp] theorem State.modFrag_cur (s : State) (b k e : Nat) (f : Frag → Frag) : (s.modFrag b k e f).cur = s.cur := by
  simp [State.modFrag]
@[simp] theorem State.modFrag_free (s : State) (b k e : Nat) (f : Frag → Frag) : (s.modFrag b k e f).free = s.free := by
  simp [State.modFrag]
@[simp] theorem State.modFrag_mem (s : State) (b k e : Nat) (f : Frag → Frag) : (s.modFrag b k e f).mem = s.mem := by
  simp [State.modFrag]
@[simp] theorem State.modFrag_view (s : State) (b k e : Nat) (f : Frag → Frag) : (s.modFrag b k e f).view = s.view := by
  simp [State.modFrag]
@[simp] theorem State.modFrag_viewHeld (s : State) (b k e : Nat) (f : Frag → Frag) : (s.modFrag b k e f).viewHeld = s.viewHeld := by
  simp [State.modFrag]
@[simp] theorem State.modFrag_viewDirty (s : State) (b k e : Nat) (f : Frag → Frag) : (s.modFrag b k e f).viewDirty = s.viewDirty := by
  simp [State.modFrag]
@[simp] theorem State.modFrag_altered (s : State) (b k e : Nat) (f : Frag → Frag) : (s.modFrag b k e f).altered = s.altered := by
  simp [State.modFrag]
@[simp] theorem State.modFrag_poisoned (s : State) (b k e : Nat) (f : Frag → Frag) : (s.modFrag b k e f).poisoned = s.poisoned := by
  simp [State.modFrag]
@[simp] theorem State.modFrag_resv (s : State) (b k e : Nat) (f : Frag → Frag) : (s.modFrag b k e f).resv = s.resv := by
  simp [State.modFrag]
@[simp] theorem State.modFrag_tlbs (s : State) (b k e : Nat) (f : Frag → Frag) : (s.modFrag b k e f).tlbs = s.tlbs := by
  simp [State.modFrag]
@[simp] theorem State.modFrag_dies (s : State) (b k e : Nat) (f : Frag → Frag) : (s.modFrag b k e f).dies = s.dies := by
  simp [State.modFrag]
@[simp] theorem State.modFrag_hosts (s : State) (b k e : Nat) (f : Frag → Frag) : (s.modFrag b k e f).hosts = s.hosts := by
  simp [State.modFrag]
@[simp] theorem State.modFrag_passes (s : State) (b k e : Nat) (f : Frag → Frag) : (s.modFrag b k e f).passes = s.passes := by
  simp [State.modFrag]
@[simp] theorem State.modFrag_dev (s : State) (b k e : Nat) (f : Frag → Frag) : (s.modFrag b k e f).dev = s.dev := by
  simp [State.modFrag]

@[simp] theorem State.setS_agenda (s : State) (cx : Wcx) (n : Nat) (v : W64) : (s.setS cx n v).agenda = s.agenda := by
  simp [State.setS]
@[simp] theorem State.setS_cur (s : State) (cx : Wcx) (n : Nat) (v : W64) : (s.setS cx n v).cur = s.cur := by
  simp [State.setS]
@[simp] theorem State.setS_free (s : State) (cx : Wcx) (n : Nat) (v : W64) : (s.setS cx n v).free = s.free := by
  simp [State.setS]
@[simp] theorem State.setS_mem (s : State) (cx : Wcx) (n : Nat) (v : W64) : (s.setS cx n v).mem = s.mem := by
  simp [State.setS]
@[simp] theorem State.setS_view (s : State) (cx : Wcx) (n : Nat) (v : W64) : (s.setS cx n v).view = s.view := by
  simp [State.setS]
@[simp] theorem State.setS_viewHeld (s : State) (cx : Wcx) (n : Nat) (v : W64) : (s.setS cx n v).viewHeld = s.viewHeld := by
  simp [State.setS]
@[simp] theorem State.setS_viewDirty (s : State) (cx : Wcx) (n : Nat) (v : W64) : (s.setS cx n v).viewDirty = s.viewDirty := by
  simp [State.setS]
@[simp] theorem State.setS_altered (s : State) (cx : Wcx) (n : Nat) (v : W64) : (s.setS cx n v).altered = s.altered := by
  simp [State.setS]
@[simp] theorem State.setS_poisoned (s : State) (cx : Wcx) (n : Nat) (v : W64) : (s.setS cx n v).poisoned = s.poisoned := by
  simp [State.setS]
@[simp] theorem State.setS_resv (s : State) (cx : Wcx) (n : Nat) (v : W64) : (s.setS cx n v).resv = s.resv := by
  simp [State.setS]
@[simp] theorem State.setS_tlbs (s : State) (cx : Wcx) (n : Nat) (v : W64) : (s.setS cx n v).tlbs = s.tlbs := by
  simp [State.setS]
@[simp] theorem State.setS_dies (s : State) (cx : Wcx) (n : Nat) (v : W64) : (s.setS cx n v).dies = s.dies := by
  simp [State.setS]
@[simp] theorem State.setS_hosts (s : State) (cx : Wcx) (n : Nat) (v : W64) : (s.setS cx n v).hosts = s.hosts := by
  simp [State.setS]
@[simp] theorem State.setS_passes (s : State) (cx : Wcx) (n : Nat) (v : W64) : (s.setS cx n v).passes = s.passes := by
  simp [State.setS]
@[simp] theorem State.setS_dev (s : State) (cx : Wcx) (n : Nat) (v : W64) : (s.setS cx n v).dev = s.dev := by
  simp [State.setS]

@[simp] theorem State.setM_agenda (s : State) (cx : Wcx) (n : Nat) (v : W32) : (s.setM cx n v).agenda = s.agenda := by
  simp [State.setM]
@[simp] theorem State.setM_cur (s : State) (cx : Wcx) (n : Nat) (v : W32) : (s.setM cx n v).cur = s.cur := by
  simp [State.setM]
@[simp] theorem State.setM_free (s : State) (cx : Wcx) (n : Nat) (v : W32) : (s.setM cx n v).free = s.free := by
  simp [State.setM]
@[simp] theorem State.setM_mem (s : State) (cx : Wcx) (n : Nat) (v : W32) : (s.setM cx n v).mem = s.mem := by
  simp [State.setM]
@[simp] theorem State.setM_view (s : State) (cx : Wcx) (n : Nat) (v : W32) : (s.setM cx n v).view = s.view := by
  simp [State.setM]
@[simp] theorem State.setM_viewHeld (s : State) (cx : Wcx) (n : Nat) (v : W32) : (s.setM cx n v).viewHeld = s.viewHeld := by
  simp [State.setM]
@[simp] theorem State.setM_viewDirty (s : State) (cx : Wcx) (n : Nat) (v : W32) : (s.setM cx n v).viewDirty = s.viewDirty := by
  simp [State.setM]
@[simp] theorem State.setM_altered (s : State) (cx : Wcx) (n : Nat) (v : W32) : (s.setM cx n v).altered = s.altered := by
  simp [State.setM]
@[simp] theorem State.setM_poisoned (s : State) (cx : Wcx) (n : Nat) (v : W32) : (s.setM cx n v).poisoned = s.poisoned := by
  simp [State.setM]
@[simp] theorem State.setM_resv (s : State) (cx : Wcx) (n : Nat) (v : W32) : (s.setM cx n v).resv = s.resv := by
  simp [State.setM]
@[simp] theorem State.setM_tlbs (s : State) (cx : Wcx) (n : Nat) (v : W32) : (s.setM cx n v).tlbs = s.tlbs := by
  simp [State.setM]
@[simp] theorem State.setM_dies (s : State) (cx : Wcx) (n : Nat) (v : W32) : (s.setM cx n v).dies = s.dies := by
  simp [State.setM]
@[simp] theorem State.setM_hosts (s : State) (cx : Wcx) (n : Nat) (v : W32) : (s.setM cx n v).hosts = s.hosts := by
  simp [State.setM]
@[simp] theorem State.setM_passes (s : State) (cx : Wcx) (n : Nat) (v : W32) : (s.setM cx n v).passes = s.passes := by
  simp [State.setM]
@[simp] theorem State.setM_dev (s : State) (cx : Wcx) (n : Nat) (v : W32) : (s.setM cx n v).dev = s.dev := by
  simp [State.setM]

@[simp] theorem State.setScc_agenda (s : State) (cx : Wcx) (v : BitVec 4) : (s.setScc cx v).agenda = s.agenda := by
  simp [State.setScc]
@[simp] theorem State.setScc_cur (s : State) (cx : Wcx) (v : BitVec 4) : (s.setScc cx v).cur = s.cur := by
  simp [State.setScc]
@[simp] theorem State.setScc_free (s : State) (cx : Wcx) (v : BitVec 4) : (s.setScc cx v).free = s.free := by
  simp [State.setScc]
@[simp] theorem State.setScc_mem (s : State) (cx : Wcx) (v : BitVec 4) : (s.setScc cx v).mem = s.mem := by
  simp [State.setScc]
@[simp] theorem State.setScc_view (s : State) (cx : Wcx) (v : BitVec 4) : (s.setScc cx v).view = s.view := by
  simp [State.setScc]
@[simp] theorem State.setScc_viewHeld (s : State) (cx : Wcx) (v : BitVec 4) : (s.setScc cx v).viewHeld = s.viewHeld := by
  simp [State.setScc]
@[simp] theorem State.setScc_viewDirty (s : State) (cx : Wcx) (v : BitVec 4) : (s.setScc cx v).viewDirty = s.viewDirty := by
  simp [State.setScc]
@[simp] theorem State.setScc_altered (s : State) (cx : Wcx) (v : BitVec 4) : (s.setScc cx v).altered = s.altered := by
  simp [State.setScc]
@[simp] theorem State.setScc_poisoned (s : State) (cx : Wcx) (v : BitVec 4) : (s.setScc cx v).poisoned = s.poisoned := by
  simp [State.setScc]
@[simp] theorem State.setScc_resv (s : State) (cx : Wcx) (v : BitVec 4) : (s.setScc cx v).resv = s.resv := by
  simp [State.setScc]
@[simp] theorem State.setScc_tlbs (s : State) (cx : Wcx) (v : BitVec 4) : (s.setScc cx v).tlbs = s.tlbs := by
  simp [State.setScc]
@[simp] theorem State.setScc_dies (s : State) (cx : Wcx) (v : BitVec 4) : (s.setScc cx v).dies = s.dies := by
  simp [State.setScc]
@[simp] theorem State.setScc_hosts (s : State) (cx : Wcx) (v : BitVec 4) : (s.setScc cx v).hosts = s.hosts := by
  simp [State.setScc]
@[simp] theorem State.setScc_passes (s : State) (cx : Wcx) (v : BitVec 4) : (s.setScc cx v).passes = s.passes := by
  simp [State.setScc]
@[simp] theorem State.setScc_dev (s : State) (cx : Wcx) (v : BitVec 4) : (s.setScc cx v).dev = s.dev := by
  simp [State.setScc]

theorem State.bench_modBench (s : State) (b x : Nat) (f : Bench → Bench) :
    (s.modBench b f).bench x = if x = b then f (s.bench b) else s.bench x := by
  simp only [State.bench, State.modBench_benches, Tbl.get_upd]

@[simp] theorem State.bench_modBench_self (s : State) (b : Nat) (f : Bench → Bench) :
    (s.modBench b f).bench b = f (s.bench b) := by simp [State.bench_modBench]

/-- A change of a resident wave that exists changes it and no other. -/
theorem State.wave?_modWave (s : State) (b k x y : Nat) (f : Wave → Wave) :
    (s.modWave b k f).wave? x y = if x = b ∧ y = k then (s.wave? b k).map f else s.wave? x y := by
  unfold State.modWave
  cases h : s.wave? b k with
  | none =>
    by_cases hx : x = b ∧ y = k
    · obtain ⟨rfl, rfl⟩ := hx; simp [h]
    · simp [hx]
  | some w =>
    simp only [State.wave?, State.bench_modBench, Option.map]
    by_cases hx : x = b
    · subst hx
      by_cases hy : y = k
      · subst hy; simp
      · simp [hy]
    · simp [hx]

/-- The parts of a bench besides its waves are untouched by a change of a wave. -/
theorem State.bench_modWave (s : State) (b k x : Nat) (f : Wave → Wave) :
    { (s.modWave b k f).bench x with waves := [] } = { s.bench x with waves := [] } := by
  unfold State.modWave
  cases h : s.wave? b k with
  | none => rfl
  | some w =>
    simp only [State.bench_modBench]
    by_cases hx : x = b
    · subst hx; simp
    · simp [hx]

@[simp] theorem State.group?_modWave (s : State) (b k x y : Nat) (f : Wave → Wave) :
    (s.modWave b k f).group? x y = s.group? x y := by
  have h := congrArg Bench.groups (State.bench_modWave s b k x f)
  simpa [State.group?] using congrArg (fun t => Tbl.get? t y) h

theorem State.frag?_modFrag (s : State) (b k e x y z : Nat) (f : Frag → Frag) :
    (s.modFrag b k e f).frag? x y z = if x = b ∧ y = k ∧ z = e then (s.frag? b k e).map f else s.frag? x y z := by
  unfold State.frag? State.modFrag
  simp only [State.wave?_modWave]
  by_cases h : x = b ∧ y = k
  · obtain ⟨rfl, rfl⟩ := h
    simp only [true_and, and_self, if_true]
    cases hw : s.wave? x y with
    | none => simp
    | some w =>
      simp only [Option.map_some]
      cases hf : w.frags.get? e with
      | none =>
        by_cases hz : z = e
        · subst hz; simp [hf]
        · simp [hz]
      | some g =>
        by_cases hz : z = e
        · subst hz; simp
        · simp [hz]
  · have h' : ¬ (x = b ∧ y = k ∧ z = e) := fun hh => h ⟨hh.1, hh.2.1⟩
    simp [h, h']

@[simp] theorem State.group?_modFrag (s : State) (b k e x y : Nat) (f : Frag → Frag) :
    (s.modFrag b k e f).group? x y = s.group? x y := by simp [State.modFrag]

end Sys2Proof.Machine
end

