-- ==== Sys2Proof/Laws/Issue.lean ====
section
/-! SUPPORT. What issuing a wave instruction can do (`State.issue`, `State.finish`): the laws that statements about wave
instructions cite. -/

namespace Sys2Proof.Machine

open Sys2Proof

theorem leBytes_length (n w : Nat) : (leBytes n w).length = n := by
  induction n generalizing w with
  | zero => rfl
  | succ n ih => simp [leBytes, ih]

theorem leBytes_getD (n w i : Nat) (h : i < n) : (leBytes n w).getD i 0 = BitVec.ofNat 8 (w / 2 ^ (8 * i)) := by
  induction n generalizing w i with
  | zero => omega
  | succ n ih =>
    cases i with
    | zero => simp [leBytes]
    | succ i =>
      have := ih (w / 256) i (by omega)
      simp only [List.getD_eq_getElem?_getD] at this ⊢
      simp only [leBytes, List.getElem?_cons_succ, this]
      rw [Nat.div_div_eq_div_mul, show 2 ^ (8 * (i + 1)) = 256 * 2 ^ (8 * i) by rw [Nat.mul_add, Nat.pow_add]; omega]

/-- The turn's fragment, its wave and its group are in their tables. -/
theorem State.wcx_some {s : State} {cx : Wcx} (h : s.wcx = some cx) :
    s.cur = .wave cx.b cx.slot cx.e ∧ s.wave? cx.b cx.slot = some cx.w ∧ cx.w.frags.get? cx.e = some cx.f
      ∧ s.group? cx.b cx.w.group = some cx.g := by
  unfold State.wcx at h
  split at h
  · split at h
    · simp at h
    · split at h
      · cases h; simp_all
      · simp at h
  · simp at h

/-- What an instruction comes to when no check refuses it. -/
theorem State.issue_eq {s : State} {cx : Wcx} {i : WInfo} {body : Wcx → WRes} (h : Issues s cx i) :
    s.issue i body =
      match body cx with
      | .done s' vs terms => .next (s'.finish cx i (cx.f.pc + 8) vs terms)
      | .jump s' pc => .next (s'.finish cx i pc [] 0)
      | .stay s' => .next (s'.noteFlight cx i)
      | .own s' => .next s'
      | .raise s' r => .next (s'.fault cx r) := by
  simp only [State.issue, h.turn, h.order, h.legal, State.regPoison, State.putPoison, h.clean, if_true]
  cases body cx <;> rfl

/-! ## Results in memory -/

/-- Lane values written to memory. -/
theorem Mem.putLanes (base : Nat) (vals : List Nat) (ls : List Nat) (hls : ∀ l ∈ ls, l < 32) {m : List Host.Cell}
    (hm : Mem.wf m = true) :
    Mem.wf (ls.foldl (fun m l => Mem.write m (base + 4 * l) (leBytes 4 (vals.getD l 0))) m) = true ∧
    ∀ a, Mem.get (ls.foldl (fun m l => Mem.write m (base + 4 * l) (leBytes 4 (vals.getD l 0))) m) a =
      if base ≤ a ∧ (a - base) / 4 ∈ ls then
        BitVec.ofNat 8 (vals.getD ((a - base) / 4) 0 / 2 ^ (8 * ((a - base) % 4)))
      else Mem.get m a := by
  induction ls generalizing m with
  | nil => exact ⟨hm, fun a => by simp⟩
  | cons l ls ih =>
    have hm' : Mem.wf (Mem.write m (base + 4 * l) (leBytes 4 (vals.getD l 0))) = true := Mem.wf_write hm _ _
    have ih' := ih (fun k hk => hls k (List.mem_cons_of_mem _ hk)) hm'
    refine ⟨ih'.1, fun a => ?_⟩
    rw [List.foldl_cons, ih'.2 a, Mem.get_write hm, leBytes_length]
    by_cases h1 : base ≤ a ∧ (a - base) / 4 ∈ ls
    · simp [h1]
    · rw [if_neg h1]
      by_cases h2 : base ≤ a ∧ (a - base) / 4 = l
      · obtain ⟨h2, h3⟩ := h2
        have e : a - (base + 4 * l) = (a - base) % 4 := by omega
        rw [if_pos (by omega), if_pos ⟨h2, by simp [h3]⟩, leBytes_getD _ _ _ (by omega), e, h3]
      · have h3 : ¬ (base ≤ a ∧ (a - base) / 4 ∈ l :: ls) := by
          simp only [List.mem_cons, not_and, not_or] at h1 h2 ⊢
          exact fun h => ⟨h2 h, h1 h⟩
        rw [if_neg (by omega), if_neg h3]

theorem mem_lanesOf (m : W32) (n : Nat) : n ∈ lanesOf m ↔ m.getLsbD n = true := by
  simp only [lanesOf, lanes, List.mem_filter, List.mem_range, and_iff_right_iff_imp]
  exact fun h => BitVec.lt_of_getLsbD h

theorem Mem.putMask (base : Nat) (mask : W32) (vals : List Nat) {m : List Host.Cell} (hm : Mem.wf m = true) (a : Nat) :
    Mem.get ((lanesOf mask).foldl (fun m l => Mem.write m (base + 4 * l) (leBytes 4 (vals.getD l 0))) m) a =
      (elemByte base mask vals a).getD (Mem.get m a) := by
  rw [(Mem.putLanes base vals (lanesOf mask) (fun l h => BitVec.lt_of_getLsbD ((mem_lanesOf mask l).1 h)) hm).2 a]
  unfold elemByte
  by_cases h : base ≤ a ∧ mask.getLsbD ((a - base) / 4) = true
  · have h' := BitVec.lt_of_getLsbD h.2
    rw [if_pos ⟨h.1, (mem_lanesOf mask _).2 h.2⟩, if_pos ⟨h.1, by omega, h.2⟩]; rfl
  · rw [if_neg (fun h' => h ⟨h'.1, (mem_lanesOf mask _).1 h'.2⟩), if_neg (fun h' => h ⟨h'.1, h'.2.2⟩)]; rfl

/-- A vector result changes memory alone. -/
theorem State.putV_eq (s : State) (cx : Wcx) (v : VRes) :
    s.putV cx v = { s with mem := (lanesOf v.mask).foldl (fun m l =>
      Mem.write m (storePa cx.b (cx.w.rowAddr v.reg) + 4 * l) (leBytes 4 (v.vals.getD l 0))) s.mem } := by
  unfold State.putV
  generalize lanesOf v.mask = ls
  induction ls generalizing s with
  | nil => rfl
  | cons l ls ih => rw [List.foldl_cons, ih]; rfl

/-- A vector result applied keeps the canonical form of memory. -/
theorem State.putV_ok {s : State} (cx : Wcx) (v : VRes) (hm : s.MemOk) : (s.putV cx v).MemOk := by
  rw [State.putV_eq]
  exact (Mem.putLanes _ _ _ (fun l h => BitVec.lt_of_getLsbD ((mem_lanesOf _ l).1 h)) hm).1

/-- A vector result applied changes the bytes of its lanes' elements. -/
theorem State.putV_mem {s : State} (cx : Wcx) (v : VRes) (hm : s.MemOk) :
    MemAfter s (s.putV cx v) (rowByte cx v.reg v.mask v.vals) := by
  intro a
  have e := congrArg State.mem (State.putV_eq s cx v)
  rw [e]
  unfold rowByte
  exact Mem.putMask (storePa cx.b (cx.w.rowAddr v.reg)) v.mask v.vals hm a

theorem resByte_cons (cx : Wcx) (r : Option Byte) (vs : List VRes) (a : Nat) :
    vs.foldl (fun r v => (rowByte cx v.reg v.mask v.vals a).or r) r = (resByte cx vs a).or r := by
  unfold resByte
  induction vs generalizing r with
  | nil => simp
  | cons v vs ih => simp only [List.foldl_cons]; rw [ih, ih (Option.or _ none)]; simp [Option.or_assoc]

theorem resByte_cons' (cx : Wcx) (v : VRes) (vs : List VRes) (a : Nat) :
    resByte cx (v :: vs) a = (resByte cx vs a).or (rowByte cx v.reg v.mask v.vals a) := by
  have := resByte_cons cx ((rowByte cx v.reg v.mask v.vals a).or none) vs a
  rw [Option.or_none] at this
  rw [← this]
  simp only [resByte, List.foldl_cons, Option.or_none]

theorem State.putVs_ok {s : State} (cx : Wcx) (vs : List VRes) (hm : s.MemOk) :
    (vs.foldl (fun s v => s.putV cx v) s).MemOk := by
  induction vs generalizing s with
  | nil => exact hm
  | cons v vs ih => exact ih (State.putV_ok cx v hm)

theorem MemAfter.trans {s t u : State} {f g : Nat → Option Byte} (h1 : MemAfter s t f) (h2 : MemAfter t u g) :
    MemAfter s u fun a => (g a).or (f a) := by
  intro a
  have e1 := h1 a
  have e2 := h2 a
  rw [e2, e1]
  show _ = ((g a).or (f a)).getD _
  generalize g a = x
  generalize f a = y
  cases x <;> simp

/-- Vector results applied change the bytes of their lanes' elements. -/
theorem State.putVs_mem {s : State} (cx : Wcx) (vs : List VRes) (hm : s.MemOk) :
    MemAfter s (vs.foldl (fun s v => s.putV cx v) s) (resByte cx vs) := by
  induction vs generalizing s with
  | nil => exact fun a => by simp [resByte]
  | cons v vs ih =>
    have := (State.putV_mem cx v hm).trans (ih (State.putV_ok cx v hm))
    simp only [← resByte_cons'] at this
    exact this

theorem State.putVs_eq (s : State) (cx : Wcx) (vs : List VRes) :
    ∃ m, vs.foldl (fun s v => s.putV cx v) s = { s with mem := m } := by
  induction vs generalizing s with
  | nil => exact ⟨s.mem, rfl⟩
  | cons v vs ih =>
    obtain ⟨m', hm'⟩ := ih (s.putV cx v)
    exact ⟨m', by rw [List.foldl_cons, hm', State.putV_eq]⟩

/-! ## Changes of the issuing wave -/

/-- `t` is `s` with changes of the issuing wave that leave its fragments and its group alone. -/
structure Touched (s t : State) (cx : Wcx) (w : Wave) : Prop where
  mem : t.mem = s.mem
  only : OnlyWave s t cx 0
  wave : t.wave? cx.b cx.slot = some w
  frags : w.frags = cx.w.frags
  group : w.group = cx.w.group

@[simp] theorem State.bare_modWave (s : State) (b k x : Nat) (f : Wave → Wave) :
    ((s.modWave b k f).bench x).bare = (s.bench x).bare := by
  unfold State.modWave
  cases h : s.wave? b k with
  | none => rfl
  | some w =>
    simp only [State.bench_modBench]
    by_cases hx : x = b
    · subst hx; simp [Bench.bare]
    · simp [hx]

@[simp] theorem Group.hashed_zero (g : Group) : g.hashed 0#64 = g := by simp [Group.hashed]

theorem Touched.refl {s : State} {cx : Wcx} (h : s.wcx = some cx) : Touched s s cx cx.w := by
  obtain ⟨-, h2, -, h4⟩ := State.wcx_some h
  exact ⟨rfl, ⟨⟨rfl, rfl, rfl, ⟨rfl, rfl, rfl, rfl⟩, rfl, rfl, rfl, rfl, rfl, rfl, rfl⟩, fun _ _ => rfl, rfl, fun _ _ => rfl,
    fun k => by split <;> simp_all⟩, h2, rfl, rfl⟩

theorem Touched.wave_step {s t : State} {cx : Wcx} {w : Wave} (h : Touched s t cx w) (f : Wave → Wave)
    (hf : (f w).frags = w.frags) (hg : (f w).group = w.group) : Touched s (t.modWave cx.b cx.slot f) cx (f w) := by
  obtain ⟨hm, ⟨hq, ho, hb, hw, hgr⟩, h1, h2, h3⟩ := h
  refine ⟨by simp [hm], ⟨?quiet, ?others, ?bench, ?waves, ?groups⟩, ?wave, by rw [hf, h2], by rw [hg, h3]⟩
  case quiet =>
    constructor <;> simp [hq.agenda, hq.cur, hq.free, hq.view.1, hq.view.2.1, hq.view.2.2.1, hq.view.2.2.2, hq.poisoned,
      hq.resv, hq.tlbs, hq.dies, hq.hosts, hq.passes, hq.dev]
  case others =>
    intro b hbn
    rw [← ho b hbn]
    simp only [State.modWave]
    split
    · rw [State.bench_modBench, if_neg hbn]
    · rfl
  case bench => rw [State.bare_modWave, hb]
  case waves => intro k hk; rw [State.wave?_modWave, if_neg (by simp [hk]), hw k hk]
  case groups => intro k; rw [State.group?_modWave, hgr k]
  case wave => rw [State.wave?_modWave]; simp [h1]

theorem Quiet.trans {s t u : State} (h : Quiet s t) (h' : Quiet t u) : Quiet s u := by
  obtain ⟨a1, a2, a3, ⟨a4, a5, a6, a6'⟩, a7, a7', a8, a9, a10, a11, a12⟩ := h
  obtain ⟨b1, b2, b3, ⟨b4, b5, b6, b6'⟩, b7, b7', b8, b9, b10, b11, b12⟩ := h'
  exact ⟨b1.trans a1, b2.trans a2, b3.trans a3, ⟨b4.trans a4, b5.trans a5, b6.trans a6, b6'.trans a6'⟩, b7.trans a7, b7'.trans a7', b8.trans a8,
    b9.trans a9, b10.trans a10, b11.trans a11, b12.trans a12⟩

theorem State.wave?_modGroup (s : State) (b g x y : Nat) (f : Group → Group) :
    (s.modGroup b g f).wave? x y = s.wave? x y := by
  unfold State.modGroup
  split
  · simp only [State.wave?, State.bench_modBench]; split <;> simp_all
  · rfl

theorem State.group?_modGroup (s : State) (b g x y : Nat) (f : Group → Group) :
    (s.modGroup b g f).group? x y = if x = b ∧ y = g then (s.group? b g).map f else s.group? x y := by
  unfold State.modGroup
  cases h : s.group? b g with
  | none =>
    by_cases hx : x = b ∧ y = g
    · obtain ⟨rfl, rfl⟩ := hx; simp [h]
    · simp [hx]
  | some w =>
    simp only [State.group?, State.bench_modBench, Option.map]
    by_cases hx : x = b
    · subst hx
      by_cases hy : y = g
      · subst hy; simp
      · simp [hy]
    · simp [hx]

theorem State.bare_modGroup (s : State) (b g x : Nat) (f : Group → Group) :
    ((s.modGroup b g f).bench x).bare = (s.bench x).bare := by
  unfold State.modGroup
  split
  · simp only [State.bench_modBench]; split <;> simp_all [Bench.bare]
  · rfl

theorem State.bench_modGroup_ne (s : State) (b g x : Nat) (f : Group → Group) (h : x ≠ b) :
    (s.modGroup b g f).bench x = s.bench x := by
  unfold State.modGroup
  split
  · rw [State.bench_modBench, if_neg h]
  · rfl

theorem State.bench_modWave_ne (s : State) (b k x : Nat) (f : Wave → Wave) (h : x ≠ b) :
    (s.modWave b k f).bench x = s.bench x := by
  unfold State.modWave
  split
  · rw [State.bench_modBench, if_neg h]
  · rfl

theorem Quiet.modWave (s : State) (b k : Nat) (f : Wave → Wave) : Quiet s (s.modWave b k f) := by
  constructor <;> simp

theorem Quiet.modGroup (s : State) (b k : Nat) (f : Group → Group) : Quiet s (s.modGroup b k f) := by
  constructor <;> simp

/-- What completing an instruction does, to a state that differs from the one before by its memory and by changes of the
issuing wave. -/
theorem State.finish_completes {s s' : State} {cx : Wcx} {i : WInfo} {w : Wave} (pc : W64) (vs : List VRes) (terms : W64)
    (h : Issues s cx i) (hm : s.MemOk) (ht : Touched s s' cx w) :
    Completes s (s'.finish cx i pc vs terms) cx i pc vs terms w := by
  obtain ⟨hc, hw, hf, hg⟩ := State.wcx_some h.turn
  obtain ⟨tm, ⟨tq, tofs, tb, tw, tg⟩, t1, t2, t3⟩ := ht
  -- results
  have hp : s'.poisoned = [] := by rw [tq.poisoned, h.clean]
  have step1 : ∃ m, (if i.tr then s' else vs.foldl (fun s v => s.putV cx v) (s'.clearRows cx vs)) = { s' with mem := m } ∧
      ∀ a, Mem.get m a = (if i.tr then none else resByte cx vs a).getD (Mem.get s.mem a) := by
    cases i.tr with
    | true => exact ⟨s'.mem, rfl, fun a => by simp [tm]⟩
    | false =>
      have hc : s'.clearRows cx vs = s' := by simp [State.clearRows, hp]
      have hm' : s'.MemOk := by unfold State.MemOk at hm ⊢; rw [tm]; exact hm
      obtain ⟨m, e⟩ := State.putVs_eq s' cx vs
      have e' := State.putVs_mem cx vs hm'
      refine ⟨m, by simp [hc, e], fun a => ?_⟩
      have := e' a
      rw [e, tm] at this
      simpa using this
  obtain ⟨m, e1, em⟩ := step1
  unfold State.finish
  simp only [e1]
  -- the store hash
  generalize hs1 : ({ s' with mem := m } : State) = s1
  have q1 : Quiet s s1 := by
    subst hs1; exact ⟨tq.1, tq.2, tq.3, tq.4, tq.5, tq.6, tq.7, tq.8, tq.9, tq.10, tq.11⟩
  have b1 : ∀ b, s1.bench b = s'.bench b := by subst hs1; exact fun _ => rfl
  have w1 : ∀ b k, s1.wave? b k = s'.wave? b k := by subst hs1; exact fun _ _ => rfl
  have g1 : ∀ b k, s1.group? b k = s'.group? b k := by subst hs1; exact fun _ _ => rfl
  have m1 : s1.mem = m := by subst hs1; rfl
  generalize hs2 : (if dueTerms cx.f i terms = 0 then s1 else
    s1.modGroup cx.b cx.w.group fun g => { g with sum := g.sum + dueTerms cx.f i terms }) = s2
  have o2 : OnlyWave s s2 cx (dueTerms cx.f i terms) ∧ (∀ b k, s2.wave? b k = s'.wave? b k) ∧ s2.mem = m := by
    subst hs2
    by_cases hd : dueTerms cx.f i terms = 0
    · rw [if_pos hd, hd]
      exact ⟨⟨q1, fun b hb => by rw [b1, tofs b hb], by rw [b1, tb], fun k hk => by rw [w1, tw k hk],
        fun k => by rw [g1, tg k]⟩, w1, m1⟩
    · rw [if_neg hd]
      refine ⟨⟨q1.trans (Quiet.modGroup _ _ _ _), fun b hb => by rw [State.bench_modGroup_ne _ _ _ _ _ hb, b1, tofs b hb],
        by rw [State.bare_modGroup, b1, tb], fun k hk => by rw [State.wave?_modGroup, w1, tw k hk], fun k => ?_⟩,
        fun b k => by rw [State.wave?_modGroup, w1], by rw [State.modGroup_mem, m1]⟩
      rw [State.group?_modGroup]
      by_cases hk : k = cx.w.group
      · rw [if_pos ⟨rfl, hk⟩, if_pos hk, g1, tg, if_pos rfl]
        simp [Group.hashed]
      · rw [if_neg (fun h => hk h.2), if_neg hk, g1, tg, if_neg hk]
  obtain ⟨o2, w2, m2⟩ := o2
  -- the operand cache
  generalize hs3 : (if i.oc = [] && cx.w.oc = [] then s2 else
    s2.modWave cx.b cx.slot fun w => { w with oc := nextCache w.oc i }) = s3
  have o3 : OnlyWave s s3 cx (dueTerms cx.f i terms) ∧
      (∃ w', s3.wave? cx.b cx.slot = some w' ∧ w'.bare = w.bare ∧ w'.frags = w.frags) ∧ s3.mem = m := by
    subst hs3
    split
    · exact ⟨o2, ⟨w, by rw [w2, t1], rfl, rfl⟩, m2⟩
    · refine ⟨⟨o2.quiet.trans (Quiet.modWave _ _ _ _), fun b hb => by rw [State.bench_modWave_ne _ _ _ _ _ hb, o2.others b hb],
        by rw [State.bare_modWave, o2.bench], fun k hk => by rw [State.wave?_modWave, if_neg (by simp [hk]), o2.waves k hk],
        fun k => by rw [State.group?_modWave, o2.groups k]⟩,
        ⟨{ w with oc := nextCache w.oc i }, by rw [State.wave?_modWave, if_pos ⟨rfl, rfl⟩, w2, t1]; rfl, rfl, rfl⟩,
        by rw [State.modWave_mem, m2]⟩
  obtain ⟨o3, ⟨w', w3, wb, wf⟩, m3⟩ := o3
  have cyc : s3.cycle cx.b = s.cycle cx.b := by
    simp only [State.cycle, State.domain, State.die, o3.quiet.dev, o3.quiet.dies]
  rw [cyc]
  refine ⟨fun a => by rw [State.modFrag_mem, m3, em], ⟨?_, ?_, ?_, ?_, ?_⟩, ?_, ?_, ?_⟩
  · exact o3.quiet.trans (Quiet.modWave _ _ _ _)
  · intro b hb; rw [State.modFrag, State.bench_modWave_ne _ _ _ _ _ hb, o3.others b hb]
  · rw [State.modFrag, State.bare_modWave, o3.bench]
  · intro k hk; rw [State.modFrag, State.wave?_modWave, if_neg (by simp [hk]), o3.waves k hk]
  · intro k; rw [State.group?_modFrag, o3.groups k]
  · rw [State.frag?_modFrag, if_pos ⟨rfl, rfl, rfl⟩]
    simp [State.frag?, w3, wf, t2, hf, Frag.at]
  · intro e he
    rw [State.frag?_modFrag, if_neg (by simp [he])]
    simp [State.frag?, w3, wf, t2, hw]
  · refine ⟨_, by rw [State.modFrag, State.wave?_modWave, if_pos ⟨rfl, rfl⟩, w3]; rfl, ?_⟩
    rw [← wb]
    dsimp only
    split <;> rfl

/-- An instruction whose body completes with changes of its wave alone. -/
theorem State.issue_done {s s' : State} {cx : Wcx} {i : WInfo} {body : Wcx → WRes} {vs : List VRes} {terms : W64} {w : Wave}
    (h : Issues s cx i) (hm : s.MemOk) (hb : body cx = .done s' vs terms) (ht : Touched s s' cx w) :
    ∃ t, s.issue i body = .next t ∧ Completes s t cx i (cx.f.pc + 8) vs terms w :=
  ⟨_, by rw [State.issue_eq h, hb], State.finish_completes _ vs terms h hm ht⟩

/-- An instruction whose body transfers control. -/
theorem State.issue_jump {s s' : State} {cx : Wcx} {i : WInfo} {body : Wcx → WRes} {pc : W64} {w : Wave}
    (h : Issues s cx i) (hm : s.MemOk) (hb : body cx = .jump s' pc) (ht : Touched s s' cx w) :
    ∃ t, s.issue i body = .next t ∧ Completes s t cx i pc [] 0 w :=
  ⟨_, by rw [State.issue_eq h, hb], State.finish_completes _ [] 0 h hm ht⟩

/-- An arm that issues, and whose body completes with changes of its wave alone. -/
theorem Done.of_issue {j : Instr} {s s' : State} {cx : Wcx} {i : WInfo} {body : Wcx → WRes} {vs : List VRes} {w : Wave}
    (he : exec j s = s.issue i body) (h : Issues s cx i) (hm : s.MemOk) (ht : Touched s s' cx w)
    (hb : body cx = .done s' vs 0) : Done j s cx i vs w := by
  unfold Done
  rw [he]
  exact State.issue_done h hm hb ht

theorem Touched.setS {s t : State} {cx : Wcx} {w : Wave} (h : Touched s t cx w) (n : Nat) (v : W64) :
    Touched s (t.setS cx n v) cx { w with s := w.s.set n v } := h.wave_step _ rfl rfl

theorem Touched.setM {s t : State} {cx : Wcx} {w : Wave} (h : Touched s t cx w) (n : Nat) (v : W32) :
    Touched s (t.setM cx n v) cx { w with m := w.m.set n v } := h.wave_step _ rfl rfl

theorem Touched.setScc {s t : State} {cx : Wcx} {w : Wave} (h : Touched s t cx w) (v : BitVec 4) :
    Touched s (t.setScc cx v) cx { w with scc := v } := h.wave_step _ rfl rfl

theorem Touched.orFlags {s t : State} {cx : Wcx} {w : Wave} (h : Touched s t cx w) (fl : Nat) :
    Touched s (t.orFlags cx.b cx.slot fl) cx { w with fpflags := w.fpflags ||| BitVec.ofNat 5 fl } := by
  unfold State.orFlags
  split
  · rename_i hz; subst hz; simpa using h
  · exact h.wave_step _ rfl rfl

theorem lanes_getD {α : Type} (f : Nat → α) (d : α) (l : Nat) : (lanes.map f).getD l d = if l < 32 then f l else d := by
  simp only [lanes, List.getD_eq_getElem?_getD, List.getElem?_map]
  by_cases h : l < 32
  · simp [h]
  · simp [h]

theorem map_lanes {α : Type} (f : Nat → α) (d : Nat) (x : List Nat) (hx : x.length = 32) :
    x.map f = lanes.map fun l => f (x.getD l d) := by
  apply List.ext_getElem
  · simp [lanes, hx]
  · intro i h1 h2
    have : i < x.length := by simpa using h1
    simp [lanes, this]

theorem State.readV_length (s : State) (cx : Wcx) (n : Nat) : (s.readV cx n).length = 32 := by
  unfold State.readV State.readRow
  dsimp only
  split <;> simp [lanes]

theorem State.readSrc_length (s : State) (cx : Wcx) (wide ks : Bool) (n : Nat) : (s.readSrc cx wide ks n).length = 32 := by
  unfold State.readSrc State.readPair
  cases ks <;> cases wide <;> simp [State.readV_length, lanes]

end Sys2Proof.Machine
end

