-- ==== Sys2Proof/Laws/PerInstr.lean ====
section
/-! SUPPORT. Per instruction: a well-formed instruction decodes from its encoded word to itself. -/

namespace Sys2Proof.Laws.Coding

open Sys2Proof

/-! ## Fields of a word -/

theorem extract_append_hi {a b : Nat} (x : BitVec a) (y : BitVec b) (s n : Nat) (h : b ≤ s) :
    (x ++ y).extractLsb' s n = x.extractLsb' (s - b) n := by
  apply BitVec.eq_of_getLsbD_eq
  intro i _
  have h1 : ¬ s + i < b := by omega
  have h2 : s + i - b = s - b + i := by omega
  simp only [BitVec.getLsbD_extractLsb', BitVec.getLsbD_append]
  simp [h1, h2]

theorem extract_append_lo {a b : Nat} (x : BitVec a) (y : BitVec b) (s n : Nat) (h : s + n ≤ b) :
    (x ++ y).extractLsb' s n = y.extractLsb' s n := by
  apply BitVec.eq_of_getLsbD_eq
  intro i hi
  have h1 : s + i < b := by omega
  simp only [BitVec.getLsbD_extractLsb', BitVec.getLsbD_append]
  simp [h1]

theorem extract_self {a : Nat} (x : BitVec a) : x.extractLsb' 0 a = x := by
  apply BitVec.eq_of_getLsbD_eq
  intro i hi
  simp [hi]

theorem getVR_putVR (o : BitVec 8) (f : VR) :
    Decode.getVR (Encode.putVR o f) = f ∧ (Encode.putVR o f).extractLsb' 56 8 = o := by
  obtain ⟨a, b, c, d, e, g, h, i, j, k, l, m, n⟩ := f
  have cut : ∀ s t (x : BitVec t), (o ++ a ++ b ++ c ++ d ++ e ++ g ++ h ++ i ++ j ++ k ++ l ++ m ++ n).extractLsb' s t = x →
      (Encode.putVR o ⟨a, b, c, d, e, g, h, i, j, k, l, m, n⟩).extractLsb' s t = x := fun _ _ _ h => h
  constructor
  · simp only [Decode.getVR, VR.mk.injEq]
    and_intros <;> apply cut <;>
      simp (disch := decide) only [extract_append_hi, extract_append_lo, extract_self, Nat.reduceSub]
  · apply cut
    simp (disch := decide) only [extract_append_hi, extract_self, Nat.reduceSub]

theorem getVI_putVI (o : BitVec 8) (f : VI) :
    Decode.getVI (Encode.putVI o f) = f ∧ (Encode.putVI o f).extractLsb' 56 8 = o := by
  obtain ⟨a, b, c, d, e, g⟩ := f
  have cut : ∀ s t (x : BitVec t), (o ++ a ++ b ++ c ++ d ++ e ++ g).extractLsb' s t = x →
      (Encode.putVI o ⟨a, b, c, d, e, g⟩).extractLsb' s t = x := fun _ _ _ h => h
  constructor
  · simp only [Decode.getVI, VI.mk.injEq]
    and_intros <;> apply cut <;>
      simp (disch := decide) only [extract_append_hi, extract_append_lo, extract_self, Nat.reduceSub]
  · apply cut
    simp (disch := decide) only [extract_append_hi, extract_self, Nat.reduceSub]

theorem getFS_putFS (o : BitVec 8) (f : FS) :
    Decode.getFS (Encode.putFS o f) = f ∧ (Encode.putFS o f).extractLsb' 56 8 = o := by
  obtain ⟨a, b, c, d, e, g, h⟩ := f
  have cut : ∀ s t (x : BitVec t), (o ++ a ++ b ++ c ++ d ++ e ++ g ++ h).extractLsb' s t = x →
      (Encode.putFS o ⟨a, b, c, d, e, g, h⟩).extractLsb' s t = x := fun _ _ _ h => h
  constructor
  · simp only [Decode.getFS, FS.mk.injEq]
    and_intros <;> apply cut <;>
      simp (disch := decide) only [extract_append_hi, extract_append_lo, extract_self, Nat.reduceSub]
  · apply cut
    simp (disch := decide) only [extract_append_hi, extract_self, Nat.reduceSub]

theorem getFC_putFC (o : BitVec 8) (f : FC) :
    Decode.getFC (Encode.putFC o f) = f ∧ (Encode.putFC o f).extractLsb' 56 8 = o := by
  obtain ⟨a, b, c, d, e, g⟩ := f
  have cut : ∀ s t (x : BitVec t), (o ++ a ++ b ++ c ++ d ++ e ++ g).extractLsb' s t = x →
      (Encode.putFC o ⟨a, b, c, d, e, g⟩).extractLsb' s t = x := fun _ _ _ h => h
  constructor
  · simp only [Decode.getFC, FC.mk.injEq]
    and_intros <;> apply cut <;>
      simp (disch := decide) only [extract_append_hi, extract_append_lo, extract_self, Nat.reduceSub]
  · apply cut
    simp (disch := decide) only [extract_append_hi, extract_self, Nat.reduceSub]

theorem getFC2_putFC2 (o : BitVec 8) (f : FC2) :
    Decode.getFC2 (Encode.putFC2 o f) = f ∧ (Encode.putFC2 o f).extractLsb' 56 8 = o := by
  obtain ⟨a, b, c, d, e⟩ := f
  have cut : ∀ s t (x : BitVec t), (o ++ a ++ b ++ c ++ d ++ e).extractLsb' s t = x →
      (Encode.putFC2 o ⟨a, b, c, d, e⟩).extractLsb' s t = x := fun _ _ _ h => h
  constructor
  · simp only [Decode.getFC2, FC2.mk.injEq]
    and_intros <;> apply cut <;>
      simp (disch := decide) only [extract_append_hi, extract_append_lo, extract_self, Nat.reduceSub]
  · apply cut
    simp (disch := decide) only [extract_append_hi, extract_self, Nat.reduceSub]

theorem getFM_putFM (o : BitVec 8) (f : FM) :
    Decode.getFM (Encode.putFM o f) = f ∧ (Encode.putFM o f).extractLsb' 56 8 = o := by
  obtain ⟨a, b, c, d, e, g, h, i, j, k, l, m⟩ := f
  have cut : ∀ s t (x : BitVec t), (o ++ a ++ b ++ c ++ d ++ e ++ g ++ h ++ i ++ j ++ k ++ l ++ m).extractLsb' s t = x →
      (Encode.putFM o ⟨a, b, c, d, e, g, h, i, j, k, l, m⟩).extractLsb' s t = x := fun _ _ _ h => h
  constructor
  · simp only [Decode.getFM, FM.mk.injEq]
    and_intros <;> apply cut <;>
      simp (disch := decide) only [extract_append_hi, extract_append_lo, extract_self, Nat.reduceSub]
  · apply cut
    simp (disch := decide) only [extract_append_hi, extract_self, Nat.reduceSub]

theorem getFA_putFA (o : BitVec 8) (f : FA) :
    Decode.getFA (Encode.putFA o f) = f ∧ (Encode.putFA o f).extractLsb' 56 8 = o := by
  obtain ⟨a, b, c, d, e, g, h, i, j, k, l⟩ := f
  have cut : ∀ s t (x : BitVec t), (o ++ a ++ b ++ c ++ d ++ e ++ g ++ h ++ i ++ j ++ k ++ l).extractLsb' s t = x →
      (Encode.putFA o ⟨a, b, c, d, e, g, h, i, j, k, l⟩).extractLsb' s t = x := fun _ _ _ h => h
  constructor
  · simp only [Decode.getFA, FA.mk.injEq]
    and_intros <;> apply cut <;>
      simp (disch := decide) only [extract_append_hi, extract_append_lo, extract_self, Nat.reduceSub]
  · apply cut
    simp (disch := decide) only [extract_append_hi, extract_self, Nat.reduceSub]

theorem getFE_putFE (o : BitVec 8) (f : FE) :
    Decode.getFE (Encode.putFE o f) = f ∧ (Encode.putFE o f).extractLsb' 56 8 = o := by
  obtain ⟨a, b, c⟩ := f
  have cut : ∀ s t (x : BitVec t), (o ++ a ++ b ++ c).extractLsb' s t = x →
      (Encode.putFE o ⟨a, b, c⟩).extractLsb' s t = x := fun _ _ _ h => h
  constructor
  · simp only [Decode.getFE, FE.mk.injEq]
    and_intros <;> apply cut <;>
      simp (disch := decide) only [extract_append_hi, extract_append_lo, extract_self, Nat.reduceSub]
  · apply cut
    simp (disch := decide) only [extract_append_hi, extract_self, Nat.reduceSub]

theorem getCmd_putCmd (o : BitVec 8) (c : Cmd) :
    Decode.getCmd (Encode.putCmd o c) = c ∧ (Encode.putCmd o c).extractLsb' 40 8 = o := by
  obtain ⟨a, b, d⟩ := c
  have cut : ∀ s t (x : BitVec t), (a ++ b ++ o ++ d).extractLsb' s t = x →
      (Encode.putCmd o ⟨a, b, d⟩).extractLsb' s t = x := fun _ _ _ h => h
  constructor
  · simp only [Decode.getCmd, Cmd.mk.injEq]
    and_intros <;> apply cut <;>
      simp (disch := decide) only [extract_append_hi, extract_append_lo, extract_self, Nat.reduceSub]
  · apply cut
    simp (disch := decide) only [extract_append_hi, extract_append_lo, extract_self, Nat.reduceSub]

theorem getXR_putXR (o : BitVec 7) (g : BitVec 3) (r : XR) : Decode.getXR (Encode.putXR o g r) = r := by
  obtain ⟨a, b, c⟩ := r
  have cut : ∀ s t (x : BitVec t), (o ++ c ++ b ++ g ++ a ++ 0x0B#7).extractLsb' s t = x →
      (Encode.putXR o g ⟨a, b, c⟩).extractLsb' s t = x := fun _ _ _ h => h
  simp only [Decode.getXR, XR.mk.injEq]
  refine ⟨cut _ _ _ ?_, cut _ _ _ ?_, cut _ _ _ ?_⟩ <;>
    simp (disch := decide) only [extract_append_hi, extract_append_lo, extract_self, Nat.reduceSub]

theorem opcode_putXR (o : BitVec 7) (g : BitVec 3) (r : XR) : (Encode.putXR o g r).extractLsb' 0 7 = 0x0B#7 := by
  have cut : ∀ (x : BitVec 7), (o ++ r.rs2 ++ r.rs1 ++ g ++ r.rd ++ 0x0B#7).extractLsb' 0 7 = x →
      (Encode.putXR o g r).extractLsb' 0 7 = x := fun _ h => h
  apply cut
  simp (disch := decide) only [extract_append_lo, extract_self]

theorem match_putXR (o : BitVec 7) (g : BitVec 3) (r : XR) :
    Encode.putXR o g r &&& 0xFE00707F#32 = Encode.putXR o g ⟨0, 0, 0⟩ := by
  have cut : (o ++ r.rs2 ++ r.rs1 ++ g ++ r.rd ++ 0x0B#7) &&& (0x7F#7 ++ 0#5 ++ 0#5 ++ 7#3 ++ 0#5 ++ 0x7F#7) =
      o ++ 0#5 ++ 0#5 ++ g ++ 0#5 ++ 0x0B#7 := by
    have ones7 : ∀ x : BitVec 7, x &&& 0x7F#7 = x := by decide
    have ones3 : ∀ x : BitVec 3, x &&& 7#3 = x := by decide
    have zero5 : ∀ x : BitVec 5, x &&& 0#5 = 0#5 := by decide
    simp only [BitVec.and_append, ones7, ones3, zero5]
  exact cut

/-! ## Round trips -/

/-- Decoding the encoded word of a well-formed instruction gives it back; FPUT and FPUT.Q share an EOP and differ in their Q
bit. -/
def Statement (i : Instr) : Prop :=
  (∀ w, Encode.wave i = some w → WellFormed.ok i = true → Decode.wave w = .ok i) ∧
  (∀ w, Encode.gaffer i = some w → WellFormed.ok i = true → Decode.gaffer w = .ok i) ∧
  (∀ w, Encode.command i = some w → (∀ c, i = .fput c → c.f.getLsbD 23 = false) →
    (∀ c, i = .fputQ c → c.f.getLsbD 23 = true) → Decode.command w = .ok i)

theorem of_wave {i : Instr} {w : W64} (o : BitVec 8) (e : Encode.wave i = some w) (hg : Encode.gaffer i = none)
    (hc : Encode.command i = none) (h : w.extractLsb' 56 8 = o) (hd : Decode.ofOpc o.toNat w = some i) : Statement i := by
  refine ⟨fun v hv ok => ?_, fun v hv => ?_, fun v hv => ?_⟩
  · rw [e] at hv
    obtain rfl := Option.some.inj hv
    simp [Decode.wave, h, hd, ok]
  · simp [hg] at hv
  · simp [hc] at hv

theorem of_command {i : Instr} {w : W64} (hw : Encode.wave i = none) (hg : Encode.gaffer i = none)
    (e : Encode.command i = some w)
    (hd : (∀ c, i = .fput c → c.f.getLsbD 23 = false) → (∀ c, i = .fputQ c → c.f.getLsbD 23 = true) →
      Decode.command w = .ok i) : Statement i := by
  refine ⟨fun v hv => ?_, fun v hv => ?_, fun v hv => ?_⟩
  · simp [hw] at hv
  · simp [hg] at hv
  · rw [e] at hv
    obtain rfl := Option.some.inj hv
    exact hd

theorem of_gaffer {i : Instr} (o : BitVec 7) (g : BitVec 3) (r : XR) (hw : Encode.wave i = none)
    (hc : Encode.command i = none) (e : Encode.gaffer i = some (Encode.putXR o g r))
    (hd : Decode.ofMatch (Encode.putXR o g ⟨0, 0, 0⟩).toNat r = some i) : Statement i := by
  refine ⟨fun v hv => ?_, fun v hv ok => ?_, fun v hv => ?_⟩
  · simp [hw] at hv
  · rw [e] at hv
    obtain rfl := Option.some.inj hv
    simp only [Decode.gaffer, opcode_putXR, match_putXR, getXR_putXR, if_true]
    rw [hd]
    simp only [ok, if_true]
  · simp [hc] at hv

theorem of_event {i : Instr} (hw : Encode.wave i = none) (hg : Encode.gaffer i = none) (hc : Encode.command i = none) :
    Statement i :=
  ⟨fun _ h => by simp [hw] at h, fun _ h => by simp [hg] at h, fun _ h => by simp [hc] at h⟩

theorem nop (f : FC) : Statement (.nop f) :=
  of_wave 0x01 rfl rfl rfl (getFC_putFC 0x01 f).2 (congrArg (fun x => some (Instr.nop x)) (getFC_putFC 0x01 f).1)
theorem jmp (f : FC) : Statement (.jmp f) :=
  of_wave 0x02 rfl rfl rfl (getFC_putFC 0x02 f).2 (congrArg (fun x => some (Instr.jmp x)) (getFC_putFC 0x02 f).1)
theorem call (f : FC) : Statement (.call f) :=
  of_wave 0x03 rfl rfl rfl (getFC_putFC 0x03 f).2 (congrArg (fun x => some (Instr.call x)) (getFC_putFC 0x03 f).1)
theorem ret (f : FC) : Statement (.ret f) :=
  of_wave 0x04 rfl rfl rfl (getFC_putFC 0x04 f).2 (congrArg (fun x => some (Instr.ret x)) (getFC_putFC 0x04 f).1)
theorem br (f : FC) : Statement (.br f) :=
  of_wave 0x05 rfl rfl rfl (getFC_putFC 0x05 f).2 (congrArg (fun x => some (Instr.br x)) (getFC_putFC 0x05 f).1)
theorem brs (f : FC2) : Statement (.brs f) :=
  of_wave 0x06 rfl rfl rfl (getFC2_putFC2 0x06 f).2 (congrArg (fun x => some (Instr.brs x)) (getFC2_putFC2 0x06 f).1)
theorem join (f : FC) : Statement (.join f) :=
  of_wave 0x07 rfl rfl rfl (getFC_putFC 0x07 f).2 (congrArg (fun x => some (Instr.join x)) (getFC_putFC 0x07 f).1)
theorem exit (f : FC) : Statement (.exit f) :=
  of_wave 0x08 rfl rfl rfl (getFC_putFC 0x08 f).2 (congrArg (fun x => some (Instr.exit x)) (getFC_putFC 0x08 f).1)
theorem trap (f : FC) : Statement (.trap f) :=
  of_wave 0x09 rfl rfl rfl (getFC_putFC 0x09 f).2 (congrArg (fun x => some (Instr.trap x)) (getFC_putFC 0x09 f).1)
theorem brkpt (f : FC) : Statement (.brkpt f) :=
  of_wave 0x0A rfl rfl rfl (getFC_putFC 0x0A f).2 (congrArg (fun x => some (Instr.brkpt x)) (getFC_putFC 0x0A f).1)
theorem bar (f : FC) : Statement (.bar f) :=
  of_wave 0x0B rfl rfl rfl (getFC_putFC 0x0B f).2 (congrArg (fun x => some (Instr.bar x)) (getFC_putFC 0x0B f).1)
theorem cbar (f : FC) : Statement (.cbar f) :=
  of_wave 0x0C rfl rfl rfl (getFC_putFC 0x0C f).2 (congrArg (fun x => some (Instr.cbar x)) (getFC_putFC 0x0C f).1)
theorem sleep (f : FC) : Statement (.sleep f) :=
  of_wave 0x0D rfl rfl rfl (getFC_putFC 0x0D f).2 (congrArg (fun x => some (Instr.sleep x)) (getFC_putFC 0x0D f).1)
theorem uliret (f : FC) : Statement (.uliret f) :=
  of_wave 0x0E rfl rfl rfl (getFC_putFC 0x0E f).2 (congrArg (fun x => some (Instr.uliret x)) (getFC_putFC 0x0E f).1)
theorem sadd (f : FS) : Statement (.sadd f) :=
  of_wave 0x10 rfl rfl rfl (getFS_putFS 0x10 f).2 (congrArg (fun x => some (Instr.sadd x)) (getFS_putFS 0x10 f).1)
theorem ssub (f : FS) : Statement (.ssub f) :=
  of_wave 0x11 rfl rfl rfl (getFS_putFS 0x11 f).2 (congrArg (fun x => some (Instr.ssub x)) (getFS_putFS 0x11 f).1)
theorem smul (f : FS) : Statement (.smul f) :=
  of_wave 0x12 rfl rfl rfl (getFS_putFS 0x12 f).2 (congrArg (fun x => some (Instr.smul x)) (getFS_putFS 0x12 f).1)
theorem sand (f : FS) : Statement (.sand f) :=
  of_wave 0x13 rfl rfl rfl (getFS_putFS 0x13 f).2 (congrArg (fun x => some (Instr.sand x)) (getFS_putFS 0x13 f).1)
theorem sor (f : FS) : Statement (.sor f) :=
  of_wave 0x14 rfl rfl rfl (getFS_putFS 0x14 f).2 (congrArg (fun x => some (Instr.sor x)) (getFS_putFS 0x14 f).1)
theorem sxor (f : FS) : Statement (.sxor f) :=
  of_wave 0x15 rfl rfl rfl (getFS_putFS 0x15 f).2 (congrArg (fun x => some (Instr.sxor x)) (getFS_putFS 0x15 f).1)
theorem sshl (f : FS) : Statement (.sshl f) :=
  of_wave 0x16 rfl rfl rfl (getFS_putFS 0x16 f).2 (congrArg (fun x => some (Instr.sshl x)) (getFS_putFS 0x16 f).1)
theorem sshr (f : FS) : Statement (.sshr f) :=
  of_wave 0x17 rfl rfl rfl (getFS_putFS 0x17 f).2 (congrArg (fun x => some (Instr.sshr x)) (getFS_putFS 0x17 f).1)
theorem scmp (f : FS) : Statement (.scmp f) :=
  of_wave 0x18 rfl rfl rfl (getFS_putFS 0x18 f).2 (congrArg (fun x => some (Instr.scmp x)) (getFS_putFS 0x18 f).1)
theorem smov (f : FS) : Statement (.smov f) :=
  of_wave 0x19 rfl rfl rfl (getFS_putFS 0x19 f).2 (congrArg (fun x => some (Instr.smov x)) (getFS_putFS 0x19 f).1)
theorem ssel (f : FS) : Statement (.ssel f) :=
  of_wave 0x1A rfl rfl rfl (getFS_putFS 0x1A f).2 (congrArg (fun x => some (Instr.ssel x)) (getFS_putFS 0x1A f).1)
theorem sld (f : FS) : Statement (.sld f) :=
  of_wave 0x1B rfl rfl rfl (getFS_putFS 0x1B f).2 (congrArg (fun x => some (Instr.sld x)) (getFS_putFS 0x1B f).1)
theorem sst (f : FS) : Statement (.sst f) :=
  of_wave 0x1C rfl rfl rfl (getFS_putFS 0x1C f).2 (congrArg (fun x => some (Instr.sst x)) (getFS_putFS 0x1C f).1)
theorem sxlat (f : FS) : Statement (.sxlat f) :=
  of_wave 0x1D rfl rfl rfl (getFS_putFS 0x1D f).2 (congrArg (fun x => some (Instr.sxlat x)) (getFS_putFS 0x1D f).1)
theorem vadd (f : VR) : Statement (.vadd f) :=
  of_wave 0x20 rfl rfl rfl (getVR_putVR 0x20 f).2 (congrArg (fun x => some (Instr.vadd x)) (getVR_putVR 0x20 f).1)
theorem vsub (f : VR) : Statement (.vsub f) :=
  of_wave 0x21 rfl rfl rfl (getVR_putVR 0x21 f).2 (congrArg (fun x => some (Instr.vsub x)) (getVR_putVR 0x21 f).1)
theorem vmul (f : VR) : Statement (.vmul f) :=
  of_wave 0x22 rfl rfl rfl (getVR_putVR 0x22 f).2 (congrArg (fun x => some (Instr.vmul x)) (getVR_putVR 0x22 f).1)
theorem vmad (f : VR) : Statement (.vmad f) :=
  of_wave 0x23 rfl rfl rfl (getVR_putVR 0x23 f).2 (congrArg (fun x => some (Instr.vmad x)) (getVR_putVR 0x23 f).1)
theorem vdot4 (f : VR) : Statement (.vdot4 f) :=
  of_wave 0x24 rfl rfl rfl (getVR_putVR 0x24 f).2 (congrArg (fun x => some (Instr.vdot4 x)) (getVR_putVR 0x24 f).1)
theorem vand (f : VR) : Statement (.vand f) :=
  of_wave 0x25 rfl rfl rfl (getVR_putVR 0x25 f).2 (congrArg (fun x => some (Instr.vand x)) (getVR_putVR 0x25 f).1)
theorem vor (f : VR) : Statement (.vor f) :=
  of_wave 0x26 rfl rfl rfl (getVR_putVR 0x26 f).2 (congrArg (fun x => some (Instr.vor x)) (getVR_putVR 0x26 f).1)
theorem vxor (f : VR) : Statement (.vxor f) :=
  of_wave 0x27 rfl rfl rfl (getVR_putVR 0x27 f).2 (congrArg (fun x => some (Instr.vxor x)) (getVR_putVR 0x27 f).1)
theorem vshl (f : VR) : Statement (.vshl f) :=
  of_wave 0x28 rfl rfl rfl (getVR_putVR 0x28 f).2 (congrArg (fun x => some (Instr.vshl x)) (getVR_putVR 0x28 f).1)
theorem vshr (f : VR) : Statement (.vshr f) :=
  of_wave 0x29 rfl rfl rfl (getVR_putVR 0x29 f).2 (congrArg (fun x => some (Instr.vshr x)) (getVR_putVR 0x29 f).1)
theorem vmin (f : VR) : Statement (.vmin f) :=
  of_wave 0x2A rfl rfl rfl (getVR_putVR 0x2A f).2 (congrArg (fun x => some (Instr.vmin x)) (getVR_putVR 0x2A f).1)
theorem vmax (f : VR) : Statement (.vmax f) :=
  of_wave 0x2B rfl rfl rfl (getVR_putVR 0x2B f).2 (congrArg (fun x => some (Instr.vmax x)) (getVR_putVR 0x2B f).1)
theorem vcmp (f : VR) : Statement (.vcmp f) :=
  of_wave 0x2C rfl rfl rfl (getVR_putVR 0x2C f).2 (congrArg (fun x => some (Instr.vcmp x)) (getVR_putVR 0x2C f).1)
theorem vsel (f : VR) : Statement (.vsel f) :=
  of_wave 0x2D rfl rfl rfl (getVR_putVR 0x2D f).2 (congrArg (fun x => some (Instr.vsel x)) (getVR_putVR 0x2D f).1)
theorem vbfe (f : VR) : Statement (.vbfe f) :=
  of_wave 0x2E rfl rfl rfl (getVR_putVR 0x2E f).2 (congrArg (fun x => some (Instr.vbfe x)) (getVR_putVR 0x2E f).1)
theorem vbfi (f : VR) : Statement (.vbfi f) :=
  of_wave 0x2F rfl rfl rfl (getVR_putVR 0x2F f).2 (congrArg (fun x => some (Instr.vbfi x)) (getVR_putVR 0x2F f).1)
theorem vpopc (f : VR) : Statement (.vpopc f) :=
  of_wave 0x30 rfl rfl rfl (getVR_putVR 0x30 f).2 (congrArg (fun x => some (Instr.vpopc x)) (getVR_putVR 0x30 f).1)
theorem vclz (f : VR) : Statement (.vclz f) :=
  of_wave 0x31 rfl rfl rfl (getVR_putVR 0x31 f).2 (congrArg (fun x => some (Instr.vclz x)) (getVR_putVR 0x31 f).1)
theorem vmov (f : VR) : Statement (.vmov f) :=
  of_wave 0x32 rfl rfl rfl (getVR_putVR 0x32 f).2 (congrArg (fun x => some (Instr.vmov x)) (getVR_putVR 0x32 f).1)
theorem vaddImm (f : VI) : Statement (.vaddImm f) :=
  of_wave 0x38 rfl rfl rfl (getVI_putVI 0x38 f).2 (congrArg (fun x => some (Instr.vaddImm x)) (getVI_putVI 0x38 f).1)
theorem vmulImm (f : VI) : Statement (.vmulImm f) :=
  of_wave 0x39 rfl rfl rfl (getVI_putVI 0x39 f).2 (congrArg (fun x => some (Instr.vmulImm x)) (getVI_putVI 0x39 f).1)
theorem vandImm (f : VI) : Statement (.vandImm f) :=
  of_wave 0x3A rfl rfl rfl (getVI_putVI 0x3A f).2 (congrArg (fun x => some (Instr.vandImm x)) (getVI_putVI 0x3A f).1)
theorem vorImm (f : VI) : Statement (.vorImm f) :=
  of_wave 0x3B rfl rfl rfl (getVI_putVI 0x3B f).2 (congrArg (fun x => some (Instr.vorImm x)) (getVI_putVI 0x3B f).1)
theorem vcmpImm (f : VI) : Statement (.vcmpImm f) :=
  of_wave 0x3C rfl rfl rfl (getVI_putVI 0x3C f).2 (congrArg (fun x => some (Instr.vcmpImm x)) (getVI_putVI 0x3C f).1)
theorem vmovImm (f : VI) : Statement (.vmovImm f) :=
  of_wave 0x3D rfl rfl rfl (getVI_putVI 0x3D f).2 (congrArg (fun x => some (Instr.vmovImm x)) (getVI_putVI 0x3D f).1)
theorem vfaddImm (f : VI) : Statement (.vfaddImm f) :=
  of_wave 0x3E rfl rfl rfl (getVI_putVI 0x3E f).2 (congrArg (fun x => some (Instr.vfaddImm x)) (getVI_putVI 0x3E f).1)
theorem vfmulImm (f : VI) : Statement (.vfmulImm f) :=
  of_wave 0x3F rfl rfl rfl (getVI_putVI 0x3F f).2 (congrArg (fun x => some (Instr.vfmulImm x)) (getVI_putVI 0x3F f).1)
theorem vfadd (f : VR) : Statement (.vfadd f) :=
  of_wave 0x40 rfl rfl rfl (getVR_putVR 0x40 f).2 (congrArg (fun x => some (Instr.vfadd x)) (getVR_putVR 0x40 f).1)
theorem vfmul (f : VR) : Statement (.vfmul f) :=
  of_wave 0x41 rfl rfl rfl (getVR_putVR 0x41 f).2 (congrArg (fun x => some (Instr.vfmul x)) (getVR_putVR 0x41 f).1)
theorem vfma (f : VR) : Statement (.vfma f) :=
  of_wave 0x42 rfl rfl rfl (getVR_putVR 0x42 f).2 (congrArg (fun x => some (Instr.vfma x)) (getVR_putVR 0x42 f).1)
theorem vfmin (f : VR) : Statement (.vfmin f) :=
  of_wave 0x43 rfl rfl rfl (getVR_putVR 0x43 f).2 (congrArg (fun x => some (Instr.vfmin x)) (getVR_putVR 0x43 f).1)
theorem vfmax (f : VR) : Statement (.vfmax f) :=
  of_wave 0x44 rfl rfl rfl (getVR_putVR 0x44 f).2 (congrArg (fun x => some (Instr.vfmax x)) (getVR_putVR 0x44 f).1)
theorem vfcmp (f : VR) : Statement (.vfcmp f) :=
  of_wave 0x45 rfl rfl rfl (getVR_putVR 0x45 f).2 (congrArg (fun x => some (Instr.vfcmp x)) (getVR_putVR 0x45 f).1)
theorem vfdiv (f : VR) : Statement (.vfdiv f) :=
  of_wave 0x46 rfl rfl rfl (getVR_putVR 0x46 f).2 (congrArg (fun x => some (Instr.vfdiv x)) (getVR_putVR 0x46 f).1)
theorem vfsqrt (f : VR) : Statement (.vfsqrt f) :=
  of_wave 0x47 rfl rfl rfl (getVR_putVR 0x47 f).2 (congrArg (fun x => some (Instr.vfsqrt x)) (getVR_putVR 0x47 f).1)
theorem vrcp (f : VR) : Statement (.vrcp f) :=
  of_wave 0x48 rfl rfl rfl (getVR_putVR 0x48 f).2 (congrArg (fun x => some (Instr.vrcp x)) (getVR_putVR 0x48 f).1)
theorem vrsq (f : VR) : Statement (.vrsq f) :=
  of_wave 0x49 rfl rfl rfl (getVR_putVR 0x49 f).2 (congrArg (fun x => some (Instr.vrsq x)) (getVR_putVR 0x49 f).1)
theorem vexp2 (f : VR) : Statement (.vexp2 f) :=
  of_wave 0x4A rfl rfl rfl (getVR_putVR 0x4A f).2 (congrArg (fun x => some (Instr.vexp2 x)) (getVR_putVR 0x4A f).1)
theorem vlog2 (f : VR) : Statement (.vlog2 f) :=
  of_wave 0x4B rfl rfl rfl (getVR_putVR 0x4B f).2 (congrArg (fun x => some (Instr.vlog2 x)) (getVR_putVR 0x4B f).1)
theorem vsincos (f : VR) : Statement (.vsincos f) :=
  of_wave 0x4C rfl rfl rfl (getVR_putVR 0x4C f).2 (congrArg (fun x => some (Instr.vsincos x)) (getVR_putVR 0x4C f).1)
theorem vfrnd (f : VR) : Statement (.vfrnd f) :=
  of_wave 0x4D rfl rfl rfl (getVR_putVR 0x4D f).2 (congrArg (fun x => some (Instr.vfrnd x)) (getVR_putVR 0x4D f).1)
theorem vfract (f : VR) : Statement (.vfract f) :=
  of_wave 0x4E rfl rfl rfl (getVR_putVR 0x4E f).2 (congrArg (fun x => some (Instr.vfract x)) (getVR_putVR 0x4E f).1)
theorem vfdot2 (f : VR) : Statement (.vfdot2 f) :=
  of_wave 0x4F rfl rfl rfl (getVR_putVR 0x4F f).2 (congrArg (fun x => some (Instr.vfdot2 x)) (getVR_putVR 0x4F f).1)
theorem vcvt (f : VR) : Statement (.vcvt f) :=
  of_wave 0x60 rfl rfl rfl (getVR_putVR 0x60 f).2 (congrArg (fun x => some (Instr.vcvt x)) (getVR_putVR 0x60 f).1)
theorem vqmx (f : VR) : Statement (.vqmx f) :=
  of_wave 0x61 rfl rfl rfl (getVR_putVR 0x61 f).2 (congrArg (fun x => some (Instr.vqmx x)) (getVR_putVR 0x61 f).1)
theorem vdqmx (f : VR) : Statement (.vdqmx f) :=
  of_wave 0x62 rfl rfl rfl (getVR_putVR 0x62 f).2 (congrArg (fun x => some (Instr.vdqmx x)) (getVR_putVR 0x62 f).1)
theorem decode (f : VR) : Statement (.decode f) :=
  of_wave 0x63 rfl rfl rfl (getVR_putVR 0x63 f).2 (congrArg (fun x => some (Instr.decode x)) (getVR_putVR 0x63 f).1)
theorem vqswz (f : VI) : Statement (.vqswz f) :=
  of_wave 0x70 rfl rfl rfl (getVI_putVI 0x70 f).2 (congrArg (fun x => some (Instr.vqswz x)) (getVI_putVI 0x70 f).1)
theorem vshfl (f : VR) : Statement (.vshfl f) :=
  of_wave 0x71 rfl rfl rfl (getVR_putVR 0x71 f).2 (congrArg (fun x => some (Instr.vshfl x)) (getVR_putVR 0x71 f).1)
theorem vrdl (f : VR) : Statement (.vrdl f) :=
  of_wave 0x72 rfl rfl rfl (getVR_putVR 0x72 f).2 (congrArg (fun x => some (Instr.vrdl x)) (getVR_putVR 0x72 f).1)
theorem vwrl (f : VR) : Statement (.vwrl f) :=
  of_wave 0x73 rfl rfl rfl (getVR_putVR 0x73 f).2 (congrArg (fun x => some (Instr.vwrl x)) (getVR_putVR 0x73 f).1)
theorem ballot (f : VR) : Statement (.ballot f) :=
  of_wave 0x74 rfl rfl rfl (getVR_putVR 0x74 f).2 (congrArg (fun x => some (Instr.ballot x)) (getVR_putVR 0x74 f).1)
theorem vred (f : VR) : Statement (.vred f) :=
  of_wave 0x75 rfl rfl rfl (getVR_putVR 0x75 f).2 (congrArg (fun x => some (Instr.vred x)) (getVR_putVR 0x75 f).1)
theorem vscan (f : VR) : Statement (.vscan f) :=
  of_wave 0x76 rfl rfl rfl (getVR_putVR 0x76 f).2 (congrArg (fun x => some (Instr.vscan x)) (getVR_putVR 0x76 f).1)
theorem mop (f : VR) : Statement (.mop f) :=
  of_wave 0x77 rfl rfl rfl (getVR_putVR 0x77 f).2 (congrArg (fun x => some (Instr.mop x)) (getVR_putVR 0x77 f).1)
theorem msave (f : VR) : Statement (.msave f) :=
  of_wave 0x78 rfl rfl rfl (getVR_putVR 0x78 f).2 (congrArg (fun x => some (Instr.msave x)) (getVR_putVR 0x78 f).1)
theorem mrest (f : VR) : Statement (.mrest f) :=
  of_wave 0x79 rfl rfl rfl (getVR_putVR 0x79 f).2 (congrArg (fun x => some (Instr.mrest x)) (getVR_putVR 0x79 f).1)
theorem mpop (f : VR) : Statement (.mpop f) :=
  of_wave 0x7A rfl rfl rfl (getVR_putVR 0x7A f).2 (congrArg (fun x => some (Instr.mpop x)) (getVR_putVR 0x7A f).1)
theorem ld (f : FM) : Statement (.ld f) :=
  of_wave 0x80 rfl rfl rfl (getFM_putFM 0x80 f).2 (congrArg (fun x => some (Instr.ld x)) (getFM_putFM 0x80 f).1)
theorem st (f : FM) : Statement (.st f) :=
  of_wave 0x81 rfl rfl rfl (getFM_putFM 0x81 f).2 (congrArg (fun x => some (Instr.st x)) (getFM_putFM 0x81 f).1)
theorem lds (f : FM) : Statement (.lds f) :=
  of_wave 0x82 rfl rfl rfl (getFM_putFM 0x82 f).2 (congrArg (fun x => some (Instr.lds x)) (getFM_putFM 0x82 f).1)
theorem sts (f : FM) : Statement (.sts f) :=
  of_wave 0x83 rfl rfl rfl (getFM_putFM 0x83 f).2 (congrArg (fun x => some (Instr.sts x)) (getFM_putFM 0x83 f).1)
theorem ldt (f : FM) : Statement (.ldt f) :=
  of_wave 0x84 rfl rfl rfl (getFM_putFM 0x84 f).2 (congrArg (fun x => some (Instr.ldt x)) (getFM_putFM 0x84 f).1)
theorem pref (f : FM) : Statement (.pref f) :=
  of_wave 0x85 rfl rfl rfl (getFM_putFM 0x85 f).2 (congrArg (fun x => some (Instr.pref x)) (getFM_putFM 0x85 f).1)
theorem cpya (f : FM) : Statement (.cpya f) :=
  of_wave 0x86 rfl rfl rfl (getFM_putFM 0x86 f).2 (congrArg (fun x => some (Instr.cpya x)) (getFM_putFM 0x86 f).1)
theorem cbatch (f : FS) : Statement (.cbatch f) :=
  of_wave 0x87 rfl rfl rfl (getFS_putFS 0x87 f).2 (congrArg (fun x => some (Instr.cbatch x)) (getFS_putFS 0x87 f).1)
theorem cwait (f : FS) : Statement (.cwait f) :=
  of_wave 0x88 rfl rfl rfl (getFS_putFS 0x88 f).2 (congrArg (fun x => some (Instr.cwait x)) (getFS_putFS 0x88 f).1)
theorem sample (f : FM) : Statement (.sample f) :=
  of_wave 0xC3 rfl rfl rfl (getFM_putFM 0xC3 f).2 (congrArg (fun x => some (Instr.sample x)) (getFM_putFM 0xC3 f).1)
theorem atom (f : FA) : Statement (.atom f) :=
  of_wave 0xA0 rfl rfl rfl (getFA_putFA 0xA0 f).2 (congrArg (fun x => some (Instr.atom x)) (getFA_putFA 0xA0 f).1)
theorem atoms (f : FA) : Statement (.atoms f) :=
  of_wave 0xA1 rfl rfl rfl (getFA_putFA 0xA1 f).2 (congrArg (fun x => some (Instr.atoms x)) (getFA_putFA 0xA1 f).1)
theorem semp (f : FS) : Statement (.semp f) :=
  of_wave 0xA2 rfl rfl rfl (getFS_putFS 0xA2 f).2 (congrArg (fun x => some (Instr.semp x)) (getFS_putFS 0xA2 f).1)
theorem semv (f : FS) : Statement (.semv f) :=
  of_wave 0xA3 rfl rfl rfl (getFS_putFS 0xA3 f).2 (congrArg (fun x => some (Instr.semv x)) (getFS_putFS 0xA3 f).1)
theorem semrd (f : FS) : Statement (.semrd f) :=
  of_wave 0xA4 rfl rfl rfl (getFS_putFS 0xA4 f).2 (congrArg (fun x => some (Instr.semrd x)) (getFS_putFS 0xA4 f).1)
theorem fence (f : FC) : Statement (.fence f) :=
  of_wave 0xA5 rfl rfl rfl (getFC_putFC 0xA5 f).2 (congrArg (fun x => some (Instr.fence x)) (getFC_putFC 0xA5 f).1)
theorem tlwait (f : FS) : Statement (.tlwait f) :=
  of_wave 0xA6 rfl rfl rfl (getFS_putFS 0xA6 f).2 (congrArg (fun x => some (Instr.tlwait x)) (getFS_putFS 0xA6 f).1)
theorem tlrd (f : FS) : Statement (.tlrd f) :=
  of_wave 0xA7 rfl rfl rfl (getFS_putFS 0xA7 f).2 (congrArg (fun x => some (Instr.tlrd x)) (getFS_putFS 0xA7 f).1)
theorem trig (f : FC) : Statement (.trig f) :=
  of_wave 0xA8 rfl rfl rfl (getFC_putFC 0xA8 f).2 (congrArg (fun x => some (Instr.trig x)) (getFC_putFC 0xA8 f).1)
theorem mloop (f : FE) : Statement (.mloop f) :=
  of_wave 0xB0 rfl rfl rfl (getFE_putFE 0xB0 f).2 (congrArg (fun x => some (Instr.mloop x)) (getFE_putFE 0xB0 f).1)
theorem menq (f : FS) : Statement (.menq f) :=
  of_wave 0xB1 rfl rfl rfl (getFS_putFS 0xB1 f).2 (congrArg (fun x => some (Instr.menq x)) (getFS_putFS 0xB1 f).1)
theorem vxm (f : VR) : Statement (.vxm f) :=
  of_wave 0xB2 rfl rfl rfl (getVR_putVR 0xB2 f).2 (congrArg (fun x => some (Instr.vxm x)) (getVR_putVR 0xB2 f).1)
theorem temit (f : FS) : Statement (.temit f) :=
  of_wave 0xC0 rfl rfl rfl (getFS_putFS 0xC0 f).2 (congrArg (fun x => some (Instr.temit x)) (getFS_putFS 0xC0 f).1)
theorem memit (f : VR) : Statement (.memit f) :=
  of_wave 0xC1 rfl rfl rfl (getVR_putVR 0xC1 f).2 (congrArg (fun x => some (Instr.memit x)) (getVR_putVR 0xC1 f).1)
theorem rtrace (f : VR) : Statement (.rtrace f) :=
  of_wave 0xC2 rfl rfl rfl (getVR_putVR 0xC2 f).2 (congrArg (fun x => some (Instr.rtrace x)) (getVR_putVR 0xC2 f).1)
theorem srd (f : FS) : Statement (.srd f) :=
  of_wave 0xD0 rfl rfl rfl (getFS_putFS 0xD0 f).2 (congrArg (fun x => some (Instr.srd x)) (getFS_putFS 0xD0 f).1)
theorem swr (f : FS) : Statement (.swr f) :=
  of_wave 0xD1 rfl rfl rfl (getFS_putFS 0xD1 f).2 (congrArg (fun x => some (Instr.swr x)) (getFS_putFS 0xD1 f).1)
theorem launch (f : FS) : Statement (.launch f) :=
  of_wave 0xD2 rfl rfl rfl (getFS_putFS 0xD2 f).2 (congrArg (fun x => some (Instr.launch x)) (getFS_putFS 0xD2 f).1)
theorem nq (f : FS) : Statement (.nq f) :=
  of_wave 0xD3 rfl rfl rfl (getFS_putFS 0xD3 f).2 (congrArg (fun x => some (Instr.nq x)) (getFS_putFS 0xD3 f).1)
theorem rqxfer (f : FS) : Statement (.rqxfer f) :=
  of_wave 0xD4 rfl rfl rfl (getFS_putFS 0xD4 f).2 (congrArg (fun x => some (Instr.rqxfer x)) (getFS_putFS 0xD4 f).1)
theorem mxzero (c : Cmd) : Statement (.mxzero c) := by
  refine of_command rfl rfl rfl fun _ _ => ?_
  simp only [Decode.command, (getCmd_putCmd 0x10 c).1, (getCmd_putCmd 0x10 c).2]
  rfl
theorem mxloop (c : Cmd) : Statement (.mxloop c) := by
  refine of_command rfl rfl rfl fun _ _ => ?_
  simp only [Decode.command, (getCmd_putCmd 0x11 c).1, (getCmd_putCmd 0x11 c).2]
  rfl
theorem mxedge (c : Cmd) : Statement (.mxedge c) := by
  refine of_command rfl rfl rfl fun _ _ => ?_
  simp only [Decode.command, (getCmd_putCmd 0x12 c).1, (getCmd_putCmd 0x12 c).2]
  rfl
theorem mxst (c : Cmd) : Statement (.mxst c) := by
  refine of_command rfl rfl rfl fun _ _ => ?_
  simp only [Decode.command, (getCmd_putCmd 0x13 c).1, (getCmd_putCmd 0x13 c).2]
  rfl
theorem mxld (c : Cmd) : Statement (.mxld c) := by
  refine of_command rfl rfl rfl fun _ _ => ?_
  simp only [Decode.command, (getCmd_putCmd 0x14 c).1, (getCmd_putCmd 0x14 c).2]
  rfl
theorem cpy (c : Cmd) : Statement (.cpy c) := by
  refine of_command rfl rfl rfl fun _ _ => ?_
  simp only [Decode.command, (getCmd_putCmd 0x20 c).1, (getCmd_putCmd 0x20 c).2]
  rfl
theorem cpyt (c : Cmd) : Statement (.cpyt c) := by
  refine of_command rfl rfl rfl fun _ _ => ?_
  simp only [Decode.command, (getCmd_putCmd 0x21 c).1, (getCmd_putCmd 0x21 c).2]
  rfl
theorem cpyq (c : Cmd) : Statement (.cpyq c) := by
  refine of_command rfl rfl rfl fun _ _ => ?_
  simp only [Decode.command, (getCmd_putCmd 0x22 c).1, (getCmd_putCmd 0x22 c).2]
  rfl
theorem cpyx (c : Cmd) : Statement (.cpyx c) := by
  refine of_command rfl rfl rfl fun _ _ => ?_
  simp only [Decode.command, (getCmd_putCmd 0x23 c).1, (getCmd_putCmd 0x23 c).2]
  rfl
theorem cpyf (c : Cmd) : Statement (.cpyf c) := by
  refine of_command rfl rfl rfl fun _ _ => ?_
  simp only [Decode.command, (getCmd_putCmd 0x24 c).1, (getCmd_putCmd 0x24 c).2]
  rfl
theorem cpyc (c : Cmd) : Statement (.cpyc c) := by
  refine of_command rfl rfl rfl fun _ _ => ?_
  simp only [Decode.command, (getCmd_putCmd 0x25 c).1, (getCmd_putCmd 0x25 c).2]
  rfl
theorem cpym (c : Cmd) : Statement (.cpym c) := by
  refine of_command rfl rfl rfl fun _ _ => ?_
  simp only [Decode.command, (getCmd_putCmd 0x26 c).1, (getCmd_putCmd 0x26 c).2]
  rfl
theorem fput (c : Cmd) : Statement (.fput c) := by
  refine of_command rfl rfl rfl fun h h' => ?_
  have q := h c rfl
  simp only [Decode.command, (getCmd_putCmd 0x30 c).1, (getCmd_putCmd 0x30 c).2]
  show (Except.ok (if c.f.getLsbD 23 = true then Instr.fputQ c else Instr.fput c) : Except DecodeError Instr) = _
  rw [q]
  rfl
theorem fputQ (c : Cmd) : Statement (.fputQ c) := by
  refine of_command rfl rfl rfl fun h h' => ?_
  have q := h' c rfl
  simp only [Decode.command, (getCmd_putCmd 0x30 c).1, (getCmd_putCmd 0x30 c).2]
  show (Except.ok (if c.f.getLsbD 23 = true then Instr.fputQ c else Instr.fput c) : Except DecodeError Instr) = _
  rw [q]
  rfl
theorem fget (c : Cmd) : Statement (.fget c) := by
  refine of_command rfl rfl rfl fun _ _ => ?_
  simp only [Decode.command, (getCmd_putCmd 0x31 c).1, (getCmd_putCmd 0x31 c).2]
  rfl
theorem fcomp (c : Cmd) : Statement (.fcomp c) := by
  refine of_command rfl rfl rfl fun _ _ => ?_
  simp only [Decode.command, (getCmd_putCmd 0x32 c).1, (getCmd_putCmd 0x32 c).2]
  rfl
theorem fsig (c : Cmd) : Statement (.fsig c) := by
  refine of_command rfl rfl rfl fun _ _ => ?_
  simp only [Decode.command, (getCmd_putCmd 0x33 c).1, (getCmd_putCmd 0x33 c).2]
  rfl
theorem tbegin (c : Cmd) : Statement (.tbegin c) := by
  refine of_command rfl rfl rfl fun _ _ => ?_
  simp only [Decode.command, (getCmd_putCmd 0x40 c).1, (getCmd_putCmd 0x40 c).2]
  rfl
theorem tend (c : Cmd) : Statement (.tend c) := by
  refine of_command rfl rfl rfl fun _ _ => ?_
  simp only [Decode.command, (getCmd_putCmd 0x41 c).1, (getCmd_putCmd 0x41 c).2]
  rfl
theorem idle (c : Cmd) : Statement (.idle c) := by
  refine of_command rfl rfl rfl fun _ _ => ?_
  simp only [Decode.command, (getCmd_putCmd 0x00 c).1, (getCmd_putCmd 0x00 c).2]
  rfl
theorem commandComplete (b : Nat) (slot : Nat) (num : Nat) : Statement (.commandComplete b slot num) := of_event rfl rfl rfl
theorem xpush (r : XR) : Statement (.xpush r) := of_gaffer 0 0 r rfl rfl rfl rfl
theorem xpushm (r : XR) : Statement (.xpushm r) := of_gaffer 1 0 r rfl rfl rfl rfl
theorem xfence (r : XR) : Statement (.xfence r) := of_gaffer 0 1 r rfl rfl rfl rfl
theorem xtlrd (r : XR) : Statement (.xtlrd r) := of_gaffer 0 2 r rfl rfl rfl rfl
theorem xtlwait (r : XR) : Statement (.xtlwait r) := of_gaffer 1 2 r rfl rfl rfl rfl
theorem xsemp (r : XR) : Statement (.xsemp r) := of_gaffer 0 3 r rfl rfl rfl rfl
theorem xsemv (r : XR) : Statement (.xsemv r) := of_gaffer 1 3 r rfl rfl rfl rfl
theorem xsemrd (r : XR) : Statement (.xsemrd r) := of_gaffer 2 3 r rfl rfl rfl rfl
theorem xsemwr (r : XR) : Statement (.xsemwr r) := of_gaffer 3 3 r rfl rfl rfl rfl
theorem xtick (r : XR) : Statement (.xtick r) := of_gaffer 0 4 r rfl rfl rfl rfl
theorem xtkbar (r : XR) : Statement (.xtkbar r) := of_gaffer 1 4 r rfl rfl rfl rfl
theorem xmsend (r : XR) : Statement (.xmsend r) := of_gaffer 0 5 r rfl rfl rfl rfl
theorem xmrecv (r : XR) : Statement (.xmrecv r) := of_gaffer 1 5 r rfl rfl rfl rfl
theorem xhlaunch (r : XR) : Statement (.xhlaunch r) := of_gaffer 0 6 r rfl rfl rfl rfl
theorem xdrain (r : XR) : Statement (.xdrain r) := of_gaffer 0 7 r rfl rfl rfl rfl
theorem xwmark (r : XR) : Statement (.xwmark r) := of_gaffer 1 7 r rfl rfl rfl rfl
theorem rbind (b : Nat) (v : W64) : Statement (.rbind b v) := of_event rfl rfl rfl
theorem rctlResume (b : Nat) : Statement (.rctlResume b) := of_event rfl rfl rfl
theorem rctlUnbind (b : Nat) : Statement (.rctlUnbind b) := of_event rfl rfl rfl
theorem rctlClrerr (b : Nat) : Statement (.rctlClrerr b) := of_event rfl rfl rfl
theorem rctlFinish (b : Nat) : Statement (.rctlFinish b) := of_event rfl rfl rfl
theorem gent (b : Nat) (v : W64) : Statement (.gent b v) := of_event rfl rfl rfl
theorem csdata (b : Nat) (rd : BitVec 5) (v : Option W64) : Statement (.csdata b rd v) := of_event rfl rfl rfl
theorem cxcmdSave (b : Nat) : Statement (.cxcmdSave b) := of_event rfl rfl rfl
theorem cxcmdRestore (b : Nat) : Statement (.cxcmdRestore b) := of_event rfl rfl rfl
theorem cxcmdHwm (b : Nat) : Statement (.cxcmdHwm b) := of_event rfl rfl rfl
theorem smap (b : Nat) (v : W64) : Statement (.smap b v) := of_event rfl rfl rfl
theorem replay (b : Nat) (v : W64) : Statement (.replay b v) := of_event rfl rfl rfl
theorem ulipost (b : Nat) (v : W64) : Statement (.ulipost b v) := of_event rfl rfl rfl
theorem shootdownGo (k : Nat) : Statement (.shootdownGo k) := of_event rfl rfl rfl
theorem shootdownDone (k : Nat) : Statement (.shootdownDone k) := of_event rfl rfl rfl
theorem latchRel (b : Nat) : Statement (.latchRel b) := of_event rfl rfl rfl
theorem faultRingRidx (ctx : Nat) (v : W64) : Statement (.faultRingRidx ctx v) := of_event rfl rfl rfl
theorem faultRecordDeferred (ctx : Nat) : Statement (.faultRecordDeferred ctx) := of_event rfl rfl rfl
theorem latchedMessage (b : Nat) : Statement (.latchedMessage b) := of_event rfl rfl rfl
theorem contextReset (ctx : Nat) : Statement (.contextReset ctx) := of_event rfl rfl rfl
theorem contextResetDone (ctx : Nat) : Statement (.contextResetDone ctx) := of_event rfl rfl rfl
theorem formatRangeValidate (n : Nat) (v : W64) : Statement (.formatRangeValidate n v) := of_event rfl rfl rfl
theorem formatRangeRetire (n : Nat) (v : W64) : Statement (.formatRangeRetire n v) := of_event rfl rfl rfl
theorem rangeRetireComplete (n : Nat) : Statement (.rangeRetireComplete n) := of_event rfl rfl rfl
theorem poolszRaise (n : Nat) (v : W64) : Statement (.poolszRaise n v) := of_event rfl rfl rfl
theorem viewWriteback (n : Nat) (blk : Nat) : Statement (.viewWriteback n blk) := of_event rfl rfl rfl
theorem poolRetry (n : Nat) (blk : Nat) : Statement (.poolRetry n blk) := of_event rfl rfl rfl
theorem l1Evict (b : Nat) (line : Nat) : Statement (.l1Evict b line) := of_event rfl rfl rfl
theorem uncorrectableError (pa : Nat) (src : Nat) : Statement (.uncorrectableError pa src) := of_event rfl rfl rfl
theorem arbitrationModeWrite (die : Nat) (v : W64) : Statement (.arbitrationModeWrite die v) := of_event rfl rfl rfl
theorem gateRelease (die : Nat) : Statement (.gateRelease die) := of_event rfl rfl rfl
theorem ordergate (die : Nat) : Statement (.ordergate die) := of_event rfl rfl rfl
theorem qgo : Statement .qgo := of_event rfl rfl rfl
theorem quoteDone : Statement .quoteDone := of_event rfl rfl rfl
theorem featureAccept (word : Nat) (v : W64) : Statement (.featureAccept word v) := of_event rfl rfl rfl
theorem featureCommit : Statement .featureCommit := of_event rfl rfl rfl
theorem ownershipSemaphore (k : Nat) (a : Option W64) (p : Option W64) : Statement (.ownershipSemaphore k a p) := of_event rfl rfl rfl
theorem cellPowerReq (c : Nat) (v : W64) : Statement (.cellPowerReq c v) := of_event rfl rfl rfl
theorem cellOffReached (c : Nat) : Statement (.cellOffReached c) := of_event rfl rfl rfl
theorem cellWakeDone (c : Nat) : Statement (.cellWakeDone c) := of_event rfl rfl rfl
theorem plim (v : W64) : Statement (.plim v) := of_event rfl rfl rfl
theorem clockStepSelect (k0 : Nat) (k1 : Nat) : Statement (.clockStepSelect k0 k1) := of_event rfl rfl rfl
theorem thermalTrip (die : Nat) : Statement (.thermalTrip die) := of_event rfl rfl rfl
theorem ptcWrite (v : W64) : Statement (.ptcWrite v) := of_event rfl rfl rfl
theorem compositeGroupWrite (g : Nat) (word : Nat) (v : W64) : Statement (.compositeGroupWrite g word v) := of_event rfl rfl rfl
theorem compositeFrameEnd (g : Nat) : Statement (.compositeFrameEnd g) := of_event rfl rfl rfl
theorem headFlip (h : Nat) : Statement (.headFlip h) := of_event rfl rfl rfl
theorem headWrite (h : Nat) (word : Nat) (v : W64) : Statement (.headWrite h word v) := of_event rfl rfl rfl
theorem launchQueueWrite (q : Nat) (v : W64) : Statement (.launchQueueWrite q v) := of_event rfl rfl rfl
theorem contextTableWrite (v : W64) : Statement (.contextTableWrite v) := of_event rfl rfl rfl
theorem partitionWrite (b : Nat) (p : Nat) (word : Nat) (v : W64) : Statement (.partitionWrite b p word v) := of_event rfl rfl rfl
theorem portBMessage (b : Nat) (v : W64) : Statement (.portBMessage b v) := of_event rfl rfl rfl
theorem registerWrite (r : RegRef) (v : W64) : Statement (.registerWrite r v) := of_event rfl rfl rfl
theorem deviceReset : Statement .deviceReset := of_event rfl rfl rfl
theorem recoveryImage (image : List Byte) : Statement (.recoveryImage image) := of_event rfl rfl rfl
theorem timedRingRendezvous (die : Nat) (tick : Nat) : Statement (.timedRingRendezvous die tick) := of_event rfl rfl rfl
theorem watchdog (u : UnitRef) : Statement (.watchdog u) := of_event rfl rfl rfl
theorem fabtimeout (tag : Nat) : Statement (.fabtimeout tag) := of_event rfl rfl rfl
theorem launchPredicate (q : Nat) : Statement (.launchPredicate q) := of_event rfl rfl rfl
theorem placeGroup (die : Nat) : Statement (.placeGroup die) := of_event rfl rfl rfl
theorem meshGroupPlace (ctx : Nat) (pn : Nat) : Statement (.meshGroupPlace ctx pn) := of_event rfl rfl rfl
theorem semaphoreGrant (b : Nat) (ctr : Nat) : Statement (.semaphoreGrant b ctr) := of_event rfl rfl rfl
theorem barrierComplete (b : Nat) (g : Nat) : Statement (.barrierComplete b g) := of_event rfl rfl rfl
theorem clusterBarrierComplete (b : Nat) (g : Nat) : Statement (.clusterBarrierComplete b g) := of_event rfl rfl rfl
theorem timelineWaitMet (u : UnitRef) : Statement (.timelineWaitMet u) := of_event rfl rfl rfl
theorem sleepExpiry (b : Nat) (slot : Nat) (e : Nat) : Statement (.sleepExpiry b slot e) := of_event rfl rfl rfl
theorem uliDelivery (b : Nat) (slot : Nat) : Statement (.uliDelivery b slot) := of_event rfl rfl rfl
theorem laneCopy (b : Nat) (id : Nat) : Statement (.laneCopy b id) := of_event rfl rfl rfl
theorem splitTableFill (b : Nat) (slot : Nat) (e : Nat) : Statement (.splitTableFill b slot e) := of_event rfl rfl rfl
theorem tilingSplit (ctx : Nat) (pn : Nat) : Statement (.tilingSplit ctx pn) := of_event rfl rfl rfl
theorem splitResume (ctx : Nat) (pn : Nat) : Statement (.splitResume ctx pn) := of_event rfl rfl rfl
theorem rdFlit (f : Flit) : Statement (.rdFlit f) := of_event rfl rfl rfl
theorem wrFlit (f : Flit) : Statement (.wrFlit f) := of_event rfl rfl rfl
theorem atFlit (f : Flit) : Statement (.atFlit f) := of_event rfl rfl rfl
theorem sigFlit (f : Flit) : Statement (.sigFlit f) := of_event rfl rfl rfl
theorem compFlit (f : Flit) : Statement (.compFlit f) := of_event rfl rfl rfl
theorem syncFlit (f : Flit) : Statement (.syncFlit f) := of_event rfl rfl rfl
theorem rdrFlit (f : Flit) : Statement (.rdrFlit f) := of_event rfl rfl rfl
theorem wraFlit (f : Flit) : Statement (.wraFlit f) := of_event rfl rfl rfl
theorem atrFlit (f : Flit) : Statement (.atrFlit f) := of_event rfl rfl rfl
theorem sigaFlit (f : Flit) : Statement (.sigaFlit f) := of_event rfl rfl rfl
theorem reservedTypeFlit (f : Flit) : Statement (.reservedTypeFlit f) := of_event rfl rfl rfl
theorem nodeDeadline (g : Nat) : Statement (.nodeDeadline g) := of_event rfl rfl rfl
theorem missingCommand (b : Nat) (slot : Nat) : Statement (.missingCommand b slot) := of_event rfl rfl rfl
theorem drainComplete (b : Nat) (ctx : Nat) : Statement (.drainComplete b ctx) := of_event rfl rfl rfl
theorem sliceSaveRestoreDone (b : Nat) (ctx : Nat) : Statement (.sliceSaveRestoreDone b ctx) := of_event rfl rfl rfl
theorem portupChange (port : Nat) (up : Bool) : Statement (.portupChange port up) := of_event rfl rfl rfl
theorem verticalBlanking (h : Nat) : Statement (.verticalBlanking h) := of_event rfl rfl rfl
theorem unassignedOpc (w : W64) : Statement (.unassignedOpc w) := of_event rfl rfl rfl
theorem unlistedEop (w : W64) : Statement (.unlistedEop w) := of_event rfl rfl rfl
theorem unassignedCustom0 (w : W32) : Statement (.unassignedCustom0 w) := of_event rfl rfl rfl
theorem thermalCut : Statement .thermalCut := of_event rfl rfl rfl
theorem qosWindow : Statement .qosWindow := of_event rfl rfl rfl
theorem linkDown : Statement .linkDown := of_event rfl rfl rfl

end Sys2Proof.Laws.Coding
end

