-- ==== Sys2Proof/Tests/Slice0.lean ====
section
/-! SUPPORT. Tests. -/

namespace Sys2Proof.Tests

open Sys2Proof Sys2Proof.Machine

-- One theorem at a time: each asks the kernel, and so waits for those before it.
set_option Elab.async false

/-! ## Decoding -/

/-- Format VR with every field 0. -/
def vr0 : VR := ⟨0, 0, 0, 0, 0, 0, 0, 0, 0, 0, 0, 0, 0⟩
/-- Format VI with every field 0. -/
def vi0 : VI := ⟨0, 0, 0, 0, 0, 0⟩
/-- Format S with every field 0. -/
def fs0 : FS := ⟨0, 0, 0, 0, 0, 0, 0⟩
/-- Format C with every field 0. -/
def fc0 : FC := ⟨0, 0, 0, 0, 0, 0⟩
/-- Format C2 with every field 0. -/
def fc20 : FC2 := ⟨0, 0, 0, 0, 0⟩
/-- Format M with every field 0. -/
def fm0 : FM := ⟨0, 0, 0, 0, 0, 0, 0, 0, 0, 0, 0, 0⟩
/-- Format A with every field 0. -/
def fa0 : FA := ⟨0, 0, 0, 0, 0, 0, 0, 0, 0, 0, 0⟩
/-- Format E with every field 0. -/
def fe0 : FE := ⟨0, 0, 0⟩

/-- Wave words decode to the instructions beside them. -/
def decodesTo (ws : List (W64 × Instr)) : Bool := ws.all fun p => (Decode.wave p.1).toOption == some p.2
/-- Engine words decode to the commands beside them. -/
def commandsTo (ws : List (W64 × Instr)) : Bool := ws.all fun p => (Decode.command p.1).toOption == some p.2
/-- Gaffer words decode to the instructions beside them. -/
def xTo (ws : List (W32 × Instr)) : Bool := ws.all fun p => (Decode.gaffer p.1).toOption == some p.2

/-- R311, R312, R319: the words of the opcode map, field by field. -/
theorem test_words_control : decodesTo [
    (0x0100000000000000, .nop fc0), (0x021B140000000007, .jmp { fc0 with fn := 1, cnd := 11, sa := 5, off := 7 }),
    (0x030DFA40FFFFFFFE, .call { fc0 with cnd := 13, sa := 62, mask := 9, off := 0xFFFFFFFE }),
    (0x040EF8C000000000, .ret { fc0 with cnd := 14, sa := 62, mask := 3 }),
    (0x050C840000000002, .br { fc0 with cnd := 12, sa := 33, off := 2 }),
    (0x0602000000030004, .brs { fc20 with mask := 2, tgt := 3, rc := 4 }), (0x0700000000000000, .join fc0),
    (0x080F03C000000000, .exit { fc0 with cnd := 15, mask := 15 }),
    (0x0901000012345678, .trap { fc0 with cnd := 1, off := 0x12345678 }),
    (0x0A02000000000000, .brkpt { fc0 with cnd := 2 }), (0x0B00000000000000, .bar fc0),
    (0x0C00000000000000, .cbar fc0), (0x0D0A000000000064, .sleep { fc0 with cnd := 10, off := 100 }),
    (0x0E00000000000000, .uliret fc0)] = true := by decide

/-- R310, R320: the words of the opcode map, field by field. -/
theorem test_words_scalar : decodesTo [
    (0x100042FC00000000, .sadd { fs0 with sd := 1, sa := 2, sb := 63 }),
    (0x110042FC00000000, .ssub { fs0 with sd := 1, sa := 2, sb := 63 }),
    (0x122FC10C00000000, .smul { fs0 with fn := 2, sd := 63, sa := 1, sb := 3 }),
    (0x13010502FFFFFFFF, .sand { fs0 with sd := 4, sa := 5, ib := 1, imm := 0xFFFFFFFF }),
    (0x14010502FFFFFFFF, .sor { fs0 with sd := 4, sa := 5, ib := 1, imm := 0xFFFFFFFF }),
    (0x15010502FFFFFFFF, .sxor { fs0 with sd := 4, sa := 5, ib := 1, imm := 0xFFFFFFFF }),
    (0x1601051900000000, .sshl { fs0 with sd := 4, sa := 5, sb := 6, w := 1 }),
    (0x171105020000003F, .sshr { fs0 with fn := 1, sd := 4, sa := 5, ib := 1, imm := 63 }),
    (0x1800051800000000, .scmp { fs0 with sa := 5, sb := 6 }),
    (0x1912400080000001, .smov { fs0 with fn := 1, sd := 9, imm := 0x80000001 }),
    (0x1AA0420C00000000, .ssel { fs0 with fn := 10, sd := 1, sa := 2, sb := 3 }),
    (0x1BB1C818FFFFFFF8, .sld { fs0 with fn := 11, sd := 7, sa := 8, sb := 6, imm := 0xFFFFFFF8 }),
    (0x1CF1C81400000010, .sst { fs0 with fn := 15, sd := 7, sa := 8, sb := 5, imm := 16 }),
    (0x1D03C42400000000, .sxlat { fs0 with sd := 15, sa := 4, sb := 9 })] = true := by decide

/-- R307, R309, R321: the words of the opcode map, field by field. -/
theorem test_words_vector_integer : decodesTo [
    (0x2000202018000044, .vadd { vr0 with vd := 4, va := 8, vb := 12, ty := 2, sat := 1 }),
    (0x2100080404000000, .vsub { vr0 with vd := 1, va := 1, vb := 2 }),
    (0x221FFFFBFA000020, .vmul { vr0 with fn := 1, vd := 511, va := 510, vb := 509, ty := 1 }),
    (0x23002018100A1E60, .vmad { vr0 with vd := 4, va := 6, vb := 8, vc := 10, oc := 7, tr := 1, ty := 3 }),
    (0x240020140C070160, .vdot4 { vr0 with vd := 4, va := 5, vb := 6, vc := 7, ty := 11 }),
    (0x250018107E004000, .vand { vr0 with vd := 3, va := 4, vb := 63, ks := 2 }),
    (0x260018107E004000, .vor { vr0 with vd := 3, va := 4, vb := 63, ks := 2 }),
    (0x270018107E004000, .vxor { vr0 with vd := 3, va := 4, vb := 63, ks := 2 }),
    (0x280018100A000120, .vshl { vr0 with vd := 3, va := 4, vb := 5, ty := 9 }),
    (0x291018100A000100, .vshr { vr0 with fn := 1, vd := 3, va := 4, vb := 5, ty := 8 }),
    (0x2A0018100A000140, .vmin { vr0 with vd := 3, va := 4, vb := 5, ty := 10 }),
    (0x2B0018100A000160, .vmax { vr0 with vd := 3, va := 4, vb := 5, ty := 11 }),
    (0x2C5078100C000040, .vcmp { vr0 with fn := 5, vd := 15, va := 4, vb := 6, ty := 2 }),
    (0x2D002018100F00A0, .vsel { vr0 with vd := 4, va := 6, vb := 8, vc := 15, ty := 5 }),
    (0x2E00201810000000, .vbfe { vr0 with vd := 4, va := 6, vb := 8 }),
    (0x2F00201810090020, .vbfi { vr0 with vd := 4, va := 6, vb := 8, vc := 9, ty := 1 }),
    (0x3000201800000000, .vpopc { vr0 with vd := 4, va := 6 }),
    (0x3100201800000020, .vclz { vr0 with vd := 4, va := 6, ty := 1 }),
    (0x32002018000001C0, .vmov { vr0 with vd := 4, va := 6, ty := 14 }),
    (0x38102018DEADBEEF, .vaddImm { vi0 with ty := 1, vd := 4, va := 6, imm := 0xDEADBEEF }),
    (0x39102018DEADBEEF, .vmulImm { vi0 with ty := 1, vd := 4, va := 6, imm := 0xDEADBEEF }),
    (0x3A102018DEADBEEF, .vandImm { vi0 with ty := 1, vd := 4, va := 6, imm := 0xDEADBEEF }),
    (0x3B102018DEADBEEF, .vorImm { vi0 with ty := 1, vd := 4, va := 6, imm := 0xDEADBEEF }),
    (0x3C0538FE00000009, .vcmpImm { vi0 with ty := 0, vd := 167, va := 63, ka := 1, imm := 9 }),
    (0x3D4020013F800000, .vmovImm { vi0 with ty := 4, vd := 4, tr := 1, imm := 0x3F800000 }),
    (0x3E70201800000001, .vfaddImm { vi0 with ty := 7, vd := 4, va := 6, imm := 1 }),
    (0x3F50201800000001, .vfmulImm { vi0 with ty := 5, vd := 4, va := 6, imm := 1 })] = true := by decide

/-- R307, R322: the words of the opcode map, field by field. -/
theorem test_words_vector_float : decodesTo [
    (0x400020181000009E, .vfadd { vr0 with vd := 4, va := 6, vb := 8, ty := 4, rm := 3, sat := 1, na := 1 }),
    (0x41002018100000A8, .vfmul { vr0 with vd := 4, va := 6, vb := 8, ty := 5, rm := 1 }),
    (0x42002018100A00D7, .vfma { vr0 with vd := 4, va := 6, vb := 8, vc := 10, ty := 6, rm := 2, sat := 1, na := 1, nc := 1 }),
    (0x43102018100000E2, .vfmin { vr0 with fn := 1, vd := 4, va := 6, vb := 8, ty := 7, na := 1 }),
    (0x4400201810000080, .vfmax { vr0 with vd := 4, va := 6, vb := 8, ty := 4 }),
    (0x45701818100000A0, .vfcmp { vr0 with fn := 7, vd := 3, va := 6, vb := 8, ty := 5 }),
    (0x4600201810000080, .vfdiv { vr0 with vd := 4, va := 6, vb := 8, ty := 4 }),
    (0x47002018000000A0, .vfsqrt { vr0 with vd := 4, va := 6, ty := 5 }),
    (0x4800201800000080, .vrcp { vr0 with vd := 4, va := 6, ty := 4, rm := 0 }),
    (0x4900201800000088, .vrsq { vr0 with vd := 4, va := 6, ty := 4, rm := 1 }),
    (0x4A00201800000090, .vexp2 { vr0 with vd := 4, va := 6, ty := 4, rm := 2 }),
    (0x4B00201800000098, .vlog2 { vr0 with vd := 4, va := 6, ty := 4, rm := 3 }),
    (0x4C20201C00000080, .vsincos { vr0 with fn := 2, vd := 4, va := 7, ty := 4 }),
    (0x4D002018000000C8, .vfrnd { vr0 with vd := 4, va := 6, ty := 6, rm := 1 }),
    (0x4E00201800000082, .vfract { vr0 with vd := 4, va := 6, ty := 4, na := 1 }),
    (0x4F002018100900E1, .vfdot2 { vr0 with vd := 4, va := 6, vb := 8, vc := 9, ty := 7, nc := 1 }),
    (0x6000201800000088, .vcvt { vr0 with fn := 0, vd := 4, va := 6, ty := 4, rm := 1 }),
    (0x61102018100921C0, .vqmx { vr0 with fn := 1, vd := 4, va := 6, vb := 8, vc := 9, ks := 1, ty := 14 }),
    (0x6200201810004180, .vdqmx { vr0 with vd := 4, va := 6, vb := 8, ks := 2, ty := 12 }),
    (0x6340201800008000, .decode { vr0 with fn := 4, vd := 4, va := 6, ks := 4 })] = true := by decide

/-- R307, R323: the words of the opcode map, field by field. -/
theorem test_words_lane : decodesTo [
    (0x700010040000001B, .vqswz { vi0 with ty := 0, vd := 2, va := 1, imm := 27 }),
    (0x7130201810000000, .vshfl { vr0 with fn := 3, vd := 4, va := 6, vb := 8 }),
    (0x7201F81810004000, .vrdl { vr0 with vd := 63, va := 6, vb := 8, ks := 2 }),
    (0x730020181000C000, .vwrl { vr0 with vd := 4, va := 6, vb := 8, ks := 6 }),
    (0x7480781800000000, .ballot { vr0 with fn := 8, vd := 15, va := 6 }),
    (0x7560281800000080, .vred { vr0 with fn := 6, vd := 5, va := 6, ty := 4 }),
    (0x76D0281800000000, .vscan { vr0 with fn := 13, vd := 5, va := 6 }),
    (0x773008401E000000, .mop { vr0 with fn := 3, vd := 1, va := 16, vb := 15 }),
    (0x7800780000000000, .msave { vr0 with vd := 15 }), (0x7910004000000000, .mrest { vr0 with fn := 1, va := 16 }),
    (0x7A11F80C00000000, .mpop { vr0 with fn := 1, vd := 63, va := 3 })] = true := by decide

/-- R310, R313, R324: the words of the opcode map, field by field. -/
theorem test_words_memory : decodesTo [
    (0x80003010CFF55004, .ld { fm0 with vd := 6, va := 4, tb := 3, brx := 255, sz := 2, st := 2, sc := 5, off := 4 }),
    (0x818030100FF60BFF, .st { fm0 with am := 1, vd := 6, va := 4, brx := 255, sz := 3, ch := 2, off := 0x3FF }),
    (0x823028040FF20002, .lds { fm0 with fn := 3, vd := 5, va := 1, brx := 255, sz := 1, off := 2 }),
    (0x834028040FF00000, .sts { fm0 with fn := 4, vd := 5, va := 1, brx := 255, sz := 0 }),
    (0x84003003CFF40000, .ldt { fm0 with vd := 6, tb := 15, brx := 255, sz := 2 }),
    (0x851000108FF40000, .pref { fm0 with fn := 1, va := 4, tb := 2, brx := 255, sz := 2 }),
    (0x866028104FF80000, .cpya { fm0 with fn := 6, vd := 5, va := 4, tb := 1, brx := 255, sz := 4 }),
    (0x8701400000000000, .cbatch { fs0 with sd := 5 }), (0x8800000200000003, .cwait { fs0 with ib := 1, imm := 3 }),
    (0xC300201800700000, .sample { fm0 with vd := 4, va := 6, brx := 7 })] = true := by decide

/-- R310, R311, R314, R325: the words of the opcode map, field by field. -/
theorem test_words_sync : decodesTo [
    (0xA0102018100A07B0, .atom { fa0 with fn := 1, vd := 4, va := 6, vb := 8, vc := 10, sz := 1, st := 3, sc := 5, am := 1 }),
    (0xA120201810001040, .atoms { fa0 with fn := 2, vd := 4, va := 6, vb := 8, tb := 1, sc := 2 }),
    (0xA2000000000000FF, .semp { fs0 with imm := 255 }),
    (0xA310050000000003, .semv { fs0 with fn := 1, sa := 5, imm := 3 }),
    (0xA401400000000003, .semrd { fs0 with sd := 5, imm := 3 }),
    (0xA525000000000000, .fence { fc0 with fn := 2, cnd := 5 }),
    (0xA611421000000000, .tlwait { fs0 with fn := 1, sd := 5, sa := 2, sb := 4 }),
    (0xA701400000001FFE, .tlrd { fs0 with sd := 5, imm := 0x1FFE }), (0xA800000000000000, .trig fc0)] = true := by decide

/-- R307, R310, R315, R326: the words of the opcode map, field by field. -/
theorem test_words_system : decodesTo [
    (0xB0FF070102000301, .mloop { fe0 with ws := 255, sg := 7, f := 0x102000301 }),
    (0xB100830000000005, .menq { fs0 with sd := 2, sa := 3, imm := 5 }),
    (0xB200F0500A0020E0, .vxm { vr0 with vd := 30, va := 20, vb := 5, ks := 1, ty := 7 }),
    (0xC000831000000000, .temit { fs0 with sd := 2, sa := 3, sb := 4 }),
    (0xC100201810090000, .memit { vr0 with vd := 4, va := 6, vb := 8, vc := 9 }),
    (0xC210802004004000, .rtrace { vr0 with fn := 1, vd := 16, va := 8, vb := 2, ks := 2 }),
    (0xD000800000000018, .srd { fs0 with sd := 2, imm := 24 }),
    (0xD100020000000018, .swr { fs0 with sa := 2, imm := 24 }),
    (0xD200830200000009, .launch { fs0 with sd := 2, sa := 3, ib := 1, imm := 9 }),
    (0xD300830000000000, .nq { fs0 with sd := 2, sa := 3 }),
    (0xD400020C00000000, .rqxfer { fs0 with sa := 2, sb := 3 })] = true := by decide

/-- R328, R329: the engine words, each with WAIT 0xFF and SIG 7. -/
theorem test_words_command : commandsTo [
    (0xFF07000000000000, .idle ⟨255, 7, 0x0⟩), (0xFF07100000300001, .mxzero ⟨255, 7, 0x300001⟩),
    (0xFF07110102300302, .mxloop ⟨255, 7, 0x102300302⟩), (0xFF07120102030010, .mxedge ⟨255, 7, 0x102030010⟩),
    (0xFF07130100320000, .mxst ⟨255, 7, 0x100320000⟩), (0xFF07140100110000, .mxld ⟨255, 7, 0x100110000⟩),
    (0xFF07200102003004, .cpy ⟨255, 7, 0x102003004⟩), (0xFF07210102003006, .cpyt ⟨255, 7, 0x102003006⟩),
    (0xFF07220102030010, .cpyq ⟨255, 7, 0x102030010⟩), (0xFF07230102002011, .cpyx ⟨255, 7, 0x102002011⟩),
    (0xFF0724AA02003004, .cpyf ⟨255, 7, 0xAA02003004⟩), (0xFF07250102003004, .cpyc ⟨255, 7, 0x102003004⟩),
    (0xFF07260102000000, .cpym ⟨255, 7, 0x102000000⟩), (0xFF07300102003004, .fput ⟨255, 7, 0x102003004⟩),
    (0xFF07300102803004, .fputQ ⟨255, 7, 0x102803004⟩),
    (0xFF07310102003004, .fget ⟨255, 7, 0x102003004⟩), (0xFF07320101000005, .fcomp ⟨255, 7, 0x101000005⟩),
    (0xFF07330010203000, .fsig ⟨255, 7, 0x10203000⟩), (0xFF07400130000000, .tbegin ⟨255, 7, 0x130000000⟩),
    (0xFF07413000000000, .tend ⟨255, 7, 0x3000000000⟩)] = true := by decide

/-- R248, R332: the X words, with rd = x10, rs1 = x11 and rs2 = x12 where the row uses them. -/
theorem test_words_gaffer : xTo [
    (0x00C5850B, .xpush ⟨10, 11, 12⟩), (0x02C5850B, .xpushm ⟨10, 11, 12⟩), (0x0005900B, .xfence ⟨0, 11, 0⟩),
    (0x0005A50B, .xtlrd ⟨10, 11, 0⟩), (0x02C5A50B, .xtlwait ⟨10, 11, 12⟩), (0x0005B50B, .xsemp ⟨10, 11, 0⟩),
    (0x02C5B00B, .xsemv ⟨0, 11, 12⟩), (0x0405B50B, .xsemrd ⟨10, 11, 0⟩), (0x06C5B00B, .xsemwr ⟨0, 11, 12⟩),
    (0x0000450B, .xtick ⟨10, 0, 0⟩), (0x02C5C50B, .xtkbar ⟨10, 11, 12⟩), (0x00C5D50B, .xmsend ⟨10, 11, 12⟩),
    (0x0205D50B, .xmrecv ⟨10, 11, 0⟩), (0x00C5E50B, .xhlaunch ⟨10, 11, 12⟩), (0x0005F50B, .xdrain ⟨10, 11, 0⟩),
    (0x02C5F00B, .xwmark ⟨0, 11, 12⟩)] = true := by decide

/-! ## Ill-formed instructions -/

/-- R305, R308, R310, R321 to R323: fields of the vector, scalar and mask rows that no instruction has: a type, a function code, an odd wide register, a mask or
scalar number, an unused source, KS on an unused source, and RM, SAT, NA and NC where the row has none. -/
theorem test_ill_formed_vector : ([.vadd { vr0 with ty := 12 }, .vmul { vr0 with fn := 2 }, .vmul { vr0 with fn := 1, ty := 2 },
    .vand { vr0 with ty := 2, vd := 1 }, .vand { vr0 with ty := 2, va := 1 }, .vadd { vr0 with ks := 2, vb := 64 },
    .vadd { vr0 with vc := 1 }, .vadd { vr0 with ks := 1 }, .vadd { vr0 with rm := 1 }, .vand { vr0 with sat := 1 },
    .vadd { vr0 with na := 1 }, .vfadd { vr0 with ty := 4, nc := 1 }, .vcmp { vr0 with vd := 16 }, .vcmp { vr0 with tr := 1 },
    .vcmp { vr0 with fn := 6 }, .vsel { vr0 with vc := 16 }, .vrdl { vr0 with ks := 2, vd := 64 }, .vrdl vr0,
    .vsincos { vr0 with ty := 4, fn := 2, vd := 1 }, .vcvt { vr0 with ty := 1 }, .vcvt { vr0 with ty := 4, fn := 5, va := 1 },
    .vcvt { vr0 with ty := 12, fn := 4, vd := 1, va := 2 }, .vcvt { vr0 with ty := 4, na := 1 }, .vqmx { vr0 with ty := 12, ks := 1 },
    .vqmx { vr0 with ty := 12, ks := 1, vd := 1, vb := 2 }, .vqmx { vr0 with ty := 4, ks := 1, vd := 1 },
    .vdqmx { vr0 with ty := 12 }, .vxm { vr0 with ty := 7 }, .vxm { vr0 with ty := 7, vb := 1, va := 1 },
    .vxm { vr0 with ty := 10, vb := 1, rm := 1 }, .mop { vr0 with fn := 7 }, .mop { vr0 with va := 17 }, .mop { vr0 with fn := 4, vb := 1 },
    .mop { vr0 with fn := 6 }, .msave { vr0 with vd := 16 }, .msave { vr0 with va := 1 }, .mrest { vr0 with fn := 2 },
    .mpop { vr0 with vd := 64 }, .vred { vr0 with fn := 7 }, .vscan { vr0 with fn := 6 }, .ballot { vr0 with fn := 1 },
    .decode { vr0 with fn := 5, ks := 4 }, .decode { vr0 with ks := 4, tr := 1 }, .memit { vr0 with ty := 1 },
    .rtrace { vr0 with ks := 2, vd := 2 }, .rtrace vr0, .vaddImm { vi0 with ty := 12 }, .vaddImm { vi0 with ka := 1, va := 64 },
    .vcmpImm { vi0 with vd := 16 }, .vcmpImm { vi0 with vd := 192 }, .vcmpImm { vi0 with tr := 1 }, .vmovImm { vi0 with va := 1 },
    .vqswz { vi0 with ka := 1 }, .vqswz { vi0 with imm := 256 }] : List Instr).all (fun i => !WellFormed.ok i) = true := by decide

/-- R305, R310, R311, R313 to R315, R317, R319, R324 to R326: fields that no instruction has in the other rows. -/
theorem test_ill_formed_others : ([.nop { fc0 with off := 1 }, .jmp { fc0 with fn := 3 }, .jmp { fc0 with fn := 1, off := 64 },
    .jmp { fc0 with fn := 2, off := 1 }, .jmp { fc0 with sa := 1 }, .jmp { fc0 with mask := 1 }, .jmp { fc0 with rsv := 1 },
    .call { fc0 with cnd := 11 }, .ret { fc0 with off := 8 }, .br { fc0 with fn := 1 }, .brs { fc20 with fn := 2 },
    .brs { fc20 with rsv := 1 }, .exit { fc0 with off := 1 }, .uliret { fc0 with fn := 1 }, .fence { fc0 with fn := 4 },
    .fence { fc0 with cnd := 7 }, .sadd { fs0 with fn := 1 }, .sadd { fs0 with imm := 1 }, .sadd { fs0 with ib := 1, sb := 1 },
    .smul { fs0 with fn := 3 }, .scmp { fs0 with sd := 1 }, .smov { fs0 with sa := 1 }, .smov { fs0 with fn := 1, w := 1 },
    .ssel { fs0 with fn := 11 }, .sld { fs0 with fn := 12 }, .sst { fs0 with fn := 8 }, .sld { fs0 with sb := 1 },
    .sxlat { fs0 with sd := 16 }, .semp { fs0 with imm := 256 }, .semp { fs0 with sd := 1 }, .semv { fs0 with sa := 1 },
    .tlrd { fs0 with sa := 1 }, .tlwait { fs0 with imm := 0x2000 }, .tlwait { fs0 with fn := 1, imm := 1 }, .ld { fm0 with brx := 255, sz := 5 },
    .ld { fm0 with brx := 255, st := 3 }, .st { fm0 with brx := 255, st := 2 }, .ld { fm0 with brx := 255, sc := 1 },
    .ld { fm0 with brx := 255, am := 1, va := 1 }, .ld { fm0 with brx := 255, am := 1, tb := 1 }, .ld { fm0 with brx := 255, sz := 3, vd := 1 },
    .ld { fm0 with brx := 255, fn := 1, sz := 2 }, .ld { fm0 with brx := 0, tb := 1 }, .lds { fm0 with brx := 255, fn := 6 },
    .lds { fm0 with brx := 255, fn := 2, st := 1 }, .ldt { fm0 with brx := 255, sz := 3 }, .pref { fm0 with brx := 255, vd := 1 },
    .cpya { fm0 with brx := 255, fn := 1 }, .sample { fm0 with brx := 255 }, .sample { fm0 with va := 1 }, .atom { fa0 with fn := 12 },
    .atom { fa0 with sz := 3 }, .atom { fa0 with sz := 2 }, .atom { fa0 with vc := 1 }, .atom { fa0 with sz := 1, vd := 1 },
    .atom { fa0 with rsv := 1 }, .atoms { fa0 with sz := 1 }, .atoms { fa0 with tb := 2 }, .mloop { fe0 with f := 16 },
    .mloop { fe0 with f := 0x800000 }, .menq { fs0 with imm := 16 }, .temit { fs0 with ib := 1 }, .srd { fs0 with imm := 4096 },
    .swr { fs0 with sd := 1 }, .launch { fs0 with w := 1 }, .nq { fs0 with imm := 1 }, .rqxfer { fs0 with sd := 1 },
    .cbatch { fs0 with sa := 1 }, .cwait { fs0 with sd := 1 }, .xfence ⟨1, 0, 0⟩, .xtlrd ⟨0, 0, 1⟩, .xsemwr ⟨1, 0, 0⟩,
    .xtick ⟨0, 1, 0⟩] : List Instr).all (fun i => !WellFormed.ok i) = true := by decide

/-- R305, R327: the reserved words: an unassigned OPC, and an assigned one with an illegal field. -/
theorem test_words_refused :
    (Decode.wave 0x1F00000000000000).toOption = none ∧ (Decode.wave 0xFF00000000000000).toOption = none ∧
    (Decode.wave 0x0100000000000001).toOption = none ∧ (Decode.command 0x0000150000000000).toOption = none ∧
    (Decode.gaffer 0x0000700B).toOption.isSome = true ∧ (Decode.gaffer 0x08C5850B).toOption = none := by decide

/-! ## States that meet the hypotheses of the statements -/

/-- A fragment of all 32 lanes at its word. -/
def frag0 : Frag := { mask := 0xFFFFFFFF, pc := 0x4000 }
/-- A fragment of lane 0. -/
def frag1 : Frag := { frag0 with narrow := 1 }
/-- A wave of one fragment with 512 registers. -/
def wave0 : Wave := { group := 0, index := 0, frags := [(0, frag0)], made := 1, b0 := 0, g0 := 64 }
/-- A wave of a fragment of lane 0. -/
def wave1 : Wave := { wave0 with frags := [(0, frag1)] }
/-- A physical address in vault 0. -/
def pa0 : Nat := vaultBase + 0x10000
/-- Translation register 0 of `group0`: V, R, W, 4 KiB from virtual address 0x10000. -/
def trans0 : BitVec 192 := BitVec.ofNat 192 (0x10000 + pa0 * 2 ^ 64 + 2 ^ 120 + 2 ^ 121 + 2 ^ 122 + 4096 * 2 ^ 128)
/-- A group of one wave, with 1 KiB of scratch. -/
def group0 : Group :=
  { ctx := 0, part := 0, origin := .grid 0 1, launch := 0, groupId := 0, waves := [0], granules := [64], scratch := 1024,
    trans := [(0, trans0)] }
/-- Bench 0 with a wave of a group and nothing else. -/
def bench0 (w : Wave) (g : Group) : Bench := { waves := [(0, w)], groups := [(0, g)] }
/-- The cached leaf of the page that maps virtual address 0 up to the vaults. -/
def leaf0 : TlbEntry := { asid := 0, vpn := 0, pages := 2 ^ 27, pte := w64 (0xDF + vaultBase / 4096 * 2 ^ 10), level := 3 }
/-- The device with a bench 0, whose wave 0 has the turn, and the leaf of its page cached by every unit of bench 0. -/
def benchAt (x : Bench) : State :=
  let s := State.reset.placeWave 64 0
  { s with agenda := [], cur := .wave 0 0 0, benches := [(0, x)], tlbs := [(.bench 0, leaf0)] }
/-- The device with a wave of a group, which has the turn. -/
def waveAt (w : Wave) (g : Group) : State := benchAt (bench0 w g)
/-- Its fragment 0. -/
def cxAt (w : Wave) (g : Group) : Wcx := ⟨0, 0, 0, (w.frags.get? 0).getD frag0, w, g⟩

/-- The instruction of such a wave issues when no check refuses it. -/
theorem issues_at {x : Bench} {w : Wave} {g : Group} {i : WInfo} (h : (benchAt x).wcx = some (cxAt w g))
    (hw : (cxAt w g).f.wait = none) (hb : (cxAt w g).behind i = false) (hr : (cxAt w g).refuses i = false) :
    Issues (benchAt x) (cxAt w g) i := ⟨h, hw, hb, hr, rfl⟩

/-- An instruction issues in a state whose five conditions hold by computation. -/
theorem goes {s : State} {cx : Wcx} {i : WInfo} (turn : s.wcx = some cx := by rfl) (idle : cx.f.wait = none := by rfl)
    (order : cx.behind i = false := by rfl) (legal : cx.refuses i = false := by rfl) (clean : s.poisoned = [] := by rfl) :
    Issues s cx i := ⟨turn, idle, order, legal, clean⟩

/-- The device with the wave of one full fragment. -/
def s0 : State := waveAt wave0 group0
/-- Its fragment. -/
def c0 : Wcx := cxAt wave0 group0

theorem memOk0 : s0.MemOk := by unfold State.MemOk; decide

theorem test_witness_IntegerVectorInstructionsComplete : s0.MemOk ∧
    Issues s0 c0 (vrInfo { vr0 with vd := 511, va := 510, vb := 509 } true false) ∧
    Issues s0 c0 (vrInfo { vr0 with ty := 2, vd := 510, va := 508, vb := 506, vc := 504 } true true) ∧
    Issues s0 c0 (vrInfo { vr0 with ty := 1, vd := 0, ks := 4, va := 63 } false false) ∧
    Issues s0 c0 (viInfo { vi0 with vd := 511, imm := 0xFFFFFFFF }) ∧
    Issues s0 c0 { viInfo { vi0 with vd := 511 } with reads := [] } ∧
    Issues s0 c0 { vrInfo { vr0 with vd := 15 } true false with writes := [mReg 15] } ∧
    Issues s0 c0 { viInfo { vi0 with vd := 175 } with writes := [mReg 15] } ∧
    (let f : VR := { vr0 with ty := 4, fn := 7, vd := 15 }
     let r (l : Nat) : Bool × FFlags := floatCond f.fn.toNat
       (.decode (fmtOf f.ty.toNat) (negElems f.ty.toNat (f.na == 1) ((s0.srcA c0 f).getD l 0)))
       (.decode (fmtOf f.ty.toNat) ((s0.srcB c0 f).getD l 0))
     c0.trapLanes (fun l => if l < 32 then (r l).2 else 0) = 0) ∧
    Issues s0 c0 { vrInfo vr0 true false with reads := mReg 15 :: (vrInfo vr0 true false).reads } :=
  ⟨memOk0, goes, goes, goes, goes,
   goes, goes, goes, by decide +kernel,
   goes⟩

/-- Every instruction of a list issues in such a state when no check refuses it. -/
theorem issues_all {x : Bench} {w : Wave} {g : Group} (h : (benchAt x).wcx = some (cxAt w g)) (hw : (cxAt w g).f.wait = none)
    (is : List WInfo) (hi : is.all (fun i => !(cxAt w g).behind i && !(cxAt w g).refuses i) = true) :
    ∀ i ∈ is, Issues (benchAt x) (cxAt w g) i := by
  intro i m
  have hi := List.all_eq_true.mp hi i m
  simp only [Bool.and_eq_true, Bool.not_eq_true'] at hi
  exact ⟨h, hw, hi.1, hi.2, rfl⟩

/-- An outcome that is no error is some value. -/
theorem ok_of {α β : Type} {e : Except α β} (h : e.toOption.isSome = true) : ∃ b, e = .ok b := by
  cases e with
  | error a => cases h
  | ok b => exact ⟨b, rfl⟩

/-- A wave with no trap enabled meets the hypothesis of the floating-point statements whatever its lanes raise. -/
theorem no_traps (fl : Nat → Nat) : c0.trapLanes fl = 0 := by
  have h (l : Nat) : ((c0.f.exec &&& ~~~c0.w.helper).getLsbD l && (fl l &&& c0.w.fptrap.toNat) != 0) = false := by
    show (_ && (fl l &&& 0) != 0) = false
    simp
  unfold Wcx.trapLanes
  rw [funext h]
  rfl

/-- A wave whose traps are enabled and whose scalar 0 holds an F32 signalling NaN. -/
def waveT : Wave := { wave0 with fptrap := 31, s := [(0, 0x7F800001)] }

theorem test_witness_FloatVectorInstructionsComplete :
    s0.MemOk ∧ (∀ i ∈ [vrInfo { vr0 with ty := 4 } true false, vrInfo { vr0 with ty := 5, vd := 510, va := 508, vb := 506, vc := 504 } true true,
      vrInfo { vr0 with ty := 4, vd := 511, va := 511 } false false,
      { vrInfo { vr0 with ty := 4, fn := 2 } false false with writes := vRegs 510 2 }, viInfo { vi0 with ty := 4, vd := 511 }],
      Issues s0 c0 i) ∧ (∀ fl, c0.trapLanes fl = 0) ∧
    Issues (waveAt waveT group0) (cxAt waveT group0) (vrInfo { vr0 with ty := 4, ks := 6 } true false) ∧
    (let f : VR := { vr0 with ty := 4, ks := 6 }
     let lane (l : Nat) : FFlags := if l < 32 then (floatElems f.ty.toNat fun e =>
       faddEl (fmtOf f.ty.toNat) f.rm.toNat (elemOf f.ty.toNat (negElems f.ty.toNat (f.na == 1)
           (((waveAt waveT group0).srcA (cxAt waveT group0) f).getD l 0)) e)
         (elemOf f.ty.toNat (((waveAt waveT group0).srcB (cxAt waveT group0) f).getD l 0) e)).2 else 0
     (cxAt waveT group0).trapLanes lane ≠ 0) :=
  ⟨memOk0, issues_all rfl rfl _ (by decide), no_traps, goes, by decide +kernel⟩

theorem test_witness_ConversionAndDecodeComplete :
    s0.MemOk ∧ (∀ i ∈ [({ reads := vRegs 504 8, writes := vRegs 511 1 } : WInfo), { reads := [0], writes := [511, sReg 63, 1] },
      vrInfo { vr0 with ty := 12, ks := 2, vb := 63 } true false, { reads := [sReg 0], writes := [511, sReg 0], barred := true }],
      Issues s0 c0 i) ∧ (∀ fl, c0.trapLanes fl = 0) ∧
    (∀ fn ∈ [0, 1, 2, 3, 4],
      let v := Variant.ofFn fn
      let b := (c0.w.sreg 0).toNat % 2 ^ 40
      let c := decodeChunk v (s0.scratchBytes c0 (b / 8) 202) (b % 8)
      (v = .trit → b % 8 = 0) ∧ 8 * (b / 8) + c.next ≤ 8 * c0.g.scratch) :=
  ⟨memOk0, issues_all rfl rfl _ (by decide), no_traps, by decide +kernel⟩

theorem test_witness_CrossLaneInstructionsComplete :
    s0.MemOk ∧ (∀ i ∈ [viInfo { vi0 with vd := 511, imm := 0x1B }, vrInfo { vr0 with vd := 511 } true false,
      { vrInfo vr0 true false with writes := [sReg 63] }, { vrInfo vr0 false false with writes := [mReg 15] },
      { vrInfo vr0 false false with writes := [sReg 63] }, vrInfo { vr0 with vd := 511 } false false,
      { reads := maskReads 16 ++ maskReads 15, writes := [mReg 15] }, { writes := [mReg 15] },
      { reads := maskReads 16, writes := [sReg 63] }, { reads := maskReads 15, barred := true }], Issues s0 c0 i) ∧
    (let f : VR := vr0
     let acc (_ : Nat) : Nat := 0
     acc 0 = redIdentity 0 f.ty.toNat ∧
     ∀ j, j < 32 → acc (j + 1) = if c0.f.exec.getLsbD j && (f.fn.toNat / 8 = 1 || !c0.w.helper.getLsbD j)
       then (redStep 0 f.ty.toNat (acc j) ((s0.srcA c0 f).getD j 0)).1 else acc j) :=
  ⟨memOk0, issues_all rfl rfl _ (by decide), by decide +kernel⟩

theorem test_witness_ScalarInstructionsComplete :
    s0.MemOk ∧ (∀ i ∈ [({ reads := sReads { fs0 with sa := 63, sb := 63 }, writes := sReg 63 :: [sccReg] } : WInfo),
      { reads := sReads { fs0 with ib := 1, imm := 0xFFFFFFFF }, writes := sReg 0 :: [] },
      { reads := sReads { fs0 with sa := 63 }, writes := [sccReg] }, { reads := [sReg 63], writes := [sReg 63] },
      { reads := sccReg :: sReads fs0, writes := [sReg 63] }], Issues s0 c0 i) :=
  ⟨memOk0, issues_all rfl rfl _ (by decide)⟩

theorem test_witness_SpecialValuesReadAndWritten :
    s0.MemOk ∧ (∀ i ∈ [0x000, 0x013, 0x018, 0x019, 0x028, 0x031, 0x032, 0xFFF].flatMap fun n =>
      [({ reads := specialReg n, writes := [sReg 63] } : WInfo), { reads := [sReg 63], writes := specialReg n }], Issues s0 c0 i) :=
  ⟨memOk0, issues_all rfl rfl _ (by decide)⟩

/-- A wave of a fragment with no lane in EXEC. -/
def waveN : Wave := { wave0 with frags := [(0, { frag0 with narrow := 0 })] }
/-- A wave whose scalar 1 holds a target that is not aligned, and scalar 2 one that is. -/
def waveJ : Wave := { wave0 with s := [(1, 4), (2, 0xFFFFFFFFFFFFFFF8)] }
/-- The device with another target in lane 1 of registers 2 and 3. -/
def sLanes : State := { s0 with mem := Mem.write s0.mem (storePa 0 (wave0.rowAddr 2) + 4) [8] }

theorem test_witness_UniformControlFlowCompletes :
    s0.MemOk ∧ (∀ i ∈ [({} : WInfo), { reads := condReads { fc0 with cnd := 11, sa := 63 } },
      { reads := condReads fc0 ++ targetReads { fc0 with fn := 2, off := 510 } },
      { reads := targetReads { fc0 with fn := 1, off := 63 }, writes := [sReg 62] }, { reads := sReg 62 :: [mReg 15] }],
      Issues s0 c0 i) ∧
    c0.cond 0 0 0 = true ∧ c0.cond 1 0 0 = false ∧
    -- the three targets, aligned and not
    (c0.f.pc + 8 * (0x80000000 : W32).signExtend 64).toNat % 8 = 0 ∧
    ((cxAt waveJ group0).w.sreg 2).toNat % 8 = 0 ∧ ((cxAt waveJ group0).w.sreg 1).toNat % 8 ≠ 0 ∧
    Issues (waveAt waveJ group0) (cxAt waveJ group0) { reads := targetReads { fc0 with fn := 1, off := 1 } } ∧
    c0.f.exec ≠ 0 ∧ (∀ l, l < 32 → c0.f.exec.getLsbD l = true → (s0.readPair c0 2).getD l 0 = (0 : W64).toNat) ∧
    -- a target that differs in lane 1
    sLanes.MemOk ∧ Issues sLanes c0 { reads := condReads fc0 ++ targetReads { fc0 with fn := 2, off := 2 } } ∧
    (maskOf fun l => c0.f.exec.getLsbD l && (sLanes.readPair c0 2).getD l 0 != (sLanes.readPair c0 2).getD 0 0) ≠ 0 ∧
    -- EXEC = 0
    (cxAt waveN group0).f.exec = 0 ∧ Issues (waveAt waveN group0) (cxAt waveN group0)
      { reads := condReads fc0 ++ targetReads { fc0 with fn := 2, off := 2 } } :=
  ⟨memOk0, issues_all rfl rfl _ (by decide), rfl, rfl, by decide, by decide, by decide, goes, by decide,
   by decide +kernel, by unfold State.MemOk; decide +kernel, goes, by decide +kernel, by decide,
   goes⟩

/-- A wave whose mask register 1 names lane 0. -/
def waveM : Wave := { wave0 with m := [(1, 1)] }
/-- A child of lane 0 at its join, and its waiting parent: another child has arrived. -/
def waveC : Wave :=
  { wave0 with frags := [(0, { frag0 with mask := 1, rc := 0x4000, link := some 1 }),
                         (1, { frag0 with waiting := true, pend := 1, arrive := 2 })], made := 2 }
/-- A wave in its handler. -/
def waveH : Wave :=
  { wave0 with frags := [(0, { frag0 with handler := true }), (1, { frag0 with susp := true })], frame := 0x8000 }

theorem test_witness_DivergenceSplitsAndFuses :
    (waveAt waveM group0).MemOk ∧
    -- BRS: every lane, no lane, one lane
    Issues (waveAt waveM group0) (cxAt waveM group0) { reads := [mReg 1], barred := true } ∧
    (let m := (cxAt waveM group0).w.mreg 1
     frag0.mask &&& (wave0.mreg 0 ^^^ 0xFFFFFFFF) = frag0.mask ∧ frag0.mask &&& wave0.mreg 0 = 0 ∧ frag0.mask ≠ 0 ∧
     frag0.mask &&& m ≠ 0 ∧ frag0.mask &&& ~~~(frag0.mask &&& m) ≠ 0) ∧
    (waveM.frags.filter fun p => p.2.onChip).length ≤ 13 ∧
    (∀ e, e ≤ 2 → (waveM.frags.get? e = none ↔ e = 1 ∨ e = 2)) ∧
    -- JOIN and EXIT: with no parent, and with one that waits for its last child
    (waveAt waveC group0).MemOk ∧ Issues (waveAt waveC group0) (cxAt waveC group0) { barred := true } ∧
    c0.f.link = none ∧ (cxAt waveC group0).f.link = some 1 ∧ (cxAt waveC group0).f.rc = (cxAt waveC group0).f.pc ∧
    (∃ q, waveC.frags.get? 1 = some q ∧ q.onChip = true ∧ q.pend = 1 ∧ q.arrive ≠ 0 ∧
      q.arrive ||| (cxAt waveC group0).f.mask ≠ 0) ∧
    -- EXIT: in a handler, not taken, of some lanes, of all
    Issues (waveAt waveH group0) (cxAt waveH group0) { reads := condReads fc0, barred := true } ∧ waveH.inHandler = true ∧
    wave0.inHandler = false ∧ c0.cond 1 0 0 = false ∧ c0.cond 0 0 0 = true ∧ frag1.mask &&& ~~~(frag1.mask &&& frag1.narrow) ≠ 0 ∧
    Issues (waveAt wave1 group0) (cxAt wave1 group0) { reads := condReads fc0, barred := true } ∧
    frag0.mask &&& ~~~(frag0.mask &&& frag0.narrow) = 0 :=
  ⟨memOk0, goes, by decide, by decide, by decide, memOk0, goes, rfl, rfl, rfl,
   ⟨_, rfl, rfl, rfl, by decide, by decide⟩, goes, rfl, rfl, rfl, rfl, by decide,
   goes, by decide⟩

theorem test_witness_BarriersAndSleepPark :
    s0.MemOk ∧ (∀ i ∈ [({ barred := true } : WInfo), { reads := condReads { fc0 with cnd := 11, sa := 63 }, barred := true }], Issues s0 c0 i) ∧
    c0.w.inHandler = false ∧ c0.cond 0 0 0 = true ∧ c0.cond 12 63 0 = false ∧
    Issues (waveAt waveH group0) (cxAt waveH group0) { barred := true } ∧ waveH.inHandler = true :=
  ⟨memOk0, issues_all rfl rfl _ (by decide), rfl, rfl, by decide, goes, rfl⟩

/-- Bench 0 with that wave and the line of its frame. -/
def benchH : Bench :=
  { bench0 waveH group0 with lines := [{ line := vaultBase / 256 + 128, granule := 65, filled := [0, 1, 2, 3] }] }

theorem test_witness_TrapsTakenAndInterruptReturns :
    s0.MemOk ∧ Issues s0 c0 { reads := condReads fc0, barred := true } ∧ c0.cond 0 0 0 = true ∧ c0.cond 1 0 0 = false ∧
    c0.f.handler = false ∧ Issues (benchAt benchH) (cxAt waveH group0) { barred := true } ∧
    (cxAt waveH group0).f.handler = true ∧ (cxAt waveH group0).f.waiting = false ∧
    ∃ r, (benchAt benchH).readFrame (cxAt waveH group0) = .ok r ∧ r.2.waits = false := by
  have h : ((benchAt benchH).readFrame (cxAt waveH group0)).toOption.any (fun r => !r.2.waits) = true := by decide +kernel
  refine ⟨memOk0, goes, rfl, rfl, rfl, goes, rfl, rfl, ?_⟩
  cases hr : (benchAt benchH).readFrame (cxAt waveH group0) with
  | error e => rw [hr] at h; cases h
  | ok r => rw [hr] at h; exact ⟨r, rfl, by simpa [Except.toOption] using h⟩

/-- An outcome that is this value, as a Bool. -/
def gives {ε α : Type} [DecidableEq α] (e : Except ε α) (v : α) : Bool :=
  match e with
  | .ok r => decide (r = v)
  | .error _ => false

theorem of_gives {ε α : Type} [DecidableEq α] {e : Except ε α} {v : α} (h : gives e v = true) : e = .ok v := by
  cases e with
  | error a => cases h
  | ok b => exact congrArg _ (of_decide_eq_true h)

theorem err_of {α β : Type} {e : Except α β} (h : e.toOption.isSome = false) : ∃ a, e = .error a := by
  cases e with
  | error a => exact ⟨a, rfl⟩
  | ok b => cases h

theorem some_of {α : Type} {o : Option α} (h : o.isSome = true) : ∃ a, o = some a := Option.isSome_iff_exists.mp h

/-- The accesses of a piece of vault 0. -/
def piece0 (va n : Nat) : Piece := { va := va, pa := vaultBase + va, n := n }
/-- The device with a wave of one lane. -/
def s1 : State := waveAt wave1 group0
/-- Its fragment. -/
def c1 : Wcx := cxAt wave1 group0
/-- A line of the L1 with every sector filled. -/
def line0 : Line := { line := vaultBase / 256, granule := 65, filled := [0, 1, 2, 3] }
/-- Bench 0 with such a line. -/
def benchL : Bench := { bench0 wave1 group0 with lines := [line0] }

theorem only_lane0 {l : Nat} (h : c1.f.exec.getLsbD l = true) : l = 0 := by
  have h : (1#32).getLsbD l = true := h
  simpa using h


theorem memOk1 : s1.MemOk := memOk0

theorem local0 {n : Nat} (h : n ≤ 128) : LocalPiece s1 c1 (piece0 0x10000 n) :=
  ⟨.inr ⟨0, (by decide +kernel : s1.place (vaultBase + 0x10000) = .vault 0)⟩, (by decide +kernel : ∀ n, n ≤ 128 → s1.reachAll 0 (vaultBase + 0x10000) n = none) n h⟩

theorem noRequest {s : State} {cx : Wcx} (c : cx.f.codes = [] := by rfl) (h : s.dev.fabric.remotes = [] := by rfl) : NoRequest s cx :=
  ⟨c, fun r m => by rw [h] at m; exact nomatch m⟩

/-- A strong access by translation register 0, of 2 ^ SZ bytes. -/
def fmT (sz : BitVec 3) : FM := { fm0 with brx := 255, sz := sz, st := 1 }

/-- One piece that is read. -/
theorem givesOne {s : State} {cx : Wcx} {ch : Nat} {strong : Bool} {p : Piece} {bs : List Byte} (h : Gives s cx ch strong p bs) :
    GivesAll s cx ch strong [p] bs := ⟨fun _ => bs, by simpa using h, by simp⟩

/-- Pieces that a streaming access reads past an L1 with no line. -/
theorem givesAll {s : State} {cx : Wcx} {ps : List Piece} (hl : (s.bench cx.b).lines = []) (h : ∀ p ∈ ps, LocalPiece s cx p) :
    GivesAll s cx 2 false ps (ps.flatMap fun p => Mem.read s.mem (p.pa % 2 ^ 44) p.n) :=
  ⟨_, fun p hp => ⟨h p hp, .inl ⟨hl, .inr (.inr (.inr rfl)), rfl⟩⟩, rfl⟩

/-- A piece of vault 0 that bench 0 reaches, as a Bool. -/
def isLocal (s : State) (p : Piece) : Bool := s.place p.pa == .vault 0 && (s.reachAll 0 p.pa p.n).isNone

theorem isLocal_of {s : State} {cx : Wcx} {p : Piece} (hb : dieOf cx.b = 0) (h : isLocal s p = true) : LocalPiece s cx p := by
  simp only [isLocal, Bool.and_eq_true, beq_iff_eq, Option.isNone_iff_eq_none] at h
  exact ⟨.inr ⟨0, h.1⟩, by rw [hb]; exact h.2⟩

/-- The device with 0x10FFE, two bytes before the end of a page, in lane 0 of the pair of registers 0 and 1. -/
def sTwo : State := { s1 with mem := Mem.write s1.mem (storePa 0 (wave1.rowAddr 0)) [0xFE, 0x0F, 1] }
/-- A streaming access of 4 bytes by that address. -/
def fmTwo : FM := { fm0 with am := 1, brx := 255, sz := 2, ch := 2 }
/-- Its two pieces. -/
def twoPieces : List Piece := [{ piece0 0x10FFE 2 with pa := pa0 + 0xFFE }, { piece0 0x11000 2 with pa := pa0 + 0x1000 }]
/-- A buffer record of one F32 texel at virtual address 0x10000. -/
def rec0 : BitVec 320 := BitVec.ofNat 320 (0x10000 + 2 ^ 128 + 2 ^ 160 + 2 ^ 256)
/-- The same with OOB = FAULT, and an encoding that ST refuses. -/
def groupB : Group :=
  { group0 with brn := 3, brecs := [(0, rec0), (1, rec0 ||| (3#320 <<< 266)), (2, rec0 + (8#320 <<< 256))] }
/-- Lane 0 of its wave. -/
def cB : Wcx := { c1 with g := groupB }
/-- The device with that group. -/
def sB : State := waveAt wave1 groupB
/-- A streaming access of 4 bytes through record `n`, at index `off`. -/
def fmB (n : BitVec 8) (off : BitVec 10) : FM := { fm0 with brx := n, sz := 2, ch := 2, off := off }

theorem recAccs {a : Nat × Nat} (h : a ∈ brAccs rec0 4 0) : a = (0x10000, 4) := by
  rw [(by decide +kernel : brAccs rec0 4 0 = [(0x10000, 4)])] at h
  simpa using h

/-- Strong loads of 1 and of 16 bytes, a weak one of 4 by an address that hits a filled sector of the L1, one over two pages, and
loads through a buffer record: inside, outside, under OOB = FAULT, and refused. -/
theorem test_witness_LoadsComplete : s1.MemOk ∧ NoRequest s1 c1 ∧
    (∀ sz ∈ [(0 : BitVec 3), 4], ∃ p bs, Issues s1 c1 { reads := fmAddr (fmT sz), writes := vRegs 508 (szRegsOf sz.toNat), barred := true } ∧
      (∀ l, c1.f.exec.getLsbD l = true → s1.lanePieces c1 (fmT sz) l true .read = .ok ([p], s1) ∧ GivesAll s1 c1 0 true [p] bs)) ∧
    (let f : FM := { fm0 with am := 1, brx := 255, sz := 2 }
     ∃ p bs, (benchAt benchL).MemOk ∧ Issues (benchAt benchL) c1 { reads := fmAddr f, writes := vRegs 508 1 } ∧
       (∀ l, c1.f.exec.getLsbD l = true →
         (benchAt benchL).lanePieces c1 f l false .read = .ok ([p], benchAt benchL) ∧ GivesAll (benchAt benchL) c1 0 false [p] bs)) ∧
    (sTwo.MemOk ∧ Issues sTwo c1 { reads := fmAddr fmTwo, writes := vRegs 508 1 } ∧ ∃ bs, ∀ l, c1.f.exec.getLsbD l = true →
      sTwo.lanePieces c1 fmTwo l false .read = .ok (twoPieces, sTwo) ∧ GivesAll sTwo c1 2 false twoPieces bs) := by
  refine ⟨memOk1, noRequest, ?_, ?_, ?_⟩
  · have one (sz : BitVec 3) (n : Nat) (hn : n ≤ 128) (hi : Issues s1 c1 { reads := fmAddr (fmT sz), writes := vRegs 508 (szRegsOf sz.toNat), barred := true })
        (h : gives (s1.lanePieces c1 (fmT sz) 0 true .read) ([piece0 0x10000 n], s1) = true) :
        ∃ p bs, Issues s1 c1 { reads := fmAddr (fmT sz), writes := vRegs 508 (szRegsOf sz.toNat), barred := true } ∧
          (∀ l, c1.f.exec.getLsbD l = true → s1.lanePieces c1 (fmT sz) l true .read = .ok ([p], s1) ∧ GivesAll s1 c1 0 true [p] bs) := by
      refine ⟨piece0 0x10000 n, Mem.read s1.mem ((piece0 0x10000 n).pa % 2 ^ 44) n, hi, fun l hl => ?_⟩
      cases only_lane0 hl
      exact ⟨of_gives h, givesOne ⟨local0 hn, .inl ⟨rfl, .inl rfl, rfl⟩⟩⟩
    simp only [List.mem_cons, List.not_mem_nil, or_false, forall_eq_or_imp, forall_eq]
    exact ⟨one 0 1 (by decide) goes (by decide +kernel), one 4 16 (by decide) goes (by decide +kernel)⟩
  · refine ⟨piece0 0 4, [0, 0, 0, 0], memOk1, goes, fun l hl => ?_⟩
    cases only_lane0 hl
    refine ⟨of_gives (by decide +kernel), givesOne ⟨⟨.inr ⟨0, by decide +kernel⟩, by decide +kernel⟩,
      .inr ⟨rfl, by decide, rfl, rfl, by decide +kernel, line0, ?_⟩⟩⟩
    and_intros <;> decide +kernel
  · refine ⟨by unfold State.MemOk; decide +kernel, goes, twoPieces.flatMap fun p => Mem.read sTwo.mem (p.pa % 2 ^ 44) p.n, fun l hl => ?_⟩
    cases only_lane0 hl
    exact ⟨of_gives (by decide +kernel), givesAll rfl fun p hp =>
      isLocal_of rfl ((by decide +kernel : ∀ p ∈ twoPieces, isLocal sTwo p = true) p hp)⟩

theorem test_witness_LoadsComplete_records : sB.MemOk ∧ NoRequest sB cB ∧
    (∀ off, Issues sB cB { reads := fmAddr (fmB 0 off), writes := vRegs 508 1 } ∧
      Issues sB cB { reads := fmAddr (fmB 1 off), writes := vRegs 508 1 }) ∧
    cB.record 0 = some rec0 ∧ brEnc rec0 ≠ 0 ∧ 4 = 4 * brNc rec0 ∧ 8 ≠ 4 * brNc rec0 ∧ cB.record 3 = none ∧
    -- index 0, inside; index −1 under ZERO, which no access follows
    (∀ l, cB.f.exec.getLsbD l = true → ((sB.readV cB 0).getD l 0 : Int) + (0 : BitVec 10).toInt = 0 ∧
      ∀ a ∈ brAccs rec0 4 0, sB.vaPieces cB a.1 a.2 false .read = .ok ([piece0 0x10000 4], sB) ∧
        ∃ bs, GivesAll sB cB 2 false [piece0 0x10000 4] bs) ∧
    ((sB.readV cB 0).getD 0 0 : Int) + (0x3FF : BitVec 10).toInt = -1 ∧ brF rec0 267 266 = 0 ∧
    -- OOB = FAULT
    cB.f.exec = 1#32 <<< 0 ∧ cB.w.helper = 0 ∧ (∃ r, cB.record 1 = some r ∧ brF r 267 266 = 3 ∧ brEnc r ≠ 0 ∧ 4 = 4 * brNc r ∧ brNx r = 1) := by
  refine ⟨memOk1, noRequest, fun off => ⟨goes, goes⟩, ?_, ?_, ?_, ?_, rfl, fun l hl => ?_, ?_, ?_, by decide, rfl, ⟨rec0 ||| (3#320 <<< 266), ?_⟩⟩
  case refine_5 =>
    cases only_lane0 hl
    refine ⟨by decide +kernel, fun a ha => ?_⟩
    cases recAccs ha
    exact ⟨of_gives (by decide +kernel), _, givesAll rfl fun p hp => by
      cases List.mem_singleton.mp hp
      exact isLocal_of rfl (by decide +kernel)⟩
  all_goals decide +kernel

/-- Strong stores of 1 and of 16 bytes, one over two pages, and stores through a buffer record. -/
theorem test_witness_StoresComplete : s1.MemOk ∧ NoRequest s1 c1 ∧
    (∀ sz ∈ [(0 : BitVec 3), 4],
      Issues s1 c1 { reads := fmAddr (fmT sz) ++ vRegs 508 (szRegsOf sz.toNat), barred := true } ∧
      ∀ l ∈ lanesOf (c1.f.exec &&& ~~~c1.w.helper), s1.lanePieces c1 (fmT sz) l true .write = .ok ([piece0 0x10000 (2 ^ sz.toNat)], s1) ∧
        ([piece0 0x10000 (2 ^ sz.toNat)].map (·.n)).sum = 2 ^ sz.toNat ∧ Takes s1 c1 0 true (piece0 0x10000 (2 ^ sz.toNat))) ∧
    (sTwo.MemOk ∧ Issues sTwo c1 { reads := fmAddr fmTwo ++ vRegs 508 1 } ∧ (twoPieces.map (·.n)).sum = 4 ∧
      ∀ l ∈ lanesOf (c1.f.exec &&& ~~~c1.w.helper), sTwo.lanePieces c1 fmTwo l false .write = .ok (twoPieces, sTwo) ∧
        ∀ q ∈ twoPieces, Takes sTwo c1 2 false q) ∧
    -- through a record: inside, outside, refused
    (sB.MemOk ∧ NoRequest sB cB ∧ Issues sB cB { reads := fmAddr (fmB 0 0) ++ vRegs 508 1 } ∧ cB.record 0 = some rec0 ∧ brEnc rec0 < 9 ∧
      4 = 4 * brNc rec0 ∧ brF rec0 267 266 ≠ 3 ∧ (∃ r, cB.record 2 = some r ∧ 9 ≤ brEnc r) ∧ cB.record 3 = none ∧
      ∀ l ∈ lanesOf (cB.f.exec &&& ~~~cB.w.helper), ((sB.readV cB 0).getD l 0 : Int) = 0 ∧
        ∀ a ∈ brAccs rec0 4 0, sB.vaPieces cB a.1 a.2 false .write = .ok ([piece0 0x10000 4], sB) ∧
          ([piece0 0x10000 4].map (·.n)).sum = a.2 ∧ Takes sB cB 2 false (piece0 0x10000 4)) := by
  have h : lanesOf (c1.f.exec &&& ~~~c1.w.helper) = [0] := by decide +kernel
  have hB : lanesOf (cB.f.exec &&& ~~~cB.w.helper) = [0] := by decide +kernel
  refine ⟨memOk1, noRequest, ?_, ⟨by unfold State.MemOk; decide +kernel, goes, rfl, ?_⟩, memOk1, noRequest, goes, by decide +kernel,
    by decide +kernel, by decide +kernel, by decide +kernel, ⟨rec0 + (8#320 <<< 256), by decide +kernel⟩, rfl, ?_⟩
  · simp only [h, List.mem_cons, List.not_mem_nil, or_false, forall_eq_or_imp, forall_eq]
    exact ⟨⟨goes, of_gives (by decide +kernel), rfl, local0 (by decide), rfl, .inl rfl⟩,
      ⟨goes, of_gives (by decide +kernel), rfl, local0 (by decide), rfl, .inl rfl⟩⟩
  · simp only [h, List.mem_cons, List.not_mem_nil, or_false, forall_eq]
    exact ⟨of_gives (by decide +kernel), fun q hq =>
      ⟨isLocal_of rfl ((by decide +kernel : ∀ p ∈ twoPieces, isLocal sTwo p = true) q hq), rfl, .inr (.inr (.inr rfl))⟩⟩
  · simp only [hB, List.mem_cons, List.not_mem_nil, or_false, forall_eq]
    refine ⟨by decide +kernel, fun a ha => ?_⟩
    cases recAccs ha
    exact ⟨of_gives (by decide +kernel), rfl, isLocal_of rfl (by decide +kernel), rfl, .inr (.inr (.inr rfl))⟩

/-- The device with HWMP = 1 in the descriptor of context 0. -/
def sHwm : State := { s1 with mem := Mem.write s1.mem (vaultBase + 17) [1] }
/-- The device whose leaf has A and D clear. -/
def sClean : State := { s1 with mem := Mem.write s1.mem (vaultBase + 0x2000) [0x1F] }
/-- A group whose translation register 1 starts where its wave's region is past HWM, and register 2 has no permission. -/
def groupX : Group :=
  { group0 with trans := [(0, trans0), (1, BitVec.ofNat 192 (trans0.toNat - 0xF000)), (2, BitVec.ofNat 192 (trans0.toNat - 2 ^ 121 - 2 ^ 122))] }
/-- Its fragment. -/
def cX : Wcx := { c1 with g := groupX }

theorem test_witness_TranslationRegistersFillAndTranslate :
    -- valid, its LIMIT up to the last byte, and no region of the wave's own
    (trans0.getLsbD 120 = true ∧ 4080 + 16 ≤ (trans0.extractLsb' 128 32).toNat ∧
      privGrow (s1.desc 0) 0 0 (0x10000 + 4080) 16 = none ∧ trans0.getLsbD 121 = true ∧ trans0.getLsbD 122 = true) ∧
    -- its region past HWM
    (∃ top, privGrow (sHwm.desc cX.g.ctx) 0 0 0x1000 1 = some top ∧ (groupX.trans.get 1 0).getLsbD 120 = true ∧
      ((groupX.trans.get 1 0).extractLsb' 0 64).toNat = 0x1000) ∧
    -- strong and not aligned; no permission
    (0x10000 + 1) % 2 ≠ 0 ∧ (groupX.trans.get 2 0).getLsbD 120 = true ∧ (groupX.trans.get 2 0).getLsbD 121 = false ∧
    (groupX.trans.get 2 0).getLsbD 122 = false ∧
    -- SXLAT, of an address with a walk and of one with none
    s1.MemOk ∧ Issues s1 c1 { reads := sReads fs0, writes := [bReg 15] } ∧ canonical (2 ^ 56) = false ∧
    (∃ k, s1.walk 0 (2 ^ 50) 5 (s1.desc 0).root = .error k) ∧
    -- a leaf whose A and D stand, and one without them
    (canonical 0x10000 = true ∧ ∃ pa lv n, s1.walk 0 0x10000 5 (s1.desc 0).root = .ok (leaf0.pte.toNat, pa, lv) ∧
      leafPages lv false (ptePpn leaf0.pte.toNat) = some n ∧ s1.place (ptePpn leaf0.pte.toNat / n * n * 4096 + 0x10000) ≠ .nowhere ∧
      leaf0.pte.toNat ||| 64 ||| 128 = leaf0.pte.toNat) ∧
    (∃ pte pa lv u, sClean.walk 0 0x10000 5 (sClean.desc 0).root = .ok (pte, pa, lv) ∧ pte ||| 64 ||| 128 ≠ pte ∧
      sClean.setAD pa (pte ||| 64 ||| 128) = .ok u) := by
  refine ⟨?_, (let ⟨x, h⟩ := some_of (by decide +kernel); ⟨x, h, ?_⟩), by decide, ?_, ?_, ?_, memOk1, goes, ?_,
    err_of (by decide +kernel), ⟨by decide +kernel, vaultBase + 0x2000, 3, 2 ^ 27, of_gives (by decide +kernel), ?_⟩,
    0x1F + vaultBase / 4096 * 2 ^ 10, vaultBase + 0x2000, 3, _, of_gives (by decide +kernel), by decide +kernel, rfl⟩
  all_goals decide +kernel

/-- Scratch accesses of the last 4 bytes of group scratch, of a register row, and of a shared granule. -/
def fmS (fn : BitVec 3) (off : BitVec 10) : FM := { fm0 with brx := 255, sz := 2, fn := fn, off := off }
/-- Bench 0 with a shared granule 0. -/
def benchK : Bench := { bench0 wave1 group0 with regionMap := [(0, granuleWord 3 0 0 0)] }
/-- The device with 1 in lane 0 of register 0. -/
def sOdd : State := { s1 with mem := Mem.write s1.mem (storePa 0 (wave1.rowAddr 0)) [1] }
/-- The device with 0x400000 there, past register and bench space. -/
def sFar : State := { s1 with mem := Mem.write s1.mem (storePa 0 (wave1.rowAddr 0)) [0, 0, 0x40] }
/-- Bench 0 with a shared granule 0 of partition 1. -/
def benchP : Bench := { bench0 wave1 group0 with regionMap := [(0, granuleWord 3 0 1 0)] }

theorem test_witness_ScratchAccessesComplete : s1.MemOk ∧
    (∀ fn ∈ [(0 : BitVec 3), 2, 4], ∀ i ∈ [
        ({ reads := [0], writes := vRegs 511 (szRegsOf 2), rows := if fn = 2 then (lanesOf c1.f.exec).map fun _ => 128 else [] } : WInfo),
        { reads := 0 :: vRegs 511 (szRegsOf 2), barred := decide (fn = 2) }], Issues (benchAt benchK) c1 i) ∧
    (∀ l, c1.f.exec.getLsbD l = true →
      let a (f : FM) : Nat := wrap 32 ((s1.readV c1 0).getD l 0 + f.off.toInt * 4)
      (a (fmS 0 255) % 4 = 0 ∧ a (fmS 0 255) + 4 ≤ c1.g.scratch) ∧ (a (fmS 2 128) % 4 = 0 ∧ a (fmS 2 128) / 128 < c1.w.regs) ∧
      (a (fmS 4 0) < 0x400000 ∧ ((benchAt benchK).bench 0).kind (a (fmS 4 0) / 1024) = 3 ∧
        ((benchAt benchK).bench 0).gpart (a (fmS 4 0) / 1024) = c1.g.part)) ∧
    -- ALIGN and PERM
    c1.f.exec = 1#32 <<< 0 ∧ c1.w.helper = 0 ∧ Issues sOdd c1 { reads := [0], writes := vRegs 511 1 } ∧
    wrap 32 ((sOdd.readV c1 0).getD 0 0 + (fmS 0 0).off.toInt * 4) % 4 ≠ 0 ∧
    (wrap 32 ((s1.readV c1 0).getD 0 0 + (fmS 0 256).off.toInt * 4) % 4 = 0 ∧
      c1.g.scratch < wrap 32 ((s1.readV c1 0).getD 0 0 + (fmS 0 256).off.toInt * 4) + 4) ∧
    (∀ i ∈ [({ reads := [0], writes := vRegs 511 1 } : WInfo), { reads := 0 :: vRegs 511 1 },
      { reads := 0 :: vRegs 511 1, barred := true }], Issues sFar c1 i) ∧
    (let a := wrap 32 ((sFar.readV c1 0).getD 0 0 + (fmS 2 0).off.toInt * 4)
     a % 4 = 0 ∧ c1.w.regs ≤ a / 128 ∧ 0x400000 ≤ a) ∧
    (s1.bench 0).kind 0 ≠ 3 ∧ ((benchAt benchP).bench 0).kind 0 = 3 ∧ ((benchAt benchP).bench 0).gpart 0 ≠ c1.g.part ∧
    wrap 32 ((s1.readV c1 0).getD 0 0 + (fmS 4 0).off.toInt * 4) = 0 := by
  refine ⟨memOk1, ?_, fun l hl => ?_, by decide, rfl, goes, by decide +kernel, by decide +kernel, ?_, by decide +kernel, by decide,
    by decide, by decide, by decide +kernel⟩
  · simp only [List.mem_cons, List.not_mem_nil, or_false, forall_eq_or_imp, forall_eq]
    exact ⟨⟨goes, goes⟩, ⟨goes, goes⟩,
      ⟨goes, goes⟩⟩
  · cases only_lane0 hl
    decide +kernel
  · simp only [List.mem_cons, List.not_mem_nil, or_false, forall_eq_or_imp, forall_eq]
    exact ⟨goes, goes, goes⟩

theorem test_witness_TransposePrefetchAndSampleComplete : s1.MemOk ∧
    (∀ i ∈ [({ reads := [sReg 15], writes := vRegs 510 2 } : WInfo), { reads := fmAddr fm0 }], Issues s1 c1 i) ∧
    (∀ n ∈ [1, 2, 4], (c1.w.sreg 15).toNat % 2 ^ 32 % (4 * n) = 0 ∧ (c1.w.sreg 15).toNat / 2 ^ 32 % (4 * n) = 0 ∧
      (c1.w.sreg 15).toNat % 2 ^ 32 + 15 * ((c1.w.sreg 15).toNat / 2 ^ 32) + 4 * n ≤ c1.g.scratch) ∧
    -- SAMPLE
    Issues sB cB { reads := vRegs 510 2 } ∧ NoRequest sB cB ∧ cB.record 0 = some rec0 ∧
    1 ≤ brEnc rec0 ∧ brEnc rec0 ≤ 8 ∧ 511 % brNc rec0 = 0 ∧ 511 + brNc rec0 ≤ cB.w.regs ∧ cB.f.win.left = 0 ∧
    (let taps := [(1, [(0x10000, 4)])]
     ∀ l, cB.f.exec.getLsbD l = true →
      tapAccs rec0 (sampleTaps rec0 (f32Val (w32 ((sB.readV cB 510).getD l 0)))
        (f32Val (w32 ((sB.readV cB 511).getD l 0)))) = .ok taps ∧
      ∀ a ∈ taps.flatMap (·.2), sB.vaPieces cB a.1 a.2 false .read = .ok ([piece0 0x10000 4], sB) ∧
        ∃ bs, Gives sB cB 2 false (piece0 0x10000 4) bs) := by
  refine ⟨memOk1, ?_, by decide, goes, noRequest, by decide +kernel, by decide +kernel, by decide +kernel, by decide, by decide +kernel, rfl, ?_⟩
  · simp only [List.mem_cons, List.not_mem_nil, or_false, forall_eq_or_imp, forall_eq]
    exact ⟨goes, goes⟩
  · intro taps l hl
    cases only_lane0 hl
    refine ⟨of_gives (by decide +kernel), ?_⟩
    simp only [taps, List.flatMap_cons, List.flatMap_nil, List.append_nil, List.mem_cons, List.not_mem_nil, or_false, forall_eq]
    exact ⟨of_gives (by decide +kernel), _, ⟨.inr ⟨0, by decide +kernel⟩, by decide +kernel⟩, .inl ⟨rfl, .inr (.inr (.inr rfl)), rfl⟩⟩

theorem test_witness_ScalarAccessesComplete : s1.MemOk ∧ NoRequest s1 c1 ∧
    (∀ i ∈ [({ reads := [sReg 63], writes := [sReg 62], barred := true } : WInfo), { reads := [sReg 63, sReg 62], barred := true }], Issues s1 c1 i) ∧
    (c1.w.sreg 63 + (0x10000 : W32).signExtend 64).toNat = 0x10000 ∧ 0x10000 % 8 = 0 ∧
    s1.vaPieces c1 0x10000 8 true .read = .ok ([piece0 0x10000 8], s1) ∧ (∃ bs, Gives s1 c1 0 true (piece0 0x10000 8) bs) ∧
    s1.vaPieces c1 0x10000 8 true .write = .ok ([piece0 0x10000 8], s1) ∧ Takes s1 c1 0 true (piece0 0x10000 8) ∧
    (s1.bench c1.b).lines = [] ∧ (c1.w.sreg 63 + (0xFFFFFFFF : W32).signExtend 64).toNat % 2 ≠ 0 := by
  refine ⟨memOk1, noRequest, ?_, by decide, by decide, of_gives (by decide +kernel),
    ⟨_, local0 (by decide), .inl ⟨rfl, .inl rfl, rfl⟩⟩, of_gives (by decide +kernel), ⟨local0 (by decide), rfl, .inl rfl⟩, rfl, by decide⟩
  simp only [List.mem_cons, List.not_mem_nil, or_false, forall_eq_or_imp, forall_eq]
  exact ⟨goes, goes⟩

/-- The wave of lane 0 with a sibling fragment, of lane 1, whose atomic the gate holds. -/
def waveG : Wave := { wave1 with frags := [(0, frag1), (1, { frag0 with mask := 2, wait := some .gate })] }
/-- Its fragment 0. -/
def cG : Wcx := cxAt waveG group0

theorem test_witness_AtomicsComplete : s1.MemOk ∧
    -- ATOMS: scratch and a shared granule
    (∀ i ∈ [({ reads := 0 :: 1 :: [2], writes := [511], barred := true } : WInfo)], Issues (benchAt benchK) c1 i) ∧
    (∀ l ∈ lanesOf (c1.f.exec &&& ~~~c1.w.helper), let a := (s1.readV c1 0).getD l 0
      a % 4 = 0 ∧ a + 4 ≤ c1.g.scratch ∧ a < 0x400000 ∧ ((benchAt benchK).bench 0).kind (a / 1024) = 3 ∧
        ((benchAt benchK).bench 0).gpart (a / 1024) = c1.g.part) ∧
    -- ATOM by translation register 0, of 4 and of 16 bytes
    Issues s1 c1 { reads := [0, bReg 0] ++ vRegs 4 4 ++ vRegs 8 4, writes := vRegs 508 4, barred := true } ∧ c1.f.codes = [] ∧
    NoRequest s1 c1 ∧ (s1.bench c1.b).lines = [] ∧ (∀ d, (s1.die d).arb.mode = 0) ∧
    (∀ n ∈ [4, 16], ∀ l ∈ lanesOf (c1.f.exec &&& ~~~c1.w.helper), LocalPiece s1 c1 (piece0 0x10000 n) ∧ (piece0 0x10000 n).n = n ∧
      (piece0 0x10000 n).pa % n = 0 ∧ s1.trPieces c1 0 ((s1.readV c1 0).getD l 0) n true .atomic = .ok ([piece0 0x10000 n], s1)) ∧
    -- behind a sibling's atomic, and with no sibling's access under way
    (let s := waveAt waveG group0
     Issues s cG { reads := [0, bReg 0] ++ vRegs 4 4 ++ vRegs 8 4, writes := vRegs 508 4, barred := true } ∧ NoRequest s cG ∧
      (s.bench cG.b).lines = [] ∧ (∀ d, (s.die d).arb.mode = 0) ∧ LocalPiece s cG (piece0 0x10000 16) ∧
      (∀ l ∈ lanesOf (cG.f.exec &&& ~~~cG.w.helper),
        s.trPieces cG 0 ((s.readV cG 0).getD l 0) 16 true .atomic = .ok ([piece0 0x10000 16], s)) ∧
      ((lanesOf (cG.f.exec &&& ~~~cG.w.helper)).any fun _ => (piece0 0x10000 16).ord != 2) = true ∧
      (cG.w.frags.any fun q => q.1 != cG.e && q.2.outFor false) = true) ∧
    (c1.w.frags.any fun q => q.1 != c1.e && q.2.outFor false) = false := by
  have h : lanesOf (c1.f.exec &&& ~~~c1.w.helper) = [0] := by decide +kernel
  have hG : lanesOf (cG.f.exec &&& ~~~cG.w.helper) = [0] := by decide +kernel
  refine ⟨memOk1, ?_, by decide +kernel, goes, rfl, noRequest, rfl, fun _ => rfl, ?_,
    ⟨goes, noRequest, rfl, fun _ => rfl, isLocal_of rfl (by decide +kernel), ?_, by decide +kernel, by decide +kernel⟩, by decide +kernel⟩
  · simp only [List.mem_cons, List.not_mem_nil, or_false, forall_eq]
    exact goes
  · simp only [h, List.mem_cons, List.not_mem_nil, or_false, forall_eq_or_imp, forall_eq]
    exact ⟨⟨local0 (by decide), rfl, by decide +kernel, of_gives (by decide +kernel)⟩,
      ⟨local0 (by decide), rfl, by decide +kernel, of_gives (by decide +kernel)⟩⟩
  · simp only [hG, List.mem_cons, List.not_mem_nil, or_false, forall_eq]
    exact of_gives (by decide +kernel)

/-- Bench 0 with a counter 0. -/
def benchS (v : Nat) : Bench := { bench0 wave0 group0 with sems := [(0, v)] }

theorem test_witness_SemaphoresComplete : s0.MemOk ∧
    (∀ v, ∀ i ∈ [({ barred := true } : WInfo), { reads := [sReg 63], barred := true }, { writes := [sReg 63], barred := true }],
      Issues (benchAt (benchS v)) c0 i) ∧
    Issues (waveAt waveN group0) (cxAt waveN group0) { barred := true } ∧ (cxAt waveN group0).f.exec &&& ~~~waveN.helper = 0 ∧
    c0.f.exec &&& ~~~c0.w.helper ≠ 0 ∧ ((benchAt (benchS 0)).bench 0).physical 0 0 = 0 ∧
    ((benchAt (benchS 0)).bench 0).sem 0 = 0 ∧ ((benchAt (benchS 1)).bench 0).sem 0 ≠ 0 ∧ (benchS 0).semWaits = [] ∧
    (c0.w.sreg 63).toNat % 2 ^ 32 = 0 ∧
    ((benchAt (benchS 0xFFFFFFFE)).bench 0).sem 0 + 1 < 2 ^ 32 ∧ 2 ^ 32 ≤ ((benchAt (benchS 0xFFFFFFFF)).bench 0).sem 0 + 1 := by
  refine ⟨memOk0, fun v => ?_, goes, by decide, by decide, by decide, by decide, by decide, rfl, by decide, by decide, by decide⟩
  simp only [List.mem_cons, List.not_mem_nil, or_false, forall_eq_or_imp, forall_eq]
  exact ⟨goes, goes, goes⟩

/-- Bench 0 with a running ring of context 0 in slot 0. -/
def benchR (r : Ring) : Bench := { bench0 wave0 group0 with rings := [(0, r)] }

theorem test_witness_FenceTriggerAndTimelinesComplete : s0.MemOk ∧
    (∀ i ∈ [({} : WInfo), { reads := [sReg 63], writes := [sReg 62], barred := true }, { reads := sReg 63 :: [sReg 62], writes := [sReg 61], barred := true }],
      Issues (benchAt (benchR { state := .running })) c0 i) ∧
    Timeline.ofSel 0x1FFF = .nothing ∧ Timeline.ofSel 0x1FFE = .reserved ∧ Timeline.ofSel 0 = .ring 0 0 ∧ s0.ofCtx 0 0 = false ∧
    (benchAt (benchR { state := .running })).ofCtx c0.g.ctx 0 = true ∧
    (let tl := (benchAt (benchR { state := .running })).tl (.ring 0 0)
     (tl % 2 ^ 32 + 2 ^ 32 - 0x80000001) % 2 ^ 32 < 2 ^ 31 ∧ ¬(tl % 2 ^ 32 + 2 ^ 32 - 0x80000000) % 2 ^ 32 < 2 ^ 31) := by
  refine ⟨memOk0, ?_, by decide, by decide, by decide, by decide, by decide, by decide⟩
  simp only [List.mem_cons, List.not_mem_nil, or_false, forall_eq_or_imp, forall_eq]
  exact ⟨goes, goes, goes⟩

/-- A lane copy in flight. -/
def copy0 : LaneCopy :=
  { id := 0, op := 0, slot := 0, lane := 0, ctx := 0, part := 0, batch := 1, pc := 0x4000, out := false, va := 0x10000,
    scr := 0x10000, size := 4 }
/-- Bench 0 with `n` lane copies in flight. -/
def benchCopies (n : Nat) : Bench := { bench0 { wave1 with bn := 1 } group0 with copies := List.replicate n copy0 }
/-- Lane 0 of its wave. -/
def cCopies : Wcx := { c1 with w := { wave1 with bn := 1 } }

theorem test_witness_LaneCopiesComplete : s1.MemOk ∧
    (∀ n, ∀ i ∈ [({ reads := 511 :: fmAddr fm0, barred := true } : WInfo), { writes := [sReg 63] }, { barred := true }], Issues (benchAt (benchCopies n)) cCopies i) ∧
    (∀ l ∈ lanesOf (cCopies.f.exec &&& ~~~cCopies.w.helper), let a := ((benchAt (benchCopies 1)).readV cCopies 511).getD l 0
      a % 4 = 0 ∧ (benchAt (benchCopies 1)).laneVa cCopies { fm0 with brx := 255, sz := 2 } l % 4 = 0 ∧ a + 4 ≤ cCopies.g.scratch ∧
      (benchAt (benchCopies 1)).copyBarred cCopies { fm0 with brx := 255, sz := 2 } l 4 .read = false) ∧
    128 < ((benchAt (benchCopies 128)).bench 0).inFlight + 1 ∧ ((benchAt (benchCopies 127)).bench 0).inFlight + 1 ≤ 128 ∧
    cCopies.w.bn < 2 ∧ (∀ c ∈ (benchCopies 1).copies, c.gone = false → c.slot = 0 → c.ctx = 0 → 0 < c.batch) ∧
    ¬∀ c ∈ (benchCopies 1).copies, c.gone = false → c.slot = 0 → c.ctx = 0 → 1 < c.batch := by
  refine ⟨memOk1, fun n => ?_, by decide +kernel, by decide +kernel, by decide +kernel, by decide, by decide, by decide⟩
  simp only [List.mem_cons, List.not_mem_nil, or_false, forall_eq_or_imp, forall_eq]
  exact ⟨goes, goes, goes⟩

/-- Bench 0 with the lines of a 32 × 32 BF16 matrix at virtual address 0x10000. -/
def benchV : Bench :=
  { bench0 wave1 group0 with lines := (List.range 8).map fun i => { line := pa0 / 256 + i, granule := 65, filled := [0, 1, 2, 3] } }
/-- The device with 0x10000 in lane 0 of the pair of registers 0 and 1. -/
def sVxm : State := { benchAt benchV with mem := Mem.write (benchAt benchV).mem (storePa 0 (wave1.rowAddr 0)) [0, 0, 1] }

theorem test_witness_VectorByMatrixCompletes : sVxm.MemOk ∧
    Issues sVxm c1 { reads := vRegs 0 2 ++ 5 :: [6], writes := [511], barred := true } ∧ NoRequest sVxm c1 ∧ c1.f.vxm = 0 ∧
    c1.f.exec &&& ~~~c1.w.helper ≠ 0 ∧ (∀ l, c1.f.exec.getLsbD l = true → (sVxm.readPair c1 0).getD l 0 = 0x10000) ∧
    (∀ r ∈ vxmRuns 7 0x10000, ∃ bs, sVxm.vaPieces c1 r.1 r.2 false .read = .ok ([piece0 r.1 r.2], sVxm) ∧
      Gives sVxm c1 0 false (piece0 r.1 r.2) bs) ∧ ∀ fl : FFlags, fl &&& c1.w.fptrap.toNat = 0 := by
  refine ⟨by unfold State.MemOk; decide +kernel, goes, noRequest, rfl, by decide, fun l hl => ?_, fun r hr => ?_, fun fl => Nat.and_zero fl⟩
  · cases only_lane0 hl
    decide +kernel
  · have h : ∀ r ∈ vxmRuns 7 0x10000, gives (sVxm.vaPieces c1 r.1 r.2 false .read) ([piece0 r.1 r.2], sVxm) = true ∧
        sVxm.place (piece0 r.1 r.2).pa = .vault 0 ∧ sVxm.reachAll (dieOf c1.b) (piece0 r.1 r.2).pa r.2 = none ∧
        sVxm.cacheable (piece0 r.1 r.2).pa = true ∧ ∃ l ∈ benchV.lines, (sVxm.bench 0).line? (piece0 r.1 r.2).pa = some l ∧
          ∀ i, i < r.2 → ((piece0 r.1 r.2).pa % 256 + i) / 64 ∈ l.filled := by decide +kernel
    obtain ⟨h1, h2, h3, h4, l, -, h5, h6⟩ := h r hr
    exact ⟨_, of_gives h1, ⟨.inr ⟨0, h2⟩, h3⟩, .inr ⟨rfl, (nomatch · : (0 : Nat) ≠ 1), rfl, rfl, h4, l, h5, fun i hi => .inl (h6 i hi), rfl⟩⟩

/-- A launch record of one group of one wave, with no dependence. -/
def launch0 : Nat := (2 ^ 52 - 1) * 2 ^ 330
/-- A partition with room for it. -/
def part0 : Part := { wq := 1, gq := 1, rq := 1 }
/-- The device with 64 bytes at virtual address 0x10000 and a queue 0. -/
def sBlock (x : Bench) (v : Nat) (q : Queue) : State :=
  let s := benchAt x
  { s with mem := Mem.write s.mem pa0 (leBytes 64 v), dev := { s.dev with queues := [(0, q)] } }
/-- A wave whose scalar 1 holds 0x10000. -/
def wave1S : Wave := { wave1 with s := [(1, 0x10000), (2, 0x10001), (3, 1)] }
/-- Bench 0 with that wave, such a partition 0 and a ring 0. -/
def benchQ (r : Ring) : Bench := { bench0 wave1S group0 with parts := [(0, part0)], rings := [(0, r)] }
/-- Lane 0 of that wave. -/
def cQ : Wcx := { c1 with w := wave1S }
/-- A ring of 64 commands in granule 128. -/
def ring0 : Ring := { state := .running, l2n := 6, base := 0x20000 }

theorem test_witness_LaunchAndCommandPushComplete :
    let s := sBlock (benchQ ring0) launch0 { v := true }
    let p := piece0 0x10000 64
    s.MemOk ∧ (∀ i ∈ [({ reads := sReads { fs0 with sa := 1, ib := 1 }, writes := [sReg 63], barred := true } : WInfo),
      { reads := [sReg 1], writes := [sReg 63], barred := true }], Issues s cQ i) ∧
    (cQ.w.sreg 1).toNat % 64 = 0 ∧ (cQ.w.sreg 2).toNat % 64 ≠ 0 ∧ NoRequest s cQ ∧ (s.bench 0).lines = [] ∧ LocalPiece s cQ p ∧
    (s.release 0 5).vaPieces cQ 0x10000 64 false .read = .ok ([p], s.release 0 5) ∧
    -- the three answers to a launch
    ((sBlock (benchQ ring0) launch0 { v := true, ctx := 1 }).queue 0).ctx ≠ cQ.g.ctx ∧
    (s.queue 0).ctx = cQ.g.ctx ∧ (sBlock (benchQ ring0) launch0 {}).launchRefusal 0 0 = some Cause.perm ∧
    (s.release 0 5).launchRefusal 0 (BitVec.ofNat 512 (leNat (Mem.read s.mem (p.pa % 2 ^ 44) 64))) = none ∧
    -- MENQ: a closed slot, one of another context, a full one, one with room
    ((benchAt (benchQ ring0)).ring 0 1).state = .unbound ∧ (({ ring0 with ctx := 1 } : Ring).ctx ≠ cQ.g.ctx) ∧
    ({ ring0 with wp := 64 } : Ring).wp - ring0.tl = 2 ^ ring0.l2n ∧ ring0.timed = false ∧ ring0.ctx = cQ.g.ctx ∧
    ({ ring0 with wp := 63 } : Ring).wp - ring0.tl ≠ 2 ^ ring0.l2n := by
  intro s p
  refine ⟨by unfold State.MemOk; decide +kernel, ?_, by decide, by decide, noRequest, rfl, ⟨.inr ⟨0, by decide +kernel⟩, by decide +kernel⟩,
    of_gives (by decide +kernel), by decide, rfl, by decide +kernel, by decide +kernel, rfl, by decide, by decide, rfl, rfl, by decide⟩
  simp only [List.mem_cons, List.not_mem_nil, or_false, forall_eq_or_imp, forall_eq]
  exact ⟨goes, goes⟩

/-- A wave of the same group in slot 1. -/
def waveB : Wave := { wave0 with index := 1, b0 := 64 * 1024, g0 := 32 }
/-- The group of both. -/
def group2 : Group := { group0 with waves := [0, 1], nwaves := 2 }
/-- Bench 0 with both. -/
def bench2 (r : Wave) : Bench := { bench0 { wave1S with g0 := 32 } group2 with waves := [(0, { wave1S with g0 := 32 }), (1, r)] }
/-- Lane 0 of the first. -/
def cTwo : Wcx := { c1 with w := { wave1S with g0 := 32 }, g := group2 }

theorem test_witness_MatrixQueueAndTransferComplete :
    -- MLOOP: no ring, a full one, one with room
    (benchAt (benchQ ring0)).MemOk ∧ (∀ r, Issues (benchAt (benchQ r)) cQ { barred := true }) ∧
    s1.mloopSlot 0 0 = none ∧ (benchAt (benchQ { ring0 with wp := 64 })).mloopSlot 0 0 = some 0 ∧
    (benchAt (benchQ ring0)).mloopSlot 0 0 = some 0 ∧
    -- NQ: blocks that are malformed, name bench 0's slots 0 and 1, and push one command and seven
    (∀ w ∈ [(0x1000 : Nat), 0, 1, 6 * 2 ^ 13], let s := sBlock (benchQ { ring0 with wp := 58 }) w {}
      s.MemOk ∧ Issues s cQ { reads := [sReg 1], writes := [sReg 63], barred := true } ∧ NoRequest s cQ ∧ (s.bench 0).lines = [] ∧
      LocalPiece s cQ (piece0 0x10000 64) ∧ (cQ.w.sreg 1).toNat = 0x10000 ∧
      (s.release 0 5).vaPieces cQ 0x10000 64 false .read = .ok ([piece0 0x10000 64], s.release 0 5) ∧
      leNat (Mem.read s.mem ((piece0 0x10000 64).pa % 2 ^ 44) 64) = w ∧ s.cellOn 0 = true) ∧
    -- RQXFER: a wave the group has not, itself, one that has ended, and one that takes a granule
    Issues (benchAt (bench2 waveB)) cTwo { reads := sReads { fs0 with sa := 3, ib := 1, imm := 1 }, barred := true } ∧
    group2.nwaves ≤ 2 ∧ (cTwo.w.sreg 3).toNat < group2.nwaves ∧ (cTwo.w.sreg 3).toNat ≠ cTwo.w.index ∧
    (benchAt (bench2 waveB)).wave? 0 1 = some waveB ∧ ({ waveB with frags := [] } : Wave).frags = [] ∧ waveB.frags ≠ [] ∧
    (∃ d base r', cTwo.w.give 1 = some (d, base) ∧ waveB.take base 1 = some r') ∧ cTwo.w.give 64 = none := by
  refine ⟨memOk1, fun _ => goes, by decide, by decide, by decide, ?_, goes, by decide, by decide, by decide, rfl, rfl,
    by decide, ⟨_, _, _, rfl, rfl⟩, rfl⟩
  intro w hw
  have h : ∀ w ∈ [(0x1000 : Nat), 0, 1, 6 * 2 ^ 13], let s := sBlock (benchQ { ring0 with wp := 58 }) w {}
      Memory.wf s.mem = true ∧ s.place (piece0 0x10000 64).pa = .vault 0 ∧ s.reachAll 0 (piece0 0x10000 64).pa 64 = none ∧
      gives ((s.release 0 5).vaPieces cQ 0x10000 64 false .read) ([piece0 0x10000 64], s.release 0 5) = true ∧
      leNat (Mem.read s.mem ((piece0 0x10000 64).pa % 2 ^ 44) 64) = w ∧ s.cellOn 0 = true := by decide +kernel
  obtain ⟨h1, h2, h3, h4, h5, h6⟩ := h w hw
  exact ⟨h1, goes, noRequest, rfl, ⟨.inr ⟨0, h2⟩, h3⟩, by decide, of_gives h4, h5, h6⟩

/-- A pass of one tile in cell 0, with policy FAULT and `size` chunks. -/
def passRec (size : Nat) : BitVec 512 :=
  BitVec.ofNat 512 (0x12000 + size * 2 ^ 64 + 2 * 2 ^ 120 + 0x11000 * 2 ^ 128 + 2 ^ 256)
/-- The pass. -/
def pass0 (size : Nat) : Pass := { ctx := 0, record := passRec size, mrec := 0, bench := 0, slot := 0, num := 1, nextch := 1 }
/-- The device with a pass, whose tiling engine holds the leaf of its page. -/
def sPass (x : Bench) (size : Nat) : State :=
  { benchAt x with passes := [(0, pass0 size)], tlbs := [(.tiling 0, leaf0)] }
/-- A mesh group. -/
def groupM : Group := { group0 with origin := .mesh 0 0 }
/-- A wave of lane 0 whose registers 0 to 8 hold a triangle: (0, 0), (8, 0), (0, 8). -/
def sTri : State :=
  let s := sPass (bench0 wave1 groupM) 1
  let put (m : List Host.Cell) (n : Nat) : List Host.Cell := Mem.write m (storePa 0 (wave1.rowAddr n)) (leBytes 4 0x41000000)
  { s with mem := put (put s.mem 3) 7 }

/-- The set-up of lane `l` of a MEMIT from register 0. -/
def setUp0 (s : State) (c : Wcx) (size l : Nat) : Except Nat Tri :=
  setUpLane (passRec size) ((List.range 9).map fun i => (s.readV c i).getD l 0) 0 ((s.readV c 9).getD l 0) ((s.readV c 10).getD l 0)

theorem test_witness_MeshEmissionCompletes :
    -- TEMIT
    (sPass (bench0 wave1 group0) 5).MemOk ∧
    Issues (sPass (bench0 wave1 group0) 5) c1 { reads := sReads { fs0 with sa := 1, ib := 1 }, writes := [sReg 63], barred := true } ∧
    c1.f.exec &&& ~~~c1.w.helper ≠ 0 ∧ (∃ q num, c1.g.origin = .grid q num) ∧ c1.w.index = 0 ∧
    (sPass (bench0 wave1 group0) 5).pass? 0 0 = some (pass0 5) ∧ (pass0 5).closed = false ∧ (pass0 5).halted = false ∧
    (∀ n ∈ [0, 256], let k := min n (256 - c1.g.offered)
      (pass0 5).segMesh + k ≤ 2 ^ 24 ∧ c1.g.offered + n ≤ 256 ∧
      let p' : Pass := { pass0 5 with
        queue := (pass0 5).queue ++ (List.range k).map fun i => ⟨c1.sB { fs0 with ib := 1 }, c1.g.groupId, c1.g.offered + i⟩,
        segMesh := (pass0 5).segMesh + k, meshg := (pass0 5).meshg + k, dropm := (pass0 5).dropm + (n - k) }
      let s1 := ((sPass (bench0 wave1 group0) 5).release 0 5).modPass 0 0 fun _ => p'
      ∃ x, s1.translateCtx [.tiling (cellOf 0)] (8 * cellOf 0) 0 (passSt (passRec 5) % 2 ^ 64) .write = .ok (x, s1) ∧
        LocalPiece (sPass (bench0 wave1 group0) 5) c1 { va := 0, pa := x.pa, n := 64 }) ∧
    -- MEMIT: degenerate lanes, which are binned, and a triangle for which no chunk is left
    Issues (sPass (bench0 wave1 groupM) 5) { c1 with g := groupM } { reads := vRegs 0 9 ++ [9, 10], writes := [511], barred := true } ∧
    (∃ p' ws codes s1, binLanes 0 (setUp0 (sPass (bench0 wave1 groupM) 5) { c1 with g := groupM } 5) (lanesOf 1) (pass0 5, []) [] = ((p', ws), codes, false) ∧
      ((sPass (bench0 wave1 groupM) 5).modPass 0 0 fun _ => p').passWrites 0 0 0 (ws ++ [p'.statusWrite true]) = (true, s1) ∧
      s1.wcx = some { c1 with g := groupM } ∧ s1.pass? 0 0 = some p' ∧ s1.MemOk ∧ s1.poisoned = []) ∧
    Issues sTri { c1 with g := groupM } { reads := vRegs 0 9 ++ [9, 10], writes := [511], barred := true } ∧
    (∃ b codes, binLanes 0 (setUp0 sTri { c1 with g := groupM } 1) (lanesOf 1) (pass0 1, []) [] = (b, codes, true)) ∧ passPol (passRec 1) = 2 := by
  refine ⟨by unfold State.MemOk; decide +kernel, goes, by decide, ⟨_, _, rfl⟩, rfl, rfl, rfl, rfl, ?_, goes, ?_,
    goes, ?_, by decide +kernel⟩
  · simp only [List.mem_cons, List.not_mem_nil, or_false, forall_eq_or_imp, forall_eq]
    exact ⟨⟨by decide, by decide, { pa := vaultBase + 0x11000, ord := 0, nc := false, left := 0x7FFFFEF000 }, of_gives (by decide +kernel), .inr ⟨0, by decide +kernel⟩, by decide +kernel⟩,
      ⟨by decide, by decide, { pa := vaultBase + 0x11000, ord := 0, nc := false, left := 0x7FFFFEF000 }, of_gives (by decide +kernel), .inr ⟨0, by decide +kernel⟩, by decide +kernel⟩⟩
  · have key (o : Binning × Tbl Nat × Bool) (q : Binning → Bool × State) (c : Wcx) (h : o.2.2 = false ∧ (q o.1).1 = true ∧
        (q o.1).2.wcx = some c ∧ (q o.1).2.pass? 0 0 = some o.1.1 ∧ Memory.wf (q o.1).2.mem = true ∧ (q o.1).2.poisoned = []) :
        ∃ p' ws codes s1, o = ((p', ws), codes, false) ∧ q (p', ws) = (true, s1) ∧ s1.wcx = some c ∧
          s1.pass? 0 0 = some p' ∧ s1.MemOk ∧ s1.poisoned = [] := by
      obtain ⟨⟨p', ws⟩, codes, f⟩ := o
      obtain ⟨rfl, h2, h3⟩ := h
      exact ⟨p', ws, codes, (q (p', ws)).2, rfl, Prod.ext h2 rfl, h3.1, h3.2.1, h3.2.2.1, h3.2.2.2⟩
    exact key _ (fun b => ((sPass (bench0 wave1 groupM) 5).modPass 0 0 fun _ => b.1).passWrites 0 0 0 (b.2 ++ [b.1.statusWrite true])) _
      (by decide +kernel)
  · have key (o : Binning × Tbl Nat × Bool) (h : o.2.2 = true) : ∃ b codes, o = (b, codes, true) := by
      obtain ⟨b, c, f⟩ := o
      cases h
      exact ⟨b, c, rfl⟩
    exact key _ (by decide +kernel)

/-- The device with a ray descriptor at virtual address 0x10000 that names nodes at 0x11000 and triangles at 0x12000, and lane 0
of register 0 as given. -/
def sRay (x : Nat) : State :=
  let s := benchAt (bench0 wave1S group0)
  let m := Mem.write s.mem pa0 (leBytes 16 (0x11000 + 0x12000 * 2 ^ 64))
  { s with mem := Mem.write m (storePa 0 (wave1.rowAddr 0)) (leBytes 4 x), tlbs := [(.traversal 0, leaf0)] }
/-- Its accesses. -/
def mRay (x n : Nat) (z : Bool) : Mu := { cQ.mu { (sRay x).release 0 3 with free := n } with seq := true, sync := z }
/-- The inputs of lane 0. -/
def wsRay (x : Nat) : List Nat := (List.range 8).map fun i => ((sRay x).readV cQ i).getD 0 0
/-- The ray of lane 0. -/
def ray0 (x : Nat) : Ray :=
  { o := .ofWords (wsRay x) 0, d := .ofWords (wsRay x) 3, tmin := .ofWord ((wsRay x).getD 6 0), tmax := .ofWord ((wsRay x).getD 7 0) }

/-- The hypotheses are met by a ray with a NaN input, which walks nothing; a finite ray's walk of this hierarchy, whose one node has
no child, gives no hit and leaves the accesses as the statement says. -/
theorem test_witness_RaysTracedToNearestHit :
    (sRay 0x7FC00000).MemOk ∧ (∀ s ∈ [sRay 0x7FC00000, sRay 0], Issues s cQ { reads := vRegs 0 8 ++ [sReg 1], writes := vRegs 508 4 } ∧
      (s.bench 0).lines = [] ∧ NoRequest s cQ) ∧
    (cxAt waveN group0).f.exec = 0 ∧ cQ.f.exec &&& ~~~cQ.w.helper ≠ 0 ∧ (cQ.w.sreg 2).toNat % 16 ≠ 0 ∧ (cQ.w.sreg 1).toNat % 16 = 0 ∧
    (∀ x ∈ [0x7FC00000, 0], rayRead cQ (mRay x 0 false) 0x10000 16 = .ok (leBytes 16 (0x11000 + 0x12000 * 2 ^ 64), mRay x 0 true)) ∧
    0x11000 % 128 = 0 ∧ 0x12000 % 16 = 0 ∧
    (∀ l n z, l < 32 → (cQ.f.exec &&& ~~~cQ.w.helper).getLsbD l = true →
      allFinite ((List.range 8).map fun i => ((sRay 0x7FC00000).readV cQ i).getD l 0) = true →
      ∃ z', rayWalk cQ (ray0 0x7FC00000) false 0x11000 0x12000 (2 ^ 20) [(0, 1)] [] (mRay 0x7FC00000 n z) = .hits [] (mRay 0x7FC00000 n z')) ∧
    allFinite (wsRay 0) = true ∧
    rayWalk cQ (ray0 0) false 0x11000 0x12000 (2 ^ 20) [(0, 1)] [] (mRay 0 0 true) = .hits [] (mRay 0 0 true) := by
  refine ⟨by unfold State.MemOk; decide +kernel, ?_, by decide, by decide, by decide, by decide, ?_, by decide, by decide, fun l n z _ hl h => ?_,
    by decide +kernel, by decide +kernel⟩
  · simp only [List.mem_cons, List.not_mem_nil, or_false, forall_eq_or_imp, forall_eq]
    exact ⟨⟨goes, rfl, noRequest⟩, goes, rfl, noRequest⟩
  · simp only [List.mem_cons, List.not_mem_nil, or_false, forall_eq_or_imp, forall_eq]
    exact ⟨of_gives (by decide +kernel), of_gives (by decide +kernel)⟩
  · have hl : (c1.f.exec).getLsbD l = true := hl
    cases only_lane0 hl
    exact absurd h (by decide +kernel)

/-! ### Engine commands -/

/-- A ring of an engine that holds one issued command. -/
def ringOf (e : Engine) (a : Active) : Ring := { ring0 with eng := e, wp := 1, rp := 1, active := [a] }
/-- The device whose ring 0 of bench 0 has the turn for its command 1. -/
def sRing (r : Ring) : State :=
  { benchAt { rings := [(0, r)], engs := [(engKey .matrix 0, { tmask := 0xFF })] } with cur := .ring 0 0 1, tlbs := [(.bench 0, leaf0), (.queue 0 0, leaf0)] }
/-- That command. -/
def xRing (r : Ring) (w : W64) : Ecx := ⟨0, 0, 1, r, w⟩
/-- A begun command with records. -/
def actOf (w : W64) (recs : Recs) : Active := { num := 1, word := w, recs := recs, begun := true }
/-- Neither WAIT nor SIG. -/
def cmd0 (f : BitVec 40) : Cmd := ⟨0xFF, 0xFF, f⟩
/-- A tensor record in bench store at a base, of format 0. -/
def recAt (base : Nat) : BitVec 512 := BitVec.ofNat 512 (base + 2 ^ 260)

theorem memOkR (r : Ring) : (sRing r).MemOk := memOk0

/-- The heads of a ring that issues, of one whose checks fail, and of one that waits for a semaphore. -/
theorem test_witness_EngineCommandsIssue :
    (∀ p ∈ [(Engine.matrix, (0x10 : BitVec 8), mxzeroSpec), (.matrix, 0x13, mxstSpec), (.tiling, 0x41, tendSpec)],
      let r : Ring := { ring0 with eng := p.1, wp := 1 }
      let x := xRing r (Encode.putCmd p.2.1 (cmd0 0))
      (sRing r).cur = .ring x.b x.slot x.num ∧ x.r = (sRing r).ring x.b x.slot ∧ x.r.state ≠ .unbound ∧ x.num = x.r.rp + 1 ∧
        x.r.timed = false ∧ ((sRing r).bench x.b).held x.r.eng x.r.ctx < 8 ∧ x.r.active = [] ∧
        (cmd0 0).wait = 0xFF) ∧
    (let r : Ring := { ring0 with wp := 1 }
     (∃ recs, (sRing r).issueCheck (xRing r (Encode.putCmd 0x10 (cmd0 0))) mxzeroSpec = .ok recs) ∧
     (∃ q, (sRing r).issueCheck (xRing r (Encode.putCmd 0x20 (cmd0 0))) cpySpec = .error q) ∧
     ((sRing r).bench 0).physical 0 0 = 0 ∧ ((sRing r).bench 0).sem 0 = 0 ∧ ((sRing r).bench 0).semWaits = []) := by
  refine ⟨?_, ok_of (by decide +kernel), err_of (by decide +kernel), by decide, by decide, by decide⟩
  simp only [List.mem_cons, List.not_mem_nil, or_false, forall_eq_or_imp, forall_eq]
  exact ⟨⟨rfl, rfl, by decide, rfl, rfl, by decide, rfl, rfl⟩, ⟨rfl, rfl, by decide, rfl, rfl, by decide, rfl, rfl⟩,
    ⟨rfl, rfl, by decide, rfl, rfl, by decide, rfl, rfl⟩⟩

/-- The records of the matrix and copy witnesses. -/
def recs0 : Recs := [(0, recAt 0x1000), (1, recAt 0x2000)]

/-- An MXLOOP of one K-step on them. -/
def actLoop : Active := { actOf (Encode.putCmd 0x11 (cmd0 0)) recs0 with aux := [0, 0, 0, 0] }
/-- The accesses of its fetch. -/
def fsLoop : List Fetched := ((List.range 64).flatMap fun j => actLoop.opA.fetches j 0) ++ (List.range 64).flatMap fun j => actLoop.opB.fetches j 0
/-- The bytes of a row's elements. -/
def elLoop (_ : Bool) (_ : Nat) : List Byte := List.replicate (fmtBytes 0 2) 0
/-- The same command with its rows fetched. -/
def actFetched : Active :=
  { actLoop with
    sub := fsLoop.length
    fetched := ((List.range 64).flatMap fun j => elLoop false j ++ []) ++ ((List.range 64).flatMap fun j => elLoop true j ++ []) }

/-- A command at work in ring 0 of bench 0. -/
theorem atWork {e : Engine} {a : Active} {w : W64} (h : a.num = 1 ∧ a.begun = true ∧ a.worked = false)
    (ht : (sRing (ringOf e a)).tileWaits 0 0 a = false) : AtWork (sRing (ringOf e a)) (xRing (ringOf e a) w) a := by
  refine ⟨rfl, rfl, (nomatch ·), rfl, (nomatch ·), ?_, h.2.1, h.2.2, ht, (fun _ h => nomatch h), rfl⟩
  show [a].find? (fun i => i.num == 1) = some a
  simp [h.1]

theorem test_witness_MatrixCommandsWork :
    (∀ p ∈ [((0x10 : BitVec 8), (0 : Nat)), (0x13, 0), (0x13, 63), (0x14, 0), (0x14, 63), (0x12, 0)],
      let w := Encode.putCmd p.1 (cmd0 0)
      let a : Active := { actOf w recs0 with idx := p.2 }
      (sRing (ringOf .matrix a)).MemOk ∧ AtWork (sRing (ringOf .matrix a)) (xRing (ringOf .matrix a) w) a ∧
        trSpace (a.recs.get (cmdF w 39 32) 0) = 1 ∧ trSpace (a.recs.get (cmdF w 31 24) 0) = 1 ∧
        trSpace (a.recs.get (cmdF w 23 16) 0) = 1) ∧
    -- MXLOOP: its first access, and its work
    AtWork (sRing (ringOf .matrix actLoop)) (xRing (ringOf .matrix actLoop) actLoop.word) actLoop ∧ (∃ f, fsLoop[actLoop.sub]? = some f) ∧
    AtWork (sRing (ringOf .matrix actFetched)) (xRing (ringOf .matrix actFetched) actLoop.word) actFetched ∧
    fsLoop.length ≤ actFetched.sub ∧ actFetched.rerun = 0 ∧ actLoop.word.getLsbD 1 = false ∧
    trMv (recAt 0x1000) = false ∧ trXl (recAt 0x1000) = false ∧ trFmt (recAt 0x1000) < 7 ∧
    ∀ isB j, (elLoop isB j).length = fmtBytes 0 2 ∧ ([] : List Byte).length = scaleBytes 0 2 := by
  refine ⟨fun p hp => ?_, atWork ⟨rfl, rfl, rfl⟩ (by decide +kernel), some_of (by decide +kernel), atWork ⟨rfl, rfl, rfl⟩ (by decide +kernel),
    by decide +kernel, rfl, by decide +kernel, by decide +kernel, by decide +kernel, by decide +kernel, fun _ _ => ⟨List.length_replicate, rfl⟩⟩
  have h : ∀ p ∈ [((0x10 : BitVec 8), (0 : Nat)), (0x13, 0), (0x13, 63), (0x14, 0), (0x14, 63), (0x12, 0)],
      (sRing (ringOf .matrix { actOf (Encode.putCmd p.1 (cmd0 0)) recs0 with idx := p.2 })).tileWaits 0 0
          { actOf (Encode.putCmd p.1 (cmd0 0)) recs0 with idx := p.2 } = false ∧
        trSpace (recs0.get (cmdF (Encode.putCmd p.1 (cmd0 0)) 39 32) 0) = 1 ∧
        trSpace (recs0.get (cmdF (Encode.putCmd p.1 (cmd0 0)) 31 24) 0) = 1 ∧
        trSpace (recs0.get (cmdF (Encode.putCmd p.1 (cmd0 0)) 23 16) 0) = 1 := by decide +kernel
  exact ⟨memOkR _, atWork ⟨rfl, rfl, rfl⟩ (h p hp).1, (h p hp).2⟩

/-- A row of 16 bytes from record 0 to record 1. -/
def cmdCopy : Cmd := cmd0 0x1000000
/-- The bytes of record `r` of a command on one row of 16 bytes. -/
def rowAt0 (r : BitVec 512) (m : Nat) : Nat := storePa 0 (trBase r + m / 16 * trStride r) + m % 16

/-- The copies: each with its chunk, and those without a checksum after it. CPYX, CPYQ and FPUT.Q: one block of format 0. -/
theorem test_witness_CopyEngineCommandsWork_rows :
    (∀ op ∈ [(0x20 : BitVec 8), 0x30, 0x31, 0x24, 0x25, 0x21, 0x23, 0x22], ∀ idx ∈ [0, 1],
      let w := Encode.putCmd op cmdCopy
      let a : Active := { actOf w recs0 with aux := [0, 0], idx := idx }
      (sRing (ringOf .copy a)).MemOk ∧ AtWork (sRing (ringOf .copy a)) (xRing (ringOf .copy a) w) a ∧
        a.recs.get (cmdTrs w) 0 = recAt 0x1000 ∧ a.recs.get (cmdTrd w) 0 = recAt 0x2000) ∧
    trSpace (recAt 0x1000) = 1 ∧ trSpace (recAt 0x2000) = 1 ∧ trXbase (recAt 0x1000) = 0 ∧ trXbase (recAt 0x2000) = 0 ∧
    trFmt (recAt 0x1000) = 0 ∧ trXl (recAt 0x1000) = false ∧
    (let w := Encode.putCmd 0x20 cmdCopy
     16 * (cmdF w 11 0 + 1) = 16 ∧ cmdF w 23 12 + 1 = 1 ∧ cmdF w 22 12 + 1 = 1 ∧ cmdF w 11 2 + 1 = 1 ∧ cmdF w 12 4 + 1 = 1 ∧ cmdF w 23 13 + 1 = 1) ∧
    (∀ m < 16, ∀ m' < 16, rowAt0 (recAt 0x2000) m ≠ rowAt0 (recAt 0x1000) m' ∧ rowAt0 (recAt 0x2000) m ≠ 0 ∧
      (m ≠ m' → rowAt0 (recAt 0x2000) m ≠ rowAt0 (recAt 0x2000) m')) ∧
    -- CPYX: 32 elements of 4 bytes
    (∀ m < 128, ∀ m' < 128, m ≠ m' → storePa 0 (0x2000 + m / 4 * 4) + m % 4 ≠ storePa 0 (0x2000 + m' / 4 * 4) + m' % 4) ∧
    (∀ m < 128, ∀ u ∈ operandUses 0 (recAt 0x1000) 1 1, ∀ q ∈ u.runs,
      storePa 0 (0x2000 + m) < storePa 0 q.1 ∨ storePa 0 q.1 + q.2 ≤ storePa 0 (0x2000 + m)) := by
  have h : ∀ op ∈ [(0x20 : BitVec 8), 0x30, 0x31, 0x24, 0x25, 0x21, 0x23, 0x22], ∀ idx ∈ [0, 1],
      (sRing (ringOf .copy { actOf (Encode.putCmd op cmdCopy) recs0 with aux := [0, 0], idx := idx })).tileWaits 0 0
          { actOf (Encode.putCmd op cmdCopy) recs0 with aux := [0, 0], idx := idx } = false ∧
        recs0.get (cmdTrs (Encode.putCmd op cmdCopy)) 0 = recAt 0x1000 ∧ recs0.get (cmdTrd (Encode.putCmd op cmdCopy)) 0 = recAt 0x2000 := by
    decide +kernel
  refine ⟨fun op hp idx hi => ?_, ?_⟩
  · exact ⟨memOkR _, atWork ⟨rfl, rfl, rfl⟩ (h op hp idx hi).1, (h op hp idx hi).2⟩
  · and_intros <;> decide +kernel

/-- The records of a CPYM: virtual address 0, and the frame at 0x20000 of vault 0. -/
def recsM : Recs := [(1, BitVec.ofNat 512 (vaultBase + 0x20000))]
/-- The device with a read-only 4 KiB page at virtual address 0. -/
def sPage (a : Active) : State :=
  let s := sRing (ringOf .copy a)
  let put (m : List Host.Cell) (o v : Nat) : List Host.Cell := Mem.write m (vaultBase + o) (leBytes 8 v)
  let ptr (i : Nat) : Nat := 1 + (vaultBase / 4096 + i) * 2 ^ 10
  { s with mem := put (put (put (put s.mem 0x2000 (ptr 3)) 0x3000 (ptr 5)) 0x5000 (ptr 6)) 0x6000 (0xDB + pa0 / 4096 * 2 ^ 10), tlbs := [] }

/-- CPYM: its copy of a 4 KiB page, and its leaf as it was read and as it was not. -/
theorem test_witness_CopyEngineCommandsWork_page :
    let w := Encode.putCmd 0x26 cmdCopy
    let a := actOf w recsM
    (sPage a).MemOk ∧ AtWork (sPage a) (xRing (ringOf .copy a) w) a ∧ canonical (trBase (a.recs.get (cmdTrs w) 0)) = true ∧
    (sPage a).walk 0 0 5 ((sPage a).desc 0).root = .ok (0xDB + pa0 / 4096 * 2 ^ 10, vaultBase + 0x6000, 0) ∧
    pgsLevel 0 ≠ none ∧ (0xDB + pa0 / 4096 * 2 ^ 10).testBit 63 = false ∧ (0xDB + pa0 / 4096 * 2 ^ 10).testBit 2 = false ∧
    leafPages 0 false (ptePpn (0xDB + pa0 / 4096 * 2 ^ 10)) = some (pgsPages 0) ∧ ptePpn (0xDB + pa0 / 4096 * 2 ^ 10) * 4096 = pa0 ∧
    trBase (a.recs.get (cmdTrd w) 0) = vaultBase + 0x20000 ∧
    (∀ pa ∈ [pa0, vaultBase + 0x20000], (∃ v, (sPage a).place pa = .vault v) ∧ (sPage a).reachAll 0 pa 4096 = none) ∧
    (∀ i j, i < 4096 → j < 4096 → pa0 % 2 ^ 44 + i ≠ (vaultBase + 0x20000) % 2 ^ 44 + j) ∧
    -- its second unit
    (∀ pte ∈ [0, 1], let b : Active := { a with idx := 1, aux := [pte, pa0] }
      AtWork (sRing (ringOf .copy b)) (xRing (ringOf .copy b) w) b ∧ (sRing (ringOf .copy b)).reachAll 0 pa0 8 = none ∧
      leNat (Mem.read (sRing (ringOf .copy b)).mem (pa0 % 2 ^ 44) 8) = 0) := by
  intro w a
  refine ⟨by unfold State.MemOk; decide +kernel, ⟨rfl, rfl, (nomatch ·), rfl, (nomatch ·), rfl, rfl, rfl, by decide +kernel, (fun _ h => nomatch h), rfl⟩,
    by decide +kernel, of_gives (by decide +kernel), by decide, by decide +kernel, by decide +kernel, by decide +kernel, by decide +kernel, by decide +kernel,
    ?_, fun i j hi hj => ?_, ?_⟩
  · simp only [List.mem_cons, List.not_mem_nil, or_false, forall_eq_or_imp, forall_eq]
    exact ⟨⟨⟨0, by decide +kernel⟩, by decide +kernel⟩, ⟨0, by decide +kernel⟩, by decide +kernel⟩
  · have h1 : pa0 % 2 ^ 44 = 0x80000010000 := by decide
    have h2 : (vaultBase + 0x20000) % 2 ^ 44 = 0x80000020000 := by decide
    omega
  · simp only [List.mem_cons, List.not_mem_nil, or_false, forall_eq_or_imp, forall_eq]
    exact ⟨⟨atWork ⟨rfl, rfl, rfl⟩ (by decide +kernel), by decide +kernel, by decide +kernel⟩,
      ⟨atWork ⟨rfl, rfl, rfl⟩ (by decide +kernel), by decide +kernel, by decide +kernel⟩⟩

/-- The device with a port that is up and a way to package 1, and a page of LPDDR-6 at virtual address 0 that the tiling engine of
cell 0 holds. -/
def sFab (r : Ring) : State :=
  let s := sRing r
  let leaf : TlbEntry := { leaf0 with pte := 0xDF }
  { s with mem := Mem.write s.mem (vaultBase + 0x2000) (leBytes 8 0xDF), tlbs := [(.tiling 0, leaf)],
           dev := { s.dev with fabric := { s.dev.fabric with routes := [(1, 1)], portup := 1 }
                               boot := { s.dev.boot with fitted := (0x100000, 0) }
                               composites := [(0, { word := BitVec.ofNat 512 (1 + 2 ^ 256 + 2 ^ 480) })] } }
/-- The pass record of TBEGIN. -/
def recsT : Recs := [(0, passRec 5)]

theorem test_witness_FabricAndTilingCommandsWork_fabric :
    let w := Encode.putCmd 0x32 (cmd0 0)
    let a := actOf w recs0
    (sFab (ringOf .fabric a)).MemOk ∧ AtWork (sFab (ringOf .fabric a)) (xRing (ringOf .fabric a) w) a ∧
    trSpace (a.recs.get (cmdF w 39 32) 0) ≠ 0 ∧ bitsIn ((sFab (ringOf .fabric a)).dev.composites.get 0 {}).word 491 480 = 1 ∧
    (sFab (ringOf .fabric a)).dev.fabric.pkgid = 0 ∧ (sFab (ringOf .fabric a)).linkTo 0 1 = none ∧
    -- FSIG to its own package and to package 1
    (∀ f ∈ [(0 : BitVec 40), 0x10000000], let w := Encode.putCmd 0x33 (cmd0 f)
      AtWork (sFab (ringOf .fabric (actOf w []))) (xRing (ringOf .fabric (actOf w [])) w) (actOf w []) ∧
        ((sFab (ringOf .fabric (actOf w []))).bench 0).lines = [] ∧ ((sFab (ringOf .fabric (actOf w []))).bench 0).sem 0 < 2 ^ 32 - 1 ∧
        cmdF w 39 28 = f.toNat / 2 ^ 28) := by
  intro w a
  refine ⟨by unfold State.MemOk; decide +kernel, ⟨rfl, rfl, (nomatch ·), rfl, (nomatch ·), rfl, rfl, rfl, by decide +kernel, (fun _ h => nomatch h), rfl⟩,
    by decide +kernel, by decide +kernel, rfl, by decide +kernel, ?_⟩
  simp only [List.mem_cons, List.not_mem_nil, or_false, forall_eq_or_imp, forall_eq]
  exact ⟨⟨⟨rfl, rfl, (nomatch ·), rfl, (nomatch ·), rfl, rfl, rfl, by decide +kernel, (fun _ h => nomatch h), rfl⟩, rfl, by decide +kernel, by decide +kernel⟩,
    ⟨rfl, rfl, (nomatch ·), rfl, (nomatch ·), rfl, rfl, rfl, by decide +kernel, (fun _ h => nomatch h), rfl⟩, rfl, by decide +kernel, by decide +kernel⟩

/-- Bench 0 with a ring and a fragment whose offer to pass 0 a split had parked. -/
def benchO (r : Ring) : Bench :=
  { bench0 { wave1 with frags := [(0, { frag1 with codes := [(offerMark, 0)], wait := some (.pass 0), word := 0xC000831000000000 })] } group0 with
    rings := [(0, r)], engs := [(engKey .matrix 0, { tmask := 0xFF })] }

theorem test_witness_FabricAndTilingCommandsWork_tiling :
    -- TBEGIN: its headers and its status block
    (let w := Encode.putCmd 0x40 (cmd0 0)
     ∀ idx ∈ [1, 2], let a : Active := { actOf w recsT with idx := idx }
      let s := sFab (ringOf .tiling a)
      let x := xRing (ringOf .tiling a) w
      s.MemOk ∧ AtWork s x a ∧ cdiv (16 * passTiles (passRec 5)) 4096 = 1 ∧
      x.pieces s false .write (passPb (passRec 5)) 16 = .ok ([{ va := 0x12000, pa := 0x12000, n := 16 }], s) ∧
      s.place 0x12000 = .lpddr 0 ∧ s.reachAll 0 0x12000 16 = none ∧
      x.pieces s false .write (passSt (passRec 5)) 64 = .ok ([{ va := 0x11000, pa := 0x11000, n := 64 }], s) ∧
      s.place 0x11000 = .lpddr 0 ∧ s.reachAll 0 0x11000 64 = none) ∧
    -- TEND: while a mesh group lives, while an offer is parked, and when its work is over
    (let w := Encode.putCmd 0x41 (cmd0 0)
     ∀ p ∈ [(1, 0), (0, 1)], let a : Active := { actOf w [] with idx := p.2 }
      let q : Pass := { pass0 5 with meshLive := p.1 }
      let s : State := { sFab (ringOf .tiling a) with passes := [(0, q)] }
      AtWork s (xRing (ringOf .tiling a) w) a ∧ s.pass? 0 0 = some q ∧ s.passBad q = none ∧ s.remoteOpen q.who = false ∧
        q.halted = false ∧ q.split = 0 ∧ (q.meshLive ≠ 0 ∨ (a.idx ≠ 0 ∧ q.queue = [] ∧ s.offersOn 0 0 = false))) ∧
    (let w := Encode.putCmd 0x41 (cmd0 0)
     let a : Active := { actOf w [] with idx := 1 }
     let s : State := { sFab (ringOf .tiling a) with passes := [(0, pass0 5)], benches := [(0, benchO (ringOf .tiling a))] }
     AtWork s (xRing (ringOf .tiling a) w) a ∧ s.pass? 0 0 = some (pass0 5) ∧ s.passBad (pass0 5) = none ∧
       s.remoteOpen (pass0 5).who = false ∧ (pass0 5).meshLive = 0 ∧ s.offersOn 0 0 = true) := by
  have h1 : ∀ idx ∈ [1, 2], let w := Encode.putCmd 0x40 (cmd0 0)
      let a : Active := { actOf w recsT with idx := idx }
      let s := sFab (ringOf .tiling a)
      let x := xRing (ringOf .tiling a) w
      Memory.wf s.mem = true ∧ s.tileWaits 0 0 a = false ∧ cdiv (16 * passTiles (passRec 5)) 4096 = 1 ∧
      gives (x.pieces s false .write (passPb (passRec 5)) 16) ([{ va := 0x12000, pa := 0x12000, n := 16 }], s) = true ∧
      s.place 0x12000 = .lpddr 0 ∧ s.reachAll 0 0x12000 16 = none ∧
      gives (x.pieces s false .write (passSt (passRec 5)) 64) ([{ va := 0x11000, pa := 0x11000, n := 64 }], s) = true ∧
      s.place 0x11000 = .lpddr 0 ∧ s.reachAll 0 0x11000 64 = none := by decide +kernel
  refine ⟨fun idx hi => ?_, ?_, ⟨rfl, rfl, (nomatch ·), rfl, (nomatch ·), rfl, rfl, rfl, by decide +kernel, (fun _ h => nomatch h), rfl⟩,
    rfl, rfl, rfl, rfl, by decide +kernel⟩
  · obtain ⟨a1, a2, a3, a4, a5, a6, a8, a9⟩ := h1 idx hi
    exact ⟨a1, ⟨rfl, rfl, (nomatch ·), rfl, (nomatch ·), rfl, rfl, rfl, a2, (fun _ h => nomatch h), rfl⟩, a3, of_gives a4, a5, a6, of_gives a8, a9⟩
  · simp only [List.mem_cons, List.not_mem_nil, or_false, forall_eq_or_imp, forall_eq]
    exact ⟨⟨⟨rfl, rfl, (nomatch ·), rfl, (nomatch ·), rfl, rfl, rfl, by decide +kernel, (fun _ h => nomatch h), rfl⟩, rfl, rfl, rfl, rfl, rfl, .inl (by decide)⟩,
      ⟨rfl, rfl, (nomatch ·), rfl, (nomatch ·), rfl, rfl, rfl, by decide +kernel, (fun _ h => nomatch h), rfl⟩, rfl, rfl, rfl, rfl, rfl, .inr ⟨by decide, rfl, by decide +kernel⟩⟩

theorem test_witness_CommandsComplete :
    -- with no SIG, with one that has room, and with a full one
    (∀ p ∈ [((0xFF : BitVec 8), 0), (0, 0xFFFFFFFE), (0, 0xFFFFFFFF)],
      let a : Active := { actOf (Encode.putCmd 0x10 ⟨0xFF, p.1, 0⟩) [] with worked := true }
      let s := benchAt { rings := [(0, ringOf .matrix a)], sems := [(0, p.2)] }
      (s.ring 0 0).active.find? (fun i => i.num == 1) = some a ∧ a.owesSig = false ∧ a.halted = false ∧
        (s.ring 0 0).state = .running ∧ (s.bench 0).ringStops (s.ring 0 0) = false ∧ (s.ring 0 0).timed = false ∧
        (s.ring 0 0).fin = none ∧ cmdF a.word 55 48 = p.1.toNat ∧ (s.bench 0).physical 0 0 = 0 ∧ (s.bench 0).sem 0 = p.2) ∧
    -- IDLE, and an EOP that the table does not list
    (let r : Ring := { ring0 with wp := 1 }
     (sRing r).cur = .ring 0 0 (r.rp + 1) ∧ r.state ≠ .unbound ∧ r.timed = false ∧ r.tl = r.rp ∧ r.done = [] ∧ r.active = [] ∧ r.fin = none ∧
       r.wp = r.rp + 1 ∧ cmdF 0xFFFF150000000000 63 56 = 0xFF ∧ ((sRing r).bench 0).held r.eng r.ctx < 8) :=
  ⟨by decide +kernel, rfl, (nomatch ·), rfl, rfl, rfl, rfl, rfl, rfl, by decide +kernel, by decide +kernel⟩

/-! ### Control cores and their registers -/

/-- The device whose gaffer 0 has the turn. -/
def sHart (x : Bench) (h : Hart) : State := { benchAt { x with gaffer := h } with cur := .gaffer 0 }
/-- That gaffer. -/
def hx (h : Hart) : Hcx := ⟨.gaffer 0, h, 0, .gaffer 0, .gaffer 0, some 0, none⟩

theorem gafferTurn {x : Bench} {h : Hart} (m : h.mode ≠ .u) : GafferTurn (sHart x h) (hx h) 0 :=
  ⟨rfl, rfl, m, fun _ h => nomatch h⟩

/-- A gaffer in machine mode whose x1 and x2 hold these. -/
def hart (a b : Nat) : Hart := { x := [(1, w64 a), (2, w64 b)] }
/-- An X instruction of x1 and x2. -/
def xr : XR := ⟨3, 1, 2⟩

/-- A gaffer in U mode with exception 2 delegated, one in M mode, and a host core. -/
theorem test_witness_IllegalInstructionExceptionTaken :
    ((sHart {} { mode := .u }).hcx = some (hx { mode := .u }) ∧ ({ mode := .u } : Hart).blocked = none ∧ ({ mode := .u } : Hart).delegated 2 = true ∧
      (∀ r ∈ (sHart {} { mode := .u }).dev.fabric.remotes, r.who ≠ (hx { mode := .u }).who)) ∧
    ((sHart {} {}).hcx = some (hx {}) ∧ ({} : Hart).delegated 2 = false) ∧
    ({ benchAt {} with cur := .host 31 } : State).hcx.map (·.host) = some (some 31) :=
  ⟨⟨rfl, rfl, by decide, fun _ h => nomatch h⟩, ⟨rfl, by decide⟩, by decide⟩

/-- A control store whose word 0 pushes one command to slot 0, and then ends. -/
def cstore0 : Tbl W64 := [(2, 0x4000000000000000)]
/-- The one step of that macro. -/
def step0 : MacroStep := ⟨0, 0, 0, 0, 0⟩
/-- An armed timed ring. -/
def ringT : Ring := { ring0 with timed := true, armed := true }

theorem test_witness_GafferPushesAndTimedBarrierComplete :
    (∀ r : Ring, GafferTurn (sHart { rings := [(0, r)] } (hart 0 pa0)) (hx (hart 0 pa0)) 0) ∧
    (∀ r : Ring, ((sHart { rings := [(0, r)] } (hart 0 pa0)).bench 0).lines = [] ∧ (sHart { rings := [(0, r)] } (hart 0 pa0)).MemOk) ∧
    (hx (hart 0 pa0)).rs1 xr % 16 = 0 ∧ ((sHart {} (hart 0 pa0)).ring 0 0).state = .unbound ∧ ring0.state ≠ .unbound ∧ ring0.state ≠ .aborted ∧
    2 ^ ring0.l2n < ({ ring0 with wp := 64 } : Ring).wp - 0 + 1 ∧ ({ ring0 with wp := 63 } : Ring).wp - 0 + 1 ≤ 2 ^ ring0.l2n ∧
    (hx (hart 0 1)).rs2 xr % 8 ≠ 0 ∧ (hx (hart 0 pa0)).rs2 xr % 8 = 0 ∧
    -- XPUSHM: no END, a full ring, and room
    macroSteps cstore0 128 4095 = ([], false) ∧ macroSteps cstore0 128 0 = ([step0], true) ∧
    (∀ wp ∈ [0, 64], let s := sHart { rings := [(0, { ring0 with wp := wp })], cstore := cstore0 } (hart 0 pa0)
      s.macroArgs (hx (hart 0 pa0)) pa0 [step0] ((hx (hart 0 pa0)).mu s) = .ok ([0], { (hx (hart 0 pa0)).mu s with sync := true }) ∧
        s.macroArgs (hx (hart 0 pa0)) pa0 [] ((hx (hart 0 pa0)).mu s) = .ok ([], (hx (hart 0 pa0)).mu s) ∧
        s.macroRefusal 0 [step0] = if wp = 0 then none else some Cause.ringFull) ∧
    -- XTKBAR: no slot, a tick in 64 cycles, and one in 62
    (let s := sHart { rings := [(0, ringT)] } (hart 27 1)
     GafferTurn s (hx (hart 27 1)) 0 ∧ (hx (hart 27 1)).h.blocked = none ∧ (hx (hart 27 1)).rs2 xr % 2 ^ 16 = 1 ∧
       (∀ k, k < 16 ∧ (1 : Nat).testBit k = true → (s.ring 0 k).state ≠ .unbound ∧ (s.ring 0 k).timed = true ∧ (s.ring 0 k).armed = true) ∧
       s.dev.ptc.ptc ≤ 27 ∧ 64 ≤ s.cyclesTo (s.domain 0) 27 ∧ s.cyclesTo (s.domain 0) 26 < 64) := by
  refine ⟨fun _ => gafferTurn (fun h => nomatch h), fun _ => ⟨rfl, memOk0⟩, by decide +kernel, by decide, by decide, by decide, by decide, by decide, by decide +kernel, by decide +kernel,
    by decide +kernel, by decide +kernel, ?_, gafferTurn (fun h => nomatch h), rfl, by decide +kernel, ?_, by decide +kernel, by decide +kernel, by decide +kernel⟩
  · simp only [List.mem_cons, List.not_mem_nil, or_false, forall_eq_or_imp, forall_eq]
    exact ⟨⟨of_gives (by decide +kernel), of_gives (by decide +kernel), by decide +kernel⟩, of_gives (by decide +kernel), of_gives (by decide +kernel), by decide +kernel⟩
  · rintro k ⟨h1, h2⟩
    have h : ∀ k < 16, (1 : Nat).testBit k = true → k = 0 := by decide
    cases h k h1 h2
    decide +kernel

theorem test_witness_GafferSynchronisationCompletes :
    (∀ a b x, GafferTurn (sHart x (hart a b)) (hx (hart a b)) 0) ∧
    -- XFENCE; the counters; the units
    (hx (hart 6 0)).rs1 xr % 8 ≠ 7 ∧ (hx (hart 7 0)).rs1 xr % 8 = 7 ∧ (hx (hart 0 0)).rs2 xr = 0 ∧ 2 ^ 32 ≤ (hx (hart 0 (2 ^ 32))).rs2 xr ∧
    (hx (hart 0 1)).rs2 xr ≠ 0 ∧ (hx (hart 0 1)).rs2 xr < 2 ^ 32 ∧
    (∀ v ∈ [0, 1, 0xFFFFFFFE, 0xFFFFFFFF], ((sHart { sems := [(0, v)] } (hart 0 1)).bench 0).sem ((hx (hart 0 1)).rs1 xr % 256) = v) ∧
    (∀ v, ((sHart { sems := [(0, v)] } (hart 0 1)).bench 0).semWaits = []) ∧
    -- the timelines: none, one that is at 1, and one whose ring is gone
    Timeline.ofSel ((hx (hart 0x1FFF 0)).rs1 xr % 2 ^ 13) = .nothing ∧ Timeline.ofSel ((hx (hart 0 1)).rs1 xr % 2 ^ 13) = .ring 0 0 ∧
    (hx (hart 0 1)).h.aborted = false ∧
    (let s := sHart { rings := [(0, { ring0 with tl := 1 })] } (hart 0 1)
     (hx (hart 0 1)).rs2 xr ≤ s.tl (.ring 0 0) ∧ s.tl (.ring 0 0) < (hx (hart 0 2)).rs2 xr ∧ s.tlGone 0 = false) ∧
    (sHart {} (hart 0 1)).tlGone 0 = true :=
  ⟨fun _ _ _ => gafferTurn (fun h => nomatch h), by decide +kernel, by decide +kernel, by decide +kernel, by decide +kernel, by decide, by decide +kernel,
   by decide, fun _ => rfl, by decide +kernel⟩

/-- The device with a queue 0 that takes launches, gaffer 0 with the turn, and `v` at pa0. -/
def sSend (x : Bench) (h : Hart) (v : Nat) : State :=
  let s := sHart x h
  { s with mem := Mem.write s.mem pa0 (leBytes 64 v), dev := { s.dev with queues := [(0, { v := true })] } }

theorem test_witness_GafferMessagesAndDrainComplete :
    (∀ a b x v, GafferTurn (sSend x (hart a b) v) (hx (hart a b)) 0) ∧ (sSend { parts := [(0, part0)] } (hart 0 pa0) launch0).MemOk ∧
    ((sSend { parts := [(0, part0)] } (hart 0 pa0) launch0).bench 0).lines = [] ∧ (hx (hart 1 1)).rs2 xr % 64 ≠ 0 ∧ (hx (hart 1 1)).rs1 xr % 64 ≠ 0 ∧
    -- XMSEND: to no bench, to a full mailbox, to one with room
    (∀ n ∈ [0, 15, 16], let s := sSend { mailbox := List.replicate n (0, []) } (hart 0 pa0) 0
      s.hartRead (hx (hart 0 pa0)) ((hx (hart 0 pa0)).mu s) pa0 64 = .ok (leBytes 64 0, { (hx (hart 0 pa0)).mu s with sync := true }) ∧
        s.cellOn 0 = true ∧ (s.bench 0).mailbox.length = n) ∧
    255 < (hx (hart 256 pa0)).rs1 xr % 1024 ∧ (hx (hart 0 pa0)).rs1 xr % 1024 ≤ 255 ∧
    -- XMRECV of a message
    (hx (hart pa0 0)).h.dataMode = .m ∧ pa0 < 2 ^ 56 ∧ (leBytes 64 0).length = 64 ∧
    (let s := sSend { mailbox := [(7, leBytes 64 0)] } (hart pa0 0) 0
     s.poisoned = [] ∧ (∃ v, s.place pa0 = .vault v) ∧ s.reachAll 0 pa0 64 = none) ∧
    -- XHLAUNCH: refused and accepted
    (let s := sSend { parts := [(0, part0)] } (hart pa0 0) launch0
     s.hartRead (hx (hart pa0 0)) ((hx (hart pa0 0)).mu s) pa0 64 = .ok (leBytes 64 launch0, { (hx (hart pa0 0)).mu s with sync := true }) ∧
       (s.release 0 5).launchRefusal 0 (BitVec.ofNat 512 launch0) = none ∧ ((s.release 0 5).launchRefusal 1 (BitVec.ofNat 512 launch0)).isSome = true) ∧
    -- XDRAIN: nothing to drain, and a drain that starts
    ((sSend {} (hart 0 0) 0).bench 0).holds 0 = false ∧ ((sSend (benchR ring0) (hart 0 0) 0).bench 0).holds 0 = true ∧
    (((sSend (benchR ring0) (hart 0 0) 0).bench 0).ctx 0).draining = false := by
  refine ⟨fun _ _ _ _ => ⟨rfl, rfl, (fun h => nomatch h), fun _ h => nomatch h⟩, by unfold State.MemOk; decide +kernel, rfl, by decide +kernel, by decide +kernel, ?_, by decide +kernel,
    by decide +kernel, by decide +kernel, by decide +kernel, by decide +kernel, ⟨rfl, ⟨0, by decide +kernel⟩, by decide +kernel⟩,
    ⟨of_gives (by decide +kernel), by decide +kernel, by decide +kernel⟩, by decide +kernel, by decide +kernel, by decide +kernel⟩
  simp only [List.mem_cons, List.not_mem_nil, or_false, forall_eq_or_imp, forall_eq]
  exact ⟨⟨of_gives (by decide +kernel), by decide +kernel, by decide +kernel⟩, ⟨of_gives (by decide +kernel), by decide +kernel, by decide +kernel⟩,
    of_gives (by decide +kernel), by decide +kernel, by decide +kernel⟩

/-! ### Register writes and device events -/

/-- Bench 0 alone, with these fields. -/
def evAt (x : Bench) : State := { benchAt x with cur := .none }
/-- The same with a device changed. -/
def evDev (x : Bench) (f : Device → Device) : State := { evAt x with dev := f (evAt x).dev }

/-- A word of RBIND: a dynamic matrix ring of 16 entries at 0x20000. -/
def bind0 : W64 := w64 (4 * 8 + 0x20000 * 2 ^ 32)

theorem test_witness_RingAndGafferRegistersAct :
    -- RBIND before the commit, refused and accepted
    (evAt {}).dev.features.done = false ∧
    (let r : Ring := { state := .running, eng := .matrix, l2n := 4, base := 0x20000 }
     (evDev {} fun d => { d with features := { done := true } }).bindRefused 0 0 r = true ∧
     (evDev { regionMap := [(128, granuleWord 3 0 0 0)] } fun d => { d with features := { done := true } }).bindRefused 0 0 r = false ∧
     r = { state := .running, eng := Engine.ofCode (bind0.toNat % 4), timed := bind0.getLsbD 2, l2n := bitsOf bind0.toNat 6 3,
           part := bitsOf bind0.toNat 10 8, ctx := bitsOf bind0.toNat 31 16, base := bitsOf bind0.toNat 53 32,
           armed := bind0.getLsbD 2, err := false }) ∧
    -- the slot states that RCTL asks for
    (∀ st ∈ [RingState.halted, .drained, .aborted, .running, .unbound],
      ((evAt { rings := [(0, { ring0 with state := st })] }).ring 0 0).state = st ∧ (evAt {}).passes = []) ∧
    (ring0.tl = ring0.wp ∧ ({ ring0 with wp := 1 } : Ring).tl ≠ 1 ∧ ringT.timed = true ∧ ringT.state = .running ∧ ringT.fin = none ∧
      ({ ringT with wp := 1 } : Ring).wp ≠ ringT.tl ∧ ({ ringT with fin := some 0 } : Ring).fin ≠ none) ∧
    -- SMAP lets and does not; a replay meets an entry
    (((evAt {}).bench 0).wavesOf 0 = [] ∧ ((evAt {}).bench 0).rings = []) ∧
    (((evAt { ctxs := [(0, { drained := true })] }).bench 0).ctx 0).drained = true ∧ ((evAt (bench0 wave0 group0)).bench 0).wavesOf 0 ≠ [] ∧
    replayHits 0 (0 : W64).toNat 0 { key := some (.token 0), parkers := [.frag 0 0 0] } = true ∧
    replayHits 0 (0x400 : W64).toNat 0 { key := some (.token 0), parkers := [.frag 0 0 0] } = true ∧ (0x400 : W64).getLsbD 8 = false ∧
    (let s := evAt { bench0 wave0 group0 with waitTable := [(0, { key := some (.token 0), parkers := [.frag 0 0 0] })] }
     (s.bench 0).waitTable.get? 0 = some { key := some (.token 0), parkers := [.frag 0 0 0] } ∧ ((s.bench 0).ctx 0).saved = false) := by
  refine ⟨rfl, by decide +kernel, ?_, by decide, ⟨rfl, rfl⟩, rfl, by decide +kernel, by decide, by decide, rfl, rfl, rfl⟩
  simp only [List.mem_cons, List.not_mem_nil, or_false, forall_eq_or_imp, forall_eq]
  exact ⟨⟨rfl, rfl⟩, ⟨rfl, rfl⟩, ⟨rfl, rfl⟩, ⟨rfl, rfl⟩, rfl, rfl⟩

/-- Bench 0 with context 0 as given. -/
def cxBench (c : CtxBench) : State := evAt { ctxs := [(0, c)] }

theorem test_witness_ContextCommandsAct :
    -- the four states of a context that SAVE and RESTORE tell apart
    (∀ c ∈ [({ drained := true } : CtxBench), { saved := true }, {}, { busy := 1 }, { draining := true }, { busy := 2 }],
      ((cxBench c).bench 0).ctx ((cxBench c).bench 0).csr.cxsel = c ∧ (cxBench c).MemOk ∧ (cxBench c).passes = [] ∧
        (∀ k, ((cxBench c).ring 0 k).active = []) ∧ (cxBench c).stopped 0 0 = true) ∧
    -- HWM: refused, and written
    ((cxBench {}).bench 0).csr.cxhwm < ((cxBench {}).desc 0).hwmp + 1 ∧
    (let s := evAt { csr := { cxhwm := 16 } }
     let pa := 64 * s.dev.ctxBase.toNat + 64 * 0 + 16
     (s.desc 0).hwmp ≤ 16 ∧ 16 ≤ 2 ^ ((s.desc 0).pvsl - 12) ∧ 0 < 2 ^ s.dev.ctxL2n ∧ (∃ v, s.place pa = .vault v) ∧
       s.reachAll (dieOf 0) pa 8 = none ∧ s.poisoned = []) ∧
    2 ^ (((evAt { csr := { cxhwm := 2 ^ 53 } }).desc 0).pvsl - 12) < 2 ^ 53 ∧
    -- a drain that is not over: a fragment inside a bypass window
    (let f : Frag := { frag0 with win := { left := 1 } }
     (evAt { bench0 { wave0 with frags := [(0, f)] } group0 with ctxs := [(0, { draining := true })] }).stopped 0 0 = false) ∧
    -- a restore: a saved wave, whose places are free
    (let y : CtxBench := { busy := 2, saved := true, waves := [(0, wave0)], groups := [(0, group0)] }
     y.woken = [] ∧ (∀ p ∈ y.waves, ((cxBench y).bench 0).waves.get? p.1 = none) ∧ (∀ p ∈ y.groups, ((cxBench y).bench 0).groups.get? p.1 = none) ∧
       ∀ p ∈ ((cxBench y).bench 0).rings, p.2.bound = false) := by
  refine ⟨?_, by decide +kernel, ⟨by decide +kernel, by decide +kernel, by decide +kernel, ⟨0, by decide +kernel⟩, by decide +kernel, rfl⟩, by decide +kernel,
    by decide +kernel, rfl, by decide +kernel, by decide +kernel, fun _ h => nomatch h⟩
  simp only [List.mem_cons, List.not_mem_nil, or_false, forall_eq_or_imp, forall_eq]
  exact ⟨⟨rfl, memOk0, rfl, fun _ => rfl, rfl⟩, ⟨rfl, memOk0, rfl, fun _ => rfl, rfl⟩, ⟨rfl, memOk0, rfl, fun _ => rfl, rfl⟩,
    ⟨rfl, memOk0, rfl, fun _ => rfl, rfl⟩, ⟨rfl, memOk0, rfl, fun _ => rfl, rfl⟩, rfl, memOk0, rfl, fun _ => rfl, rfl⟩

/-- A read request with tag 7. -/
def flit0 : Flit := { type := 0, vc := 0, dst := 1, src := 0, tag := 7, len := 8, sts := 0, aop := 0, asz := 0, addr := 0, payload := [] }
/-- A record of context 0. -/
def recF0 : FaultRec := { cause := 1 }

theorem test_witness_ShootdownFaultAndResetEventsAct :
    -- a shootdown that may start, one under way, and one that waits for a request
    ((evAt {}).dev.shoots.get 287 {}).done = true ∧ (evAt {}).transferring = [] ∧
    (let d : Shoot := { done := false, tags := [7] }
     ((evDev {} fun x => { x with shoots := [(0, d)] }).dev.shoots.get 0 {}) = d ∧
       (evDev {} fun x => { x with shoots := [(0, d)] }).shootClear d = true ∧
       (evDev {} fun x => { x with fabric := { x.fabric with remotes := [{ who := .frag 0 0 0, key := 0, req := flit0 }] } }).shootClear d = false) ∧
    -- the latch: nothing waits, one record waits, and its message
    ((evAt {}).bench 0).latch.pending = [] ∧ ((evAt { latch := { pending := [recF0] } }).bench 0).latch.pending = [recF0] ∧
    (let s := evAt { latch := { record := some recF0, message := true } }
     (s.bench 0).latch.record = some recF0 ∧ (s.bench (s.ctxBlock recF0.ctx).ntgt).mailbox.length < 16) ∧
    (let s := evAt { latch := { record := some recF0, message := true }, mailbox := List.replicate 16 (0, []) }
     16 ≤ (s.bench (s.ctxBlock recF0.ctx).ntgt).mailbox.length) ∧
    -- RIDX: up to WIDX, and past it; a deferred record, with room and without
    (let s := evDev {} fun d => { d with ctxs := [(0, { widx := 1 })] }
     (1 : W64).toNat ≤ (s.ctxBlock 0).widx ∧ (s.ctxBlock 0).waiting = [] ∧ (s.ctxBlock 0).widx < (2 : W64).toNat) ∧
    (let s := evDev {} fun d => { d with ctxs := [(0, { waiting := [(0, recF0)], widx := 2 })] }
     (s.ctxBlock 0).waiting = [(0, recF0)] ∧ recF0.ctx = 0 ∧ (s.ctxBlock 0).widx - (s.ctxBlock 0).ridx ≠ 2 ^ (s.desc 0).frl2 ∧
       (s.bench 0).latch.record = none) ∧
    (let s := evDev {} fun d => { d with ctxs := [(0, { waiting := [(0, recF0)], widx := 2 ^ ((evAt {}).desc 0).frl2 })] }
     (s.ctxBlock 0).widx - (s.ctxBlock 0).ridx = 2 ^ (s.desc 0).frl2) ∧
    -- a reset, and one while a reset is under way
    ((evAt {}).ctxBlock 4095).rstbusy = false ∧ (∀ p ∈ (evAt {}).dev.queues, p.2.launches = []) ∧
    ((evDev {} fun d => { d with ctxs := [(0, { rstbusy := true })] }).ctxBlock 0).rstbusy = true := by
  refine ⟨rfl, rfl, by decide +kernel, rfl, rfl, ⟨rfl, by decide +kernel⟩, by decide +kernel, by decide +kernel, by decide +kernel, by decide +kernel, rfl,
    (fun _ h => nomatch h), rfl⟩

/-- The fields of a coded range of one page at the lowest view address, of format 3 with one free segment. -/
def range0 : Nat := 0x40000000000 + 2 + 4 * 3 + 2 ^ 96 + 0x40000 * 2 ^ 192 + 0x50000 * 2 ^ 256 + 2 ^ 320 + 0x60000 * 2 ^ 384
/-- The device with that range 0. -/
def sRange (r : Range) : State := evDev {} fun d => { d with ranges := [(0, r)] }

theorem test_witness_FormatRangesAct :
    (let r : Range := { word := BitVec.ofNat 512 range0 }
     let v : W64 := w64 (0x40000000000 + 15)
     let new : Range := { r with word := BitVec.ofNat 512 (setBits r.word.toNat 63 0 (v.toNat &&& (2 ^ 56 - 2 ^ 12 + 0x3F))) }
     v.getLsbD 0 = true ∧ r.v = false ∧ r.busy = false ∧ (sRange r).rangeRefused 0 new = false ∧ new.v = true ∧ new.coded = true) ∧
    (sRange {}).rangeRefused 0 {} = true ∧
    -- a valid range, coded and not, and a busy one with and without a dirty sector
    (∀ n ∈ [range0 + 1, range0 - 1], let r : Range := { word := BitVec.ofNat 512 n }
      ((sRange r).range 0).v = true ∧ r.coded = (n == range0 + 1) ∧ r.poolsz < (2 : W64).toNat % 2 ^ 32 ∧ (1 : W64).toNat % 2 ^ 32 ≤ r.poolsz) ∧
    (let r : Range := { word := BitVec.ofNat 512 range0, old := BitVec.ofNat 512 (range0 + 1), busy := true }
     ((sRange r).range 0).busy = true ∧ (∀ k ∈ (sRange r).viewDirty, ¬(r.live.start ≤ 64 * k))) ∧
    -- a dirty block, with room for it and without
    (∀ free ∈ [1, 0], let r : Range := { word := BitVec.ofNat 512 (range0 + 1), free := free, waiting := [0] }
      let s := { sRange r with viewDirty := [0x40000000000 / 64], viewHeld := [0x40000000000 / 64] }
      s.blockDirty 0 0 = true ∧ 0 ∈ (s.range 0).waiting) ∧
    (sRange {}).blockDirty 0 0 = false := by
  refine ⟨by decide +kernel, by decide +kernel, by decide +kernel, ⟨rfl, fun _ h => nomatch h⟩, by decide +kernel, by decide +kernel⟩

/-- Line 0 of LPDDR-6 with byte 0 written. -/
def lineL : Line := { line := 0, granule := 0, bytes := [(0, 7)], masked := [0, 255] }
/-- The device with LPDDR-6 fitted. -/
def evFit (x : Bench) : State := evDev x fun d => { d with boot := { d.boot with fitted := (0x100000, 0) } }
/-- An atomic that the gate of die 0 holds, and a log entry that names it. -/
def held0 : HeldAtomic :=
  { who := .frag 0 0 0, grid := 1, group := 0, wave := 0, pc := 0, lane := 0, pa := pa0, va := 0, op := 0, size := 4, b := 1, c := 0, aq := 0, since := 0 }
/-- The entry that names it, with its run count. -/
def entry0 (run : Nat) : Nat := pa0 / 256 * 2 ^ 8 + 1 * 2 ^ 56 + run * 2 ^ 96
/-- The device with an arbitration block. -/
def sArb (a : Arb) : State := { evAt {} with dies := [(0, { arb := a })] }

theorem test_witness_LineErrorAndGateEventsAct :
    -- a line
    (evFit { lines := [lineL] }).MemOk ∧ ((evFit { lines := [lineL] }).bench 0).lines.find? (fun x => x.line == 0) = some lineL ∧
    (∀ o ∈ lineL.masked, o < 256) ∧ (∀ i, i < 256 → (evFit { lines := [lineL] }).place (256 * 0 + i) = .lpddr 0) ∧
    (∀ k, k < 4 → (evFit { lines := [lineL] }).reach (dieOf 0) (256 * 0 + 64 * k) 1 = none) ∧
    -- errors: of LPDDR-6 and of a vault, with the map full and not; of a bench store; of a view
    (evFit {}).place 0 = .lpddr 0 ∧ (evFit {}).place pa0 = .vault 0 ∧ (evFit {}).place storeBase = .store 0 0 ∧ (evFit {}).poisonOf 0 = none ∧
    (let s := evDev {} fun d => { d with poison := { base := BitVec.ofNat 56 (vaultBase + 0x20000) } }
     let at_ := s.dev.poison.base.toNat + 8 * (s.dev.poison.widx % 2 ^ s.dev.poison.log2n)
     (∃ v, s.place at_ = .vault v) ∧ s.reachAll 0 at_ 8 = none ∧ s.poisoned = [] ∧ at_ % 2 ^ 44 / 64 ≠ pa0 % 2 ^ 44 / 64 ∧
       s.dev.poison.widx - s.dev.poison.ridx < 2 ^ s.dev.poison.log2n) ∧
    ({ evFit {} with poisoned := [(0, 0)] } : State).poisonOf 0 ≠ none ∧
    (sRange { word := BitVec.ofNat 512 (range0 + 1) }).place 0x40000000000 = .view 0 ∧
    -- MODE written: as it is, RECORD, and away from REPLAY with nothing held
    ((sArb {}).die 1).arb.mode = 0 ∧ ((sArb { mode := 2 }).die 0).arb.mode = 2 ∧ ((sArb { mode := 2 }).die 0).arb.held = [] ∧
    -- the gate: its log ended, an entry that names the atomic, alone or with more in its run, and one that does not
    (let a := ((sArb { mode := 2, held := [held0] }).die 0).arb
     a.mode = 2 ∧ a.held = [held0] ∧ a.ridx = a.widx) ∧
    (∀ run ∈ [1, 2], ∀ w ∈ [entry0 run, 0],
      let a := ((sArb { mode := 2, widx := 1, held := [held0], head := some w }).die 0).arb
      a.mode = 2 ∧ a.held = [held0] ∧ a.ridx ≠ a.widx ∧ a.head = some w ∧ w < 2 ^ 128 ∧
        ((bitsOf w 55 8 = held0.pa % 2 ^ 56 / 256 ∧ bitsOf w 63 56 = held0.grid % 256 ∧ bitsOf w 87 64 = held0.group ∧
          bitsOf w 91 88 = held0.wave) ↔ w ≠ 0)) ∧
    -- held too long, and not
    (let s := { evDev {} fun d => { d with ptc := { d.ptc with ptc := 100000 } } with dies := [(0, { arb := { mode := 2, held := [held0] } })] }
     ∃ h ∈ ((s.die 0).arb).held, h.since + 1000 * ((s.die 0).arb).gateto ≤ s.dev.ptc.ptc) ∧
    (∀ h ∈ ((sArb { mode := 2, held := [held0] }).die 0).arb.held, ¬h.since + 1000 * 100 ≤ (sArb {}).dev.ptc.ptc) := by
  refine ⟨memOk0, by decide, by decide, by decide +kernel, by decide +kernel, by decide +kernel, by decide +kernel, by decide +kernel, rfl,
    ⟨⟨0, by decide +kernel⟩, by decide +kernel, rfl, by decide +kernel, by decide +kernel⟩, by decide +kernel, by decide +kernel, rfl, rfl, rfl,
    ⟨rfl, rfl, rfl⟩, by decide +kernel, ⟨held0, by decide, by decide +kernel⟩, by decide +kernel⟩

/-- Cells of each state, a held clock, and a device whose power is off. -/
theorem test_witness_FeatureOwnershipAndPowerEventsAct :
    (evAt {}).dev.boot.qdone = true ∧ (evAt {}).dev.features.done = false ∧
    (evDev {} fun d => { d with boot := { d.boot with qdone := false }, features := { done := true } }).dev.boot.qdone = false ∧
    (evDev {} fun d => { d with boot := { d.boot with qdone := false }, features := { done := true } }).dev.features.done = true ∧
    (∀ own ∈ [0, 1, 2], ((evDev {} fun d => { d with owners := [(31, { own := own })] }).dev.owners.get 31 {}).own = own) ∧
    (some (5 : W64)).map (fun v : W64 => v.toNat % 4) = some 1 ∧ (some (2 : W64)).map (fun v : W64 => v.toNat % 4) = some 2 ∧
    (∀ st ∈ [0, 1, 2, 3, 4], ((evDev {} fun d => { d with cells := [(31, { state := st })] }).dev.cells.get 31 {}).state = st) ∧
    (evAt {}).cellIdle 31 = true ∧ (evAt (bench0 wave0 group0)).cellIdle 0 = false ∧ (1 : W64).getLsbD 0 = true ∧
    (evAt {}).clockHeld 0 = false ∧ (evAt {}).clockHeld 1 = false ∧
    (let s := evAt { rings := [(0, { ringT with armed := false, begun := true })] }
     s.clockHeld 0 = true ∧ s.domain (dieOf 0) = s.domain 0 ∧ (s.ring 0 0).timed = true ∧ (s.ring 0 0).state = .running ∧ (s.ring 0 0).begun = true ∧
       (s.ring 0 0).armed = false ∧ s.domain (dieOf 128) ≠ s.domain 0) ∧
    (let s := evAt { rings := [(0, { ringT with armed := false, begun := true }), (1, ringT)] }
     s.clockHeld 0 = true ∧ (s.ring 0 1).timed = true ∧ (s.ring 0 1).state = .running ∧ (s.ring 0 1).armed = true) ∧
    (let s := { evDev {} fun d => { d with power := { off := true } } with agenda := [.nanosecond] }
     s.dev.power.off = true ∧ s.nextTurn.1 ≠ .event .deviceReset) := by decide +kernel

/-- What boot finds in flash is given by Config and the root key, of which nothing is fixed: any configuration and image stand in
some flash, and any image that is not empty in the window. -/
theorem test_witness_DeviceResetBoots :
    (∀ c m : List Byte, ∃ s : State, s.dev.boot.flashConfig = c ∧ s.dev.boot.flashImage = m) ∧
    (∀ c image : List Byte, ∃ s : State, s.dev.boot.flashConfig = c ∧ s.dev.boot.recov = true ∧ s.dev.boot.window.take image.length = image) :=
  ⟨fun c m => ⟨evDev {} fun d => { d with boot := { d.boot with flashConfig := c, flashImage := m } }, rfl, rfl⟩,
   fun c i => ⟨evDev {} fun d => { d with boot := { d.boot with flashConfig := c, recov := true, window := i } }, rfl, rfl, List.take_length⟩⟩

theorem test_witness_SchedulingRegistersAct :
    -- a queue's V needs the commit; the context table, no valid queue
    (evAt {}).dev.features.done = false ∧ (0x80000 : W64).getLsbD 19 = true ∧ (0 : W64).getLsbD 19 = false ∧
    (∀ p ∈ (evAt {}).dev.queues, p.2.v = false) ∧ (∃ p ∈ (evDev {} fun d => { d with queues := [(0, { v := true })] }).dev.queues, p.2.v = true) ∧
    -- a partition at its limits, and past each
    (∀ p ∈ [((32 + 32 * 2 ^ 6 + 32 * 2 ^ 12 + 2048 * 2 ^ 24 + 2048 * 2 ^ 37 : Nat), false), (33, true), (33 * 2 ^ 6, true), (2 ^ 12, true), (4096 * 2 ^ 24 + 2 ^ 37, true)],
      let n := p.1
      let sum (f : Part → Nat) : Nat :=
        ((List.range 8).filter (· != 7)).foldl (fun a k => a + f (((evAt {}).bench 255).parts.get k {})) 0
      decide (bitsOf n 11 6 < bitsOf n 17 12 ∨ 32 < bitsOf n 5 0 + sum (·.wq) ∨ 32 < bitsOf n 11 6 + sum (·.gq) ∨
        4096 < bitsOf n 36 24 + bitsOf n 49 37 + sum fun x => x.rq + x.sq) = p.2) ∧
    -- a mailbox with room, a full one, and one of a cell that is off
    (evAt {}).cellOn (cellOf 255) = true ∧ (∀ n ∈ [0, 15, 16], ((evAt { mailbox := List.replicate n (0, []) }).bench 0).mailbox.length = n) ∧
    (evDev {} fun d => { d with cells := [(0, { state := 3 })] }).cellOn (cellOf 0) = false ∧
    -- a grandmaster with no timed ring, and another
    (let s := evDev {} fun d => { d with ptc := { d.ptc with role := 2 } }
     s.dev.ptc.role = 2 ∧ s.timedBusy = false ∧ s.dev.ptc.ptc ≤ (0 : W64).toNat) ∧ (evAt {}).dev.ptc.role ≠ 2 ∧
    -- no ring bound at RSEL, and one; QDONE and DONE at each value
    ((evAt {}).bench 0).csr.rsel = 0 ∧ (((evAt {}).bench 0).ring 0).bound = false ∧ (((evAt { rings := [(0, ring0)] }).bench 0).ring 0).bound = true ∧
    (1 : W64).getLsbD 0 = true ∧ (0 : W64).getLsbD 0 = false ∧ (evAt {}).dev.boot.qdone = true ∧
    (evDev {} fun d => { d with boot := { d.boot with qdone := false } }).dev.boot.qdone = false ∧
    (evDev {} fun d => { d with features := { done := true } }).dev.features.done = true ∧
    DevReg.ofOff ((deviceBase + 0xF8) % 2 ^ 44 - deviceBase) = none ∧ (deviceBase + 4) % 8 ≠ 0 := by decide +kernel

/-- A launch of one group that depends on nothing, at a stage. -/
def launchAt (stage : Nat) (r : Nat) : Launch := { num := 1, record := BitVec.ofNat 512 r, launch := 0, stage := stage }
/-- The device with that launch in queue 63. -/
def sQueue (l : Launch) (x : Bench) : State := evDev x fun d => { d with queues := [(63, { v := true, acc := 1, launches := [l] })] }
/-- A launch that names ring 0 of bench 0 at 1. -/
def launchL : Launch := launchAt 1 (launch0 - 0x1FFF * 2 ^ 330 + 2 ^ 384)
/-- A launch with a predicate: the word at 0x10000 against 0. -/
def launchP (cmp : Nat) : Launch := launchAt 1 (launch0 + cmp * 2 ^ 247 + 0x4000 * 2 ^ 192)
/-- A bench with room for one wave. -/
def benchF : Bench := { parts := [(0, part0)], regionMap := [(64, 0)] }
/-- The place of a group there. -/
def fit0 : Fit := { waves := [0], gslot := 0, runs := [64], scratch := [] }
/-- A head that is eligible there, at a priority, with these passes open. -/
def sHead (pri : Nat) (ps : Tbl Pass) : State :=
  { evDev benchF fun d => { d with queues := [(63, { pri := pri, v := true, acc := 1, launches := [launchAt 3 launch0] })] } with passes := ps }
/-- A pass with a mesh group in its queue. -/
def passM : Pass := { pass0 5 with mrec := BitVec.ofNat 512 launch0, queue := [⟨0, 0, 0⟩] }

theorem test_witness_DistributorAndSplitEventsAct :
    -- no head; a head that is not met, one that is, with no predicate and with either outcome, and one that is lost
    ((evAt {}).queue 0).head = none ∧
    (∀ l ∈ [launchAt 1 launch0, launchP 4, launchP 3], let s := sQueue l {}
      (s.queue 63).head = some l ∧ l.stage = 1 ∧ (∀ i, i < 4 → s.depMet l i = true) ∧ s.names s.ringAborted [] l = false) ∧
    recF (launchAt 1 launch0).record 249 247 = 0 ∧
    (∀ p ∈ [(4, true), (3, false)], let s := sQueue (launchP p.1) {}
      recF (launchP p.1).record 249 247 = p.1 ∧ (s.predicateWord 0 (sextVa (recF (launchP p.1).record 246 192 * 4))).toOption = some (0, s) ∧
        predHolds p.1 0 (recF (launchP p.1).record 287 256) = p.2) ∧
    (let s := sQueue launchL {}
     s.depMet launchL 0 = false ∧ s.names s.ringAborted [] launchL = false) ∧
    (let s := sQueue launchL { rings := [(0, { ring0 with state := .aborted })] }
     launchL.stage = 1 ∧ s.names s.ringAborted [] launchL = true) ∧
    -- nothing eligible, one head below priority 7 with a mesh group and without, and one at priority 7
    (evAt {}).eligible 0 = [] ∧
    (∀ pr ∈ [0, 7], ∀ ps ∈ [([] : Tbl Pass), [(0, passM)]],
      ((sHead pr ps).eligible 0).length = 1 ∧ (∀ x ∈ (sHead pr ps).eligible 0, x.1 = 63 ∧ x.2.1 = pr ∧ x.2.2.1 = launchAt 3 launch0 ∧ x.2.2.2 = [(0, fit0)]) ∧ (sHead pr ps).meshEligible 0 = !ps.isEmpty) ∧
    -- a mesh group that has no place, and one that has
    (let p := passM
     p.queue = ⟨0, 0, 0⟩ :: [] ∧ (evAt {}).bestBench 0 p.mrec false [0] = none ∧
       (evAt benchF).bestBench 0 p.mrec false (((evAt benchF).benches.map (·.1)).filter fun b => passIn p.record (cellOf b)) =
         some (0, fit0)) := by
  and_intros <;> decide +kernel

/-- The stages of a split, with its semaphore below its end and at it. -/
theorem test_witness_DistributorAndSplitEventsAct_split :
    (∀ n ∈ [0, 2 ^ 32 - 1], ∀ st ∈ [0, 1, 2, 3, 4],
      let p : Pass := { pass0 5 with split := st }
      let s := { sPass { rings := [(0, ring0)], sems := [(0, n)] } 5 with passes := [(0, p)] }
      s.pass? 0 0 = some p ∧ s.passBad p = none ∧ s.passRuns p = true ∧ s.remoteOpen p.who = false ∧ (s.ring 0 0).bound = true ∧
        ((s.release 0 5).bench 0).sem (((s.release 0 5).bench 0).physical 0 (recF p.record 295 288)) = n) ∧
    (let p : Pass := { pass0 5 with split := 1 }
     let q : Pass := { p with segs := p.segs + 1, split := 4 }
     let r := ((sPass {} 5).modPass 0 0 fun _ => q).passWrites 0 0 0 [q.statusWrite true]
     r.1 = true ∧ r.2.remoteOpen q.who = false) ∧
    (let p : Pass := { pass0 5 with split := 0, nextch := passC0 (pass0 5).record }
     (((sPass {} 5).modPass 0 0 fun _ => p).passWrites 0 0 0
       (((List.range (cdiv (16 * passTiles p.record) 128)).map fun k =>
         (passPb p.record + 128 * k, List.replicate (min 128 (16 * passTiles p.record - 128 * k)) (0 : Byte))) ++ [p.statusWrite true])).1 = true) := by
  decide +kernel

/-- A wave whose one fragment waits. -/
def waveW (k : Wait) : Wave := { wave0 with frags := [(0, { frag0 with wait := some k })] }
/-- A bench with it. -/
def benchW (k : Wait) : Bench := bench0 (waveW k) group0

theorem test_witness_WaveEventsAct :
    s0.wcx = some c0 ∧
    -- a counter at 0, one that nobody waits for, and one with each kind of waiter behind another counter's
    ((evAt {}).bench 0).sem 255 = 0 ∧ ((evAt {}).bench 0).semWaits = [] ∧
    (∀ w ∈ [SemWaiter.frag 0 0, .ring 0, .gaffer, .pass 0 0],
      let s := evAt { sems := [(0, 1)], semWaits := [(1, .gaffer), (0, w)], gaffer := { blocked := some (.sem 0 5) } }
      (s.bench 0).semWaits = [(1, .gaffer)] ++ (0, w) :: [] ∧ (∀ p ∈ [(1, SemWaiter.gaffer)], p.1 ≠ 0) ∧ (s.bench 0).sem 0 ≠ 0 ∧
        (s.bench 0).gaffer.blocked = some (.sem 0 5)) ∧
    -- a barrier that a wave has not reached, and one that all have; the same for a cluster of one group
    groupArrived (bench0 wave0 group0).waves group0 .bar = false ∧ groupArrived (benchW .bar).waves group0 .bar = true ∧ group0.waves.Nodup ∧
    (∀ p ∈ (benchW .bar).waves, (p.2.frags.map (·.1)).Nodup) ∧ (evAt (benchW .bar)).group? 0 0 = some group0 ∧ group0.cluster = [] ∧
    (evAt (benchW .cbar)).member group0 0 0 = some (group0, (benchW .cbar).waves, false) ∧
    groupArrived (benchW .cbar).waves group0 .cbar = true ∧ groupArrived (bench0 wave0 group0).waves group0 .cbar = false ∧
    (evAt {}).group? 0 0 = none ∧
    -- a timeline wait, met and not, of a fragment and of a gaffer
    (let s := evAt { benchW (.timeline 0 1 63) with rings := [(0, { ring0 with tl := 1 })], gaffer := { blocked := some (.timeline 0 1 5) } }
     s.wave? 0 0 = some (waveW (.timeline 0 1 63)) ∧ tlMet (s.tl (.ofSel 0)) 1 = true ∧ tlMet (s.tl (.ofSel 0)) 2 = false ∧
       (s.bench 0).gaffer.blocked = some (.timeline 0 1 5) ∧ (s.bench 0).gaffer.aborted = false ∧ 1 ≤ s.tl (.ofSel 0) ∧ s.tl (.ofSel 0) < 2) ∧
    -- a sleep: over by its cycle, by an interrupt, and not over
    (∀ p ∈ [((some 0 : Option Nat), (0 : W32), true), (none, 1, true), (none, 0, false), (some 1, 0, false)],
      let s := evAt (bench0 (waveW (.sleep p.1)) { group0 with uli := p.2.1 })
      s.wave? 0 0 = some (waveW (.sleep p.1)) ∧ ((s.group? 0 0).any (fun g => g.uli != 0) || p.1.any (fun c => decide (c ≤ s.cycle 0))) = p.2.2) ∧
    -- a spilled entry that is filled
    (let f : Frag := { frag0 with onChip := false }
     let w : Wave := { wave0 with frags := [(0, f)] }
     let s := evAt (bench0 w group0)
     s.fragReady 0 0 0 w { f with onChip := true } = true ∧ (s.bench 0).waves = [(0, w)] ∧ (w.frags.map (·.1)).Nodup ∧
       (s.fillEntry 0 0 group0.ctx 0).toOption.isSome = true ∧ w.onChip.length < 16) ∧
    -- a full table of entries inside bypass windows
    (let w : Wave := { wave0 with frags := (List.range 16).map fun i => (i, { frag0 with mask := 1, win := { left := 1 } }) }
     16 ≤ w.onChip.length ∧ w.victim [] = none) := by
  refine ⟨rfl, ?_⟩
  and_intros <;> decide +kernel

/-- A wave whose group has a pending code, and a lane copy of 4 bytes at an address. -/
def groupU : Group := { group0 with uli := 5 }
/-- A lane copy. -/
def copyAt (va : Nat) : LaneCopy :=
  { id := 7, op := 0, slot := 0, lane := 0, ctx := 0, part := 0, batch := 1, pc := 0, out := true, va := w64 va, scr := 0x10000, size := 4 }

theorem test_witness_InterruptCopyAndTimingEventsAct :
    -- a delivery: enabled, with a fragment that would issue; and one that is not enabled
    (let s := evDev (bench0 wave0 groupU) fun d => { d with ctxs := [(0, { ulivec := 0x4000, ulistk := 0x8000 })] }
     s.wave? 0 0 = some wave0 ∧ s.group? 0 0 = some groupU ∧ (s.ctxBlock 0).ulivec ≠ 0 ∧
       s.delivers 0 0 wave0 = [0] ∧ s.dev.fabric.remotes = [] ∧
       groupU.waves.find? (fun n => (s.wave? 0 n).any fun x => x.frags != []) = some 0 ∧ wave0.inHandler = false ∧ wave0.onChip.length < 16) ∧
    ((evAt {}).ctxBlock 0).ulivec = 0 ∧
    -- a copy: none, one that is performed, one that faults, one that stops
    ((evAt {}).bench 0).copies = [] ∧
    (∀ p ∈ [(0x10000, true), (2 ^ 60, false)], let s := evAt { bench0 wave0 group0 with copies := [copyAt p.1] }
      (s.bench 0).copies.find? (fun x => x.id == 7) = some (copyAt p.1) ∧ (copyAt p.1).parked = false ∧ ((s.bench 0).ctx 0).draining = false ∧
        ((s.bench 0).ctx 0).drained = false ∧ ((s.bench 0).ctx 0).saved = false ∧ (s.performCopy 0 (copyAt p.1)).toOption.isSome = p.2) ∧
    -- the watchdog: a parked fragment and one that is not
    frag0.parked = false ∧ ({ frag0 with wait := some (.sem 0) } : Frag).parked = true ∧ wave0.holds 0 = false ∧
    ({ wave0 with held := true } : Wave).holds 0 = true ∧ ((evAt (benchW .bar)).bench 0).ctxStops 0 = false ∧
    -- a ring with commands left and one without; a missing command
    ring0.tl = ring0.wp ∧ ((evAt { rings := [(0, { ring0 with wp := 1 })] }).ring 0 0).tl ≠ 1 ∧
    (∀ p ∈ [(256, false), (257, true)],
      let r : Ring := { ringT with armed := false, begun := true }
      let s := { evAt { rings := [(0, r)] } with dies := [(0, { cycle := p.1 })] }
      (s.ring 0 0) = r ∧ r.timed = true ∧ r.state = .running ∧ r.rp = r.wp ∧ r.fin = none ∧ (s.bench 0).ringStops r = false ∧
        decide (r.lastT + 256 + r.slip < s.cycle 0) = p.2) ∧
    -- a rendezvous at its tick, before it and after it
    (∀ ptc ∈ [26, 27, 28],
      let s := { evDev { rings := [(0, ringT)], gaffer := { blocked := some (.tick 27 5) } } fun d => { d with ptc := { d.ptc with ptc := ptc } } with
                 dies := [(0, { tkbars := [(0, 27, 1)] })] }
      s.domain 0 = 0 ∧ (s.die 0).tkbars = [(0, 27, 1)] ∧ (s.bench 0).gaffer.blocked = some (.tick 27 5) ∧ s.dev.ptc.ptc = ptc ∧
        (1 : Nat).testBit 0 = true ∧ (s.ring 0 0).timed = true ∧ (s.ring 0 0).armed = true ∧ (s.ring 0 0).state = .running) := by
  and_intros <;> decide +kernel

theorem set_last {α : Type} {k : Nat} {v : α} : ∀ {t : Tbl α}, (∀ p ∈ t, p.1 < k) → t.set k v = t ++ [(k, v)]
  | [], _ => rfl
  | (_, _) :: _, h => by
    simp only [Tbl.set, List.cons_append, if_pos (h _ (.head _))]
    rw [set_last fun p m => h p (.tail _ m)]

theorem putImg_run (bs : List Byte) (n : Nat) :
    (List.range n).foldl (fun (t : Tbl Byte) i => t.set (0 + i) (bs.getD i 0)) [] = (List.range n).map fun i => (i, bs.getD i 0) := by
  induction n with
  | zero => rfl
  | succ n ih =>
    rw [List.range_succ, List.foldl_append, ih, List.map_append]
    exact (set_last fun p m => by
      obtain ⟨i, hi, rfl⟩ := List.mem_map.mp m
      simpa using List.mem_range.mp hi).trans (by simp)

/-- One piece that is at least as long as what is gathered from it. -/
theorem gathered_take (bs : List Byte) (n : Nat) (h : n ≤ bs.length) : gathered [(0, bs)] n = some (bs.take n) := by
  have h1 : putImg [] 0 bs = (List.range bs.length).map fun i => (i, bs.getD i 0) := putImg_run bs bs.length
  have e : (List.range bs.length).map (fun i => bs.getD i 0) = bs := by
    apply List.ext_getElem <;> simp
    intro i hi
    simp [List.getElem?_eq_getElem hi]
  have k : (List.range bs.length).take n = List.range n := by rw [List.take_range, Nat.min_eq_left h]
  simp [gathered, h1, ← List.map_take, List.map_map, Function.comp_def, k, Nat.not_lt.mpr h]
  have := congrArg (List.take n) e
  rw [← List.map_take, k] at this
  simpa using this

theorem gathered_zeros (n : Nat) : gathered [(0, List.replicate n 0)] n = some (List.replicate n 0) := by
  simpa using gathered_take (List.replicate n 0) n (by simp)

/-- A flit of 8 bytes to this package at an offset of vault 0. -/
def flitAt (type src addr aop : Nat) (bs : List Byte) : Flit :=
  { type := type, vc := 0, dst := 0, src := src, tag := 7, len := bs.length, sts := 0, aop := aop, asz := 1, addr := addr, payload := bs }

theorem test_witness_FlitAndLinkEventsAct :
    (evAt {}).MemOk ∧ (evAt {}).dev.fabric.pkgid = 0 ∧ flit0.dst ≠ (evAt {}).dev.fabric.pkgid ∧
    -- admitted and not; aligned, and not with AOP bit 0; the place
    (∀ type ∈ [(0, 2), (2, 3), (4, 4)], let f (src addr aop : Nat) : Flit := flitAt type.1 src addr aop (leBytes 8 0)
      (evAt {}).admits false type.2 (f 1 pa0 0) pa0 8 = false ∧ (evAt {}).admits false type.2 (f 0 pa0 0) pa0 8 = true ∧
      ((f 0 (pa0 + 4) 1).aop % 2 = 1 ∧ (f 0 (pa0 + 4) 1).len ≠ 0 ∧ (f 0 (pa0 + 4) 1).addr % (f 0 (pa0 + 4) 1).len ≠ 0) ∧
      (f 0 pa0 0).aop % 2 ≠ 1 ∧ 4 * 2 ^ (f 0 pa0 0).asz = 8 ∧ (f 0 pa0 0).dst = 0) ∧
    (∃ v, (evAt {}).place (0 * 2 ^ 44 + pa0) = .vault v) ∧ (evAt {}).reachAll ((evAt {}).nearDie (0 * 2 ^ 44 + pa0)) (0 * 2 ^ 44 + pa0) 8 = none ∧
    -- an AT flit that is legal, and the two that are not; SIG
    (flitAt 4 0 pa0 11 []).aop ≤ 11 ∧ 11 < (flitAt 4 0 pa0 12 []).aop ∧ 2 < ({ flitAt 4 0 pa0 0 [] with asz := 3 } : Flit).asz ∧
    (evAt {}).admits true 3 (flitAt 6 0 0 0 []) 65535 1 = true ∧ (evAt {}).admits true 3 (flitAt 6 1 0 0 []) 65535 1 = false ∧
    (∀ n ∈ [0xFFFFFFFE, 0xFFFFFFFF], ((evAt { sems := [(255, n)] }).bench (255 / 256)).sem (255 % 256) = n) ∧
    -- a piece short of a header, and a header short of its packet
    gathered [(0, List.replicate 31 0)] 32 = none ∧ (gathered [(0, List.replicate 32 0)] 32).isSome = true ∧
    gathered [(0, List.replicate 32 0)] (packetSize false false) = none ∧
    gathered [(0, List.replicate (packetSize false false) 0)] (packetSize false false) = some (List.replicate (packetSize false false) 0) ∧
    -- a SYNC of a follower, and a response
    ((evDev {} fun d => { d with ptc := { d.ptc with role := 1, bound := 100 } }).dev.ptc.role = 1) ∧ (evAt {}).dev.ptc.role ≠ 1 ∧
    (∀ type ∈ [0, 2, 4, 6], let r : Remote := { who := .frag 0 0 0, key := 0, req := { flit0 with type := type } }
      let f : Flit := { flitAt (type + 1) 1 0 0 [] with tag := 7 }
      r.req.tag = f.tag ∧ r.req.dst = f.src ∧ r.req.type + 1 = f.type ∧ r.resp = none) ∧
    ((evAt {}).dev.fabric.remotes = []) ∧
    -- a lockstep package with a timed ring that has begun
    (let s := evDev { rings := [(0, { ringT with armed := false, begun := true })] } fun d => { d with boot := { d.boot with lockstep := true } }
     s.dev.boot.lockstep = true ∧ (s.ring 0 0).timed = true ∧ (s.ring 0 0).state = .running ∧ (s.ring 0 0).begun = true ∧ (s.ring 0 0).armed = false) ∧
    (evAt {}).dev.boot.lockstep = false ∧ ((evAt { csr := { xie := 0x80000 } }).bench 0).csr.xie.getLsbD 19 = true := by
  have h : (evAt {}).place (0 * 2 ^ 44 + pa0) = .vault 0 := by decide +kernel
  refine ⟨memOk0, ?_⟩
  and_intros <;> first | exact gathered_zeros _ | exact ⟨0, h⟩ | decide +kernel

/-- The header of a packet of group 5, of tile `t` and rank `r`. -/
def hdrC (t r : Nat) : List Byte := packetHeader 5 false false false 0 t r r 0
/-- That packet, of zeros. -/
def packC (t r : Nat) : List Byte := packetBytes (hdrC t r) (List.replicate 2048 0)
/-- Group 5 of two ranks and one tile, at the root, in slot 15. -/
def wordC : BitVec 512 := BitVec.ofNat 512 (1 + 2 ^ 3 + 1 * 2 ^ 4 + 5 * 2 ^ 16 + 2 ^ 128 + 2 ^ 224 + 2 ^ 256)
/-- A packet of rank 0 that is held. -/
def pack0 : Packet := { frame := 0, tile := 0, rlo := 0, rhi := 0, miss := 0, colour := [], depth := [] }
/-- The device with that group, which holds these packets. -/
def sHeld (ps : List Packet) : State := evDev {} fun d => { d with composites := [(15, { word := wordC, held := ps })] }

theorem packet_parts (h pl : List Byte) (hl : h.length = 32) :
    (packetBytes h pl).take 32 = h ∧ (packetBytes h pl).length = pl.length + 36 ∧
    leNat ((packetBytes h pl).drop (pl.length + 32)) = (crc32c ((packetBytes h pl).take (pl.length + 32))).toNat := by
  have hn : (h ++ pl).length = pl.length + 32 := by rw [List.length_append, hl, Nat.add_comm]
  have h4 (v : W32) : leNat (leBytes 4 v.toNat) = v.toNat := by
    have := v.isLt
    simp [leBytes, leNat]
    omega
  refine ⟨?_, ?_, ?_⟩
  · rw [packetBytes, List.append_assoc]
    exact List.take_left' hl
  · rw [packetBytes, List.length_append, hn]
    simp [leBytes]
  · rw [packetBytes, ← hn, List.drop_left, List.take_left, h4]

theorem leBytes_len (n w : Nat) : (leBytes n w).length = n := by
  induction n generalizing w with
  | zero => rfl
  | succ n ih => rw [leBytes, List.length_cons, ih]

theorem packC_parts (t r : Nat) : (packC t r).take 32 = hdrC t r ∧ (packC t r).length = packetSize false false ∧
    leNat ((packC t r).drop (packetSize false false - 4)) = (crc32c ((packC t r).take (packetSize false false - 4))).toNat := by
  have e : packetSize false false = 2048 + 36 := by decide
  have d : 2048 + 36 - 4 = 2048 + 32 := by decide
  have (pl : List Byte) (n : Nat) (hn : pl.length = n) : (packetBytes (hdrC t r) pl).take 32 = hdrC t r ∧
      (packetBytes (hdrC t r) pl).length = n + 36 ∧
      leNat ((packetBytes (hdrC t r) pl).drop (n + 32)) = (crc32c ((packetBytes (hdrC t r) pl).take (n + 32))).toNat := by
    subst hn
    exact packet_parts _ _ (leBytes_len 32 _)
  rw [e, d]
  exact this _ _ List.length_replicate

/-- A whole packet that its group takes: with the other input held, without it, for the next frame; one of no group, and one of a
tile that the group has not. -/
theorem test_witness_FlitAndLinkEventsAct_packet :
    (∀ t r, gathered [(0, packC t r)] 32 = some (hdrC t r) ∧ gathered [(0, packC t r)] (packetSize false false) = some (packC t r) ∧
      leNat ((packC t r).drop (packetSize false false - 4)) = (crc32c ((packC t r).take (packetSize false false - 4))).toNat) ∧
    (∀ r ∈ [0, 1], let p := packetOf (packC 0 r)
      (leNat (hdrC 0 r)).testBit 18 = false ∧ (leNat (hdrC 0 r)).testBit 16 = false ∧ leNat (hdrC 0 r) % 2 ^ 16 = 5 ∧ p.frame = 0 ∧ p.tile = 0 ∧
        p.rlo = r ∧ p.rhi = r) ∧
    (packetOf (packC 1 0)).tile = 1 ∧
    (∀ ps ∈ [[], [pack0]], (sHeld ps).settleTime.dev.composites = [(15, { word := wordC, held := ps })]) ∧
    (let c : Composite := { word := wordC, held := [pack0] }
     c.word.getLsbD 0 = true ∧ c.word.getLsbD 3 = true ∧ c.f 31 16 = 5 ∧ c.f 63 32 = 0 ∧ c.f 255 224 ≠ 0 ∧ c.f 276 256 = 1 ∧
       c.inputs = ((0, 0), (1, 1)) ∧ (0, 0) ∉ c.emitted ∧ c.spoiled = false ∧
       c.held.find? (fun q => q.frame == 0 && q.tile == 0 && q.rlo == 1 && q.rhi == 1) = none ∧
       (c.held.find? fun q => q.frame == 0 && q.tile == 0 && q.rlo == 0 && q.rhi == 0) = some pack0) ∧
    (evAt {}).settleTime.dev.composites = [] := by
  have hp (t r : Nat) : (packC t r).take 32 = hdrC t r := (packC_parts t r).1
  have hl (t r : Nat) : (packC t r).length = packetSize false false := (packC_parts t r).2.1
  refine ⟨fun t r => ⟨?_, ?_, (packC_parts t r).2.2⟩, fun r hr => ?_, ?_, ?_, ?_, ?_⟩
  · rw [← hp]
    exact gathered_take _ _ (by rw [hl]; decide)
  · rw [gathered_take _ _ (Nat.le_of_eq (hl t r).symm), ← hl t r, List.take_length]
  · have h : ∀ r ∈ [0, 1], (leNat (hdrC 0 r)).testBit 18 = false ∧ (leNat (hdrC 0 r)).testBit 16 = false ∧ leNat (hdrC 0 r) % 2 ^ 16 = 5 ∧
        bitsOf (leNat (hdrC 0 r)) 63 32 = 0 ∧ bitsOf (leNat (hdrC 0 r)) 83 64 = 0 ∧ bitsOf (leNat (hdrC 0 r)) 101 96 = r ∧
        bitsOf (leNat (hdrC 0 r)) 107 102 = r := by decide +kernel
    simpa [packetOf, hp] using h r hr
  · rw [packetOf, hp]
    exact (by decide +kernel : bitsOf (leNat (hdrC 1 0)) 83 64 = 1)
  all_goals decide +kernel

/-- A composite group with TILES = 1, a deadline and a period, and a head of one tile. -/
def sComp (v root dl per : Nat) : State :=
  evDev {} fun d => { d with composites := [(15, { word := BitVec.ofNat 512 (v + root * 2 ^ 3 + dl * 2 ^ 128 + per * 2 ^ 224 + 2 ^ 256) })] }
/-- A head that is enabled, and whose flip is due. -/
def sScan (flip : Nat) : State :=
  evDev {} fun d => { d with heads := [(3, { word := BitVec.ofNat 512 (1 + flip * 2 ^ 160), flipped := false, ready := [0] })] }

theorem test_witness_CompositeAndScanOutEventsAct :
    -- a valid group and one that is not; a write that sets V, of a good block and of a bad one
    ((sComp 1 0 0 0).dev.composites.get 15 {}).word.getLsbD 0 = true ∧ ((sComp 0 0 0 0).dev.composites.get 15 {}).word.getLsbD 0 = false ∧
    (1 : W64).getLsbD 0 = true ∧ (0 : W64).getLsbD 0 = false ∧
    bitsIn ((sComp 1 0 0 0).dev.composites.get 15 {}).word 276 256 ≠ 0 ∧ bitsIn ((evAt {}).dev.composites.get 15 {}).word 276 256 = 0 ∧
    -- the frame's end: due or not, of a root and of a node, once and with a period
    (∀ root ∈ [0, 1], ∀ dl ∈ [0, 1], ∀ per ∈ [0, 1], let s := sComp 1 root dl per
      let c := s.dev.composites.get 15 {}
      c.word.getLsbD 0 = true ∧ c.word.getLsbD 3 = (root == 1) ∧ decide (c.f 191 128 ≤ s.dev.ptc.ptc) = (dl == 0) ∧ c.f 255 224 = per ∧
        c.f 276 256 = 1) ∧
    -- a flip that is due and one that is not
    (∀ flip ∈ [0, 1], let s := sScan flip
      let x := s.dev.heads.get 3 {}
      x.word.getLsbD 0 = true ∧ x.flipped = false ∧ decide (x.flip ≤ s.dev.ptc.ptc) = (flip == 0) ∧ x.tiles < 2 ^ 32) ∧
    ((evAt {}).dev.heads.get 3 {}).word.getLsbD 0 = false ∧ ((evAt {}).dev.heads.get 3 {}).fba % 4096 = 0 := by
  and_intros <;> decide +kernel

/-! ### The machine as a whole -/

/-- The reset state with the NOP word 0x0100000000000000 where a wave of bench 0 fetches. -/
def sNop : State := State.reset.placeWave 64 0x0100000000000000

theorem test_witness_StepKeepsMemoryCanonical : sNop.MemOk ∧ { sNop with agenda := [.nanosecond] }.MemOk ∧
    ∃ t, step { sNop with agenda := [.nanosecond] } = .next t :=
  ⟨by unfold State.MemOk; decide +kernel, by unfold State.MemOk; decide +kernel, _, rfl⟩

/-- One instruction of each kind of word, at the ends of its fields. -/
theorem test_witness_DecodeOfEncode :
    (∀ i ∈ [Instr.vadd { vr0 with vd := 511, va := 511, vb := 511 }, .menq { fs0 with sd := 63, sa := 63, imm := 15 }],
      (Encode.wave i).isSome = true ∧ WellFormed.ok i = true) ∧
    (Encode.gaffer (.xpush ⟨31, 31, 31⟩)).isSome = true ∧ WellFormed.ok (.xpush ⟨31, 31, 31⟩) = true ∧
    (∀ i ∈ [Instr.fput (cmd0 0), .fputQ (cmd0 0x800000), .cpy (cmd0 0)], (Encode.command i).isSome = true ∧ WellFormed.ok i = true) ∧
    (0 : BitVec 40).getLsbD 23 = false ∧ (0x800000 : BitVec 40).getLsbD 23 = true := by decide +kernel

theorem test_witness_EncodeOfDecode :
    (Decode.wave 0x0100000000000000).toOption.isSome = true ∧ (Decode.wave 0xD200830200000009).toOption.isSome = true := by decide

/-- A wave inside a bypass window that has read register 510. -/
def waveY : Wave := { wave0 with frags := [(0, { frag0 with win := { left := 1, producer := 0x3FF8, reads := [510] } })] }

theorem test_witness_BarrierEncodingAndLimits :
    (waveAt waveY group0).wcx = some (cxAt waveY group0) ∧ (waveAt waveY group0).poisoned = [] ∧ (cxAt waveY group0).f.win.left ≠ 0 ∧
    (waveAt waveH group0).wcx = some (cxAt waveH group0) ∧ waveH.inHandler = true ∧ s0.wcx = some c0 :=
  ⟨rfl, rfl, by decide, rfl, rfl, rfl⟩

/-- A wave of half a window, all of whose registers are below 256. -/
def waveS : Wave := { wave0 with g0 := 32 }

theorem test_witness_RegisterLimitsRefuse :
    (waveAt waveS group0).wcx = some (cxAt waveS group0) ∧ (∀ p ∈ waveS.frags, p.1 ≠ 0 → p.2.inFlight = false) ∧ waveS.regs ≤ (256 : BitVec 9).toNat ∧
    256 ∈ (vrInfo { vr0 with vd := 256 } true false).writes ∧ 256 ∈ (vrInfo { vr0 with va := 256 } true false).reads ∧
    (waveAt waveY group0).wcx = some (cxAt waveY group0) ∧ (∀ p ∈ waveY.frags, p.1 ≠ 0 → p.2.inFlight = false) ∧
    (cxAt waveY group0).f.win.left ≠ 0 ∧ 510 ∈ (vrInfo { vr0 with vd := 510 } true false).writes ∧ 510 ∈ (cxAt waveY group0).f.win.reads ∧
    256 ∈ (vrInfo { vr0 with vc := 256 } true true).reads ∧ 256 ∈ (viInfo { vi0 with va := 256 }).reads ∧
    510 ∈ (viInfo { vi0 with vd := 510 }).writes ∧ fmT 0 = { fm0 with brx := 255, st := 1 } ∧ (fmT 0).st ≠ 0 ∧ fmSpace { fm0 with fn := 2 } = 1 ∧
    smKind { fs0 with fn := 4 } ≠ 0 := by
  and_intros <;> first | rfl | decide

/-- The device with LPDDR-6 fitted, where the fault ring of context 0 lies, the latch as given and WIDX. -/
def sFault (l : Latch) (widx : Nat) : State :=
  let s := benchAt { bench0 wave0 group0 with latch := l }
  { s with dev := { s.dev with boot := { s.dev.boot with fitted := (0x100000, 0) }, ctxs := [(0, { widx := widx, ie := true })] } }

theorem test_witness_WaveFaultsTaken :
    (∀ l ∈ [({} : Latch), { record := some recF0 }], ∀ n ∈ [0, 15, 16], (sFault l n).MemOk ∧ (sFault l n).wcx = some c0 ∧
      ((sFault l n).bench 0).latch = l ∧ ((sFault l n).ctxBlock 0).waiting = [] ∧ ((sFault l n).ctxBlock 0).widx = n) ∧
    (raiseOf Cause.illegal).cause < 2 ^ 16 ∧ (raiseOf Cause.illegal).cause ≠ Cause.privGrow ∧ ¬Cause.linkTimeout < 2 ^ 16 ∧
    c0.f.win.left = 0 ∧ (cxAt waveY group0).f.win.left ≠ 0 ∧
    (let s := sFault {} 15
     let d := s.desc 0
     2 ^ d.frl2 = 16 ∧ (∃ k, s.place (d.frbase + 64 * (15 % 2 ^ d.frl2)) = .lpddr k) ∧ s.reachAll (dieOf 0) (d.frbase + 64 * (15 % 2 ^ d.frl2)) 64 = none ∧
       s.poisoned = [] ∧ (s.bench 0).lines = [] ∧ (s.ctxBlock 0).ie = true) := by
  refine ⟨?_, by decide, by decide, by decide, rfl, by decide, by decide +kernel, ⟨0, by decide +kernel⟩, by decide +kernel, rfl, rfl, rfl⟩
  simp only [List.mem_cons, List.not_mem_nil, or_false, forall_eq_or_imp, forall_eq]
  exact ⟨⟨⟨memOk0, rfl, rfl, rfl, rfl⟩, ⟨memOk0, rfl, rfl, rfl, rfl⟩, memOk0, rfl, rfl, rfl, rfl⟩,
    ⟨memOk0, rfl, rfl, rfl, rfl⟩, ⟨memOk0, rfl, rfl, rfl, rfl⟩, memOk0, rfl, rfl, rfl, rfl⟩

/-- An outcome whose value passes a check, as a Bool. -/
def okAnd {ε α : Type} (e : Except ε α) (p : α → Bool) : Bool :=
  match e with
  | .ok r => p r
  | .error _ => false

theorem of_okAnd {ε α : Type} {e : Except ε α} {p : α → Bool} (h : okAnd e p = true) : ∃ v, e = .ok v ∧ p v = true := by
  cases e with
  | error a => cases h
  | ok b => exact ⟨b, rfl, h⟩

/-- The device whose next turn is this one. -/
def sTurn (x : Bench) (t : Turn) : State := { benchAt x with agenda := [t], cur := .none }

/-- The fragment of `placeWave`. -/
def cN : Wcx := cxAt wave0 { group0 with trans := [] }

/-- The group of `placeWave`, when it started with this memory. -/
def groupText (m : List Host.Cell) : Group := { group0 with trans := [], text := some m }
/-- What the fetch of a quarter needs, of a word that stands at the PC of `placeWave`: the fetch changes nothing, and the word is the one
that stood there in `m`, or is not. -/
def fetches (s : State) (m : List Host.Cell) (w : Nat) (same : Bool) : Bool :=
  okAnd (s.translateCtx [.bench 0] 0 0 0x4000 .fetch) fun r =>
    r.2.dev.fabric.remotes == [] && r.2.place r.1.pa == .vault 0 && r.2.reachAll (dieOf 0) r.1.pa 8 == none && r.2.poisoned == [] &&
      w64 (leNat (Mem.read r.2.mem (r.1.pa % 2 ^ 44) 8)) == w64 w &&
      (Mem.read m (r.1.pa % 2 ^ 44) 8 == Mem.read r.2.mem (r.1.pa % 2 ^ 44) 8) == same

/-- A quarter at a NOP and at a word with no instruction, with the word as it was when the group started and with another; one whose
fragment has its word under way, one where an interrupt is due, and one of a cell that is not ON. -/
theorem test_witness_StepRunsDecoded_quarter :
    (∀ w ∈ [0x0100000000000000, 0], ∀ old ∈ [w, 1],
      let m := (State.reset.placeWave 64 old).mem
      let s0 : State := { benchAt (bench0 wave0 (groupText m)) with mem := (State.reset.placeWave 64 w).mem, cur := .none }
      let s : State := { s0 with agenda := [.quarter 0 0] }
      let s1 : State := { s0 with cur := .wave 0 0 0 }
      let cx : Wcx := cxAt wave0 (groupText m)
      s.powered = true ∧ s.cellOn (cellOf 0) = true ∧ s0.pick 0 0 = some (0, 0) ∧ s1.wcx = some cx ∧ s1.goesOn 0 0 0 cx.f = false ∧
        cx.g.brt.getLsbD 0 = false ∧ s1.uliDue 0 0 cx.w cx.g = false ∧ s1.dev.fabric.remotes = [] ∧
        privGrow (s1.desc 0) 0 0 0x4000 8 = none ∧ cx.ordered (w64 w) = false ∧ cx.g.text = some m ∧ fetches s1 m w (old == w) = true) ∧
    -- a word that waits for a sibling's access
    (let w : Wave := { wave1 with frags := [(0, frag1), (1, { frag0 with mask := 2, wait := some .remote })] }
     let cx := cxAt w group0
     (waveAt w group0).goesOn 0 0 0 cx.f = false ∧ (waveAt w group0).uliDue 0 0 w group0 = false ∧ cx.ordered 0xA0102018100A07B0 = true) ∧
    (let f : Frag := { frag0 with codes := [(0, 0)], wait := some .back, word := 0xA020180000000000 }
     let w : Wave := { wave0 with frags := [(0, f)] }
     let s := sTurn (bench0 w group0) (.quarter 0 0)
     { s with agenda := [] }.pick 0 0 = some (0, 0) ∧ { s with agenda := [], cur := .wave 0 0 0 }.goesOn 0 0 0 f = true) ∧
    (let s := { sTurn (bench0 wave0 groupU) (.quarter 0 0) with dev := { State.reset.dev with ctxs := [(0, { ulivec := 0x4000 })] } }
     { s with agenda := [], cur := .none }.pick 0 0 = some (0, 0) ∧ s.uliDue 0 0 wave0 groupU = true ∧ s.goesOn 0 0 0 frag0 = false) ∧
    (let s := { sTurn {} (.quarter 0 0) with dev := { State.reset.dev with cells := [(0, { state := 3 })] } }
     s.powered = true ∧ s.cellOn (cellOf 0) = false) := by
  refine ⟨?_, by decide +kernel⟩
  intro w hw old ho
  simp only [List.mem_cons, List.not_mem_nil, or_false] at hw ho
  obtain rfl | rfl := hw <;> obtain rfl | rfl := ho <;> (and_intros <;> decide +kernel)

theorem test_witness_StepRunsDecoded_ring :
    ∀ p ∈ [((0xFFFF000000000000 : Nat), true), (0xFFFF100000000000, true), (0xFFFF200000000000, false), (0xFFFF150000000000, false)],
      let t := sTurn { rings := [(0, ring0)] } (.ring 0 0)
      let s : State := { sTurn { rings := [(0, { ring0 with wp := 1 })] } (.ring 0 0) with mem := Mem.write t.mem (storePa 0 0x20000) (leBytes 8 p.1) }
      let s0 : State := { s with agenda := [], cur := .none }
      s.agenda = [.ring 0 0] ∧ s.powered = true ∧ s0.ringPick 0 0 = some (1, s0) ∧ s0.cmdWord 0 0 1 = w64 p.1 ∧
        ((Decode.command (w64 p.1)).toOption.isSome && (engineOf (w64 p.1)).all fun e => e == (s0.ring 0 0).eng) = p.2 := by
  decide +kernel

theorem test_witness_StepRunsDecoded_hart :
    (∀ w ∈ [0x00C5850B, 0x0000700B, 0x00000013],
      let s := State.reset.placeGaffer 32 w
      let s1 : State := { s with agenda := [], cur := .gaffer 0 }
      s.agenda = [.gaffer 0] ∧ s.powered = true ∧ s.cellOn (cellOf 0) = true ∧
        s1.hcx.any (fun cx => s1.interrupt cx == none && okAnd (s1.hartFetch cx) fun r => r.1 == w32 w) = true) ∧
    -- a host core, and one with an interrupt pending and enabled
    (let h : Hart := { csr := { mie := 8, mip := 8, mstatus := 8 } }
     let s := { sTurn {} (.host 31) with hosts := [(31, h)], cur := .host 31 }
     s.hcx.any (fun cx => (s.interrupt cx).isSome) = true) ∧
    isEvent .linkDown = true ∧ eventReal .linkDown = true := by
  decide +kernel

end Sys2Proof.Tests
end

section
/-! PROOFS. Writes of registers under the access codes of R5: the CSRs of a gaffer, the device registers, and the
scheduling registers with rows of their own. -/

namespace Sys2Proof.Machine

open Sys2Proof

/-! ## Fields of a number -/

theorem bitOf_toNat {n : Nat} (v : BitVec n) (i : Nat) : bitOf v.toNat i = v.getLsbD i := by
  rw [bitOf, BitVec.getLsbD, Nat.testBit_eq_decide_div_mod_eq, Nat.shiftRight_eq_div_pow]
  rfl

theorem bitsOf_lt (w hi lo : Nat) : bitsOf w hi lo < 2 ^ (hi + 1 - lo) := Nat.mod_lt _ (Nat.two_pow_pos _)

/-- The number is cut into what lies above the field, the field, and what lies below it. -/
theorem setBits_eq_parts (w v : Nat) {hi lo : Nat} (h : lo ≤ hi) :
    setBits w hi lo v =
      2 ^ lo * (2 ^ (hi + 1 - lo) * (w / 2 ^ (hi + 1)) + v % 2 ^ (hi + 1 - lo)) + w % 2 ^ lo := by
  have low := Nat.div_add_mod w (2 ^ lo)
  have field := Nat.div_add_mod (w / 2 ^ lo) (2 ^ (hi + 1 - lo))
  rw [Nat.div_div_eq_div_mul, ← Nat.pow_add, show lo + (hi + 1 - lo) = hi + 1 by omega] at field
  rw [← field, Nat.mul_add] at low
  rw [setBits, bitsOf, Nat.shiftRight_eq_div_pow, Nat.mul_add, Nat.mul_comm _ (2 ^ lo), Nat.mul_comm _ (2 ^ lo)]
  omega

theorem testBit_setBits (w v : Nat) {hi lo : Nat} (h : lo ≤ hi) (i : Nat) :
    (setBits w hi lo v).testBit i = if lo ≤ i ∧ i ≤ hi then v.testBit (i - lo) else w.testBit i := by
  rw [setBits_eq_parts w v h, Nat.testBit_two_pow_mul_add _ (Nat.mod_lt _ (Nat.two_pow_pos _)),
    Nat.testBit_two_pow_mul_add _ (Nat.mod_lt _ (Nat.two_pow_pos _))]
  simp only [Nat.testBit_mod_two_pow, Nat.testBit_div_two_pow]
  rcases Nat.lt_or_ge i lo with below | above
  · simp [below, Nat.not_le.2 below]
  rcases Nat.lt_or_ge hi i with past | within
  · have back : i - lo - (hi + 1 - lo) + (hi + 1) = i := by omega
    simp [Nat.not_lt.2 above, Nat.not_le.2 past, show ¬i - lo < hi + 1 - lo by omega, back]
  · simp [Nat.not_lt.2 above, above, within, show i - lo < hi + 1 - lo by omega]

/-- A 64-bit word of a longer register, replaced: the bits of the word are the new ones and the others stay. -/
theorem getLsbD_replaceWord {n w : Nat} (x : BitVec n) (v : W64) (h : 64 * w + 64 ≤ n) (i : Nat) :
    (BitVec.ofNat n (setBits x.toNat (64 * w + 63) (64 * w) v.toNat)).getLsbD i =
      if 64 * w ≤ i ∧ i < 64 * w + 64 then v.getLsbD (i - 64 * w) else x.getLsbD i := by
  rw [BitVec.getLsbD_ofNat, testBit_setBits _ _ (by omega)]
  by_cases inside : 64 * w ≤ i ∧ i < 64 * w + 64
  · rw [if_pos inside, if_pos (by omega), BitVec.getLsbD, decide_eq_true (by omega), Bool.true_and]
  · rw [if_neg inside, if_neg (by omega), BitVec.testBit_toNat]
    rcases Nat.lt_or_ge i n with hi | hi
    · rw [decide_eq_true hi, Bool.true_and]
    · rw [BitVec.getLsbD_of_ge x i hi, Bool.and_false]

/-- ETRBASE keeps no bit below bit 6, for it is 64-byte aligned (R88, R250). -/
theorem ofNat_clearLow (v : W64) : BitVec.ofNat 22 (v.toNat / 64 * 64) = (v &&& ~~~63).setWidth 22 := by
  have mask : ∀ i < 22, (~~~63 : W64).getLsbD i = decide (6 ≤ i) := by decide
  have shifts : v.toNat / 64 * 64 = v.toNat >>> 6 <<< 6 := by rw [Nat.shiftLeft_eq, Nat.shiftRight_eq_div_pow]
  apply BitVec.eq_of_getLsbD_eq
  intro i hi
  rw [shifts, BitVec.getLsbD_ofNat, BitVec.getLsbD_setWidth, BitVec.getLsbD_and, mask i hi, Nat.testBit_shiftLeft,
    Nat.testBit_shiftRight]
  by_cases h : 6 ≤ i
  · rw [Nat.add_sub_cancel' h, BitVec.getLsbD]; simp [h]
  · simp [h]

/-! ## What a change of the device or of one bench leaves unchanged -/

theorem devOnly_modDev (s : State) (f : Device → Device) : DevOnly s (s.modDev f) := rfl

theorem benchOnly_modBench (s : State) (b : Nat) (f : Bench → Bench) : BenchOnly s (s.modBench b f) b :=
  ⟨rfl, fun k hk => by rw [State.bench_modBench, if_neg hk]⟩

/-! ## CSRs -/

theorem bench_setBench (s : State) (b : Nat) (x : Bench) :
    BenchOnly s { s with benches := s.benches.set b x } b ∧
      ({ s with benches := s.benches.set b x } : State).bench b = x :=
  ⟨benchOnly_modBench s b fun _ => x, Tbl.get_set_self ..⟩

theorem exec_csrWrite (s : State) (b num : Nat) (v : W64) :
    exec (.registerWrite (.csr b num) v) s = .next (s.writeCsr b num v) := rfl

theorem exec_csrWrite_bench {s : State} {b num : Nat} {v : W64} {x : Bench}
    (h : s.writeCsr b num v = { s with benches := s.benches.set b x }) :
    ∃ t, exec (.registerWrite (.csr b num) v) s = .next t ∧ BenchOnly s t b ∧ t.bench b = x :=
  ⟨_, (exec_csrWrite s b num v).trans (congrArg _ h), bench_setBench s b x⟩

/-- A CSR of an engine context acts on that of the slot at RSEL, where a ring is bound there (R250). -/
theorem exec_csrWrite_selected {s : State} {b num : Nat} {v : W64} {e : EngCtx}
    (h : s.writeCsr b num v =
      let r := (s.bench b).ring (s.bench b).csr.rsel
      if r.bound then s.modEng b r.eng r.ctx fun _ => e else s) :
    let r := (s.bench b).ring (s.bench b).csr.rsel
    (r.bound = false → exec (.registerWrite (.csr b num) v) s = .next s) ∧
    (r.bound = true → ∃ t, exec (.registerWrite (.csr b num) v) s = .next t ∧ BenchOnly s t b ∧
      (t.bench b).eng r.eng r.ctx = e ∧ { t.bench b with engs := [] } = { s.bench b with engs := [] }) := by
  intro r
  have run := (exec_csrWrite s b num v).trans (congrArg _ h)
  constructor
  · intro free
    exact run.trans (congrArg Host.Outcome.next (if_neg (by simpa using free)))
  · intro bound
    refine ⟨_, run.trans (congrArg Host.Outcome.next (if_pos bound)), benchOnly_modBench s b _, ?_, ?_⟩
    · rw [State.modEng, State.bench_modBench_self, Bench.eng, Tbl.get_upd_self]
    · rw [State.modEng, State.bench_modBench_self]

/-- Read-only and unlisted CSRs (R250). -/
theorem writeCsr_ignored (s : State) (b : Nat) (v : W64) {num : Nat}
    (h : num < 0x5C0 ∨ 0x5F1 < num ∨ num ∈ [0x5C3, 0x5C4, 0x5C5, 0x5C6, 0x5C7, 0x5D4, 0x5D5, 0x5DB, 0x5DE, 0x5E3]) :
    s.writeCsr b num v = s := by
  unfold State.writeCsr
  split
  case h_26 => rfl
  all_goals exact absurd h (by decide)

/-- XIP is write-one-to-clear (R253). -/
theorem writeCsr_xip (s : State) (b : Nat) (v : W64) :
    s.writeCsr b 0x5F0 v = s.modBench b fun x => { x with csr := { x.csr with
      wmk := x.csr.wmk &&& ~~~BitVec.ofNat 16 v.toNat, flt := x.csr.flt && !v.getLsbD 16,
      hlt := x.csr.hlt && !v.getLsbD 18, mgt := x.csr.mgt && !v.getLsbD 19 } } := by
  simp only [← bitOf_toNat]
  rfl

theorem writeCsr_trbase (s : State) (b : Nat) (v : W64) :
    s.writeCsr b 0x5CA v = s.modSelEng b fun e => { e with trbase := (v &&& ~~~63).setWidth 22 } := by
  rw [← ofNat_clearLow]
  rfl

/-! ## Device registers by their place -/

/-- A register stands at a physical address, where a write of 8 bytes reaches it (R106, R107). -/
abbrev RegAt (pa : Nat) (r : DevReg) : Prop := pa % 8 = 0 ∧ DevReg.ofOff (pa % 2 ^ 44 - deviceBase) = some r

theorem exec_devWrite (s : State) (v : W64) {pa : Nat} {r : DevReg} (h : RegAt pa r) :
    exec (.registerWrite (.dev pa) v) s = .next (s.writeReg 0 r v) := by
  obtain ⟨aligned, defined⟩ := h
  change execRegisterWrite (.dev pa) v s = _
  rw [execRegisterWrite, State.devWrite, if_neg (by simp [aligned]), defined]

theorem exec_devWrite_undefined (s : State) (v : W64) {pa : Nat}
    (h : pa % 8 ≠ 0 ∨ DevReg.ofOff (pa % 2 ^ 44 - deviceBase) = none) :
    exec (.registerWrite (.dev pa) v) s = .next s := by
  have refused : ∃ c, s.devWrite 0 pa 8 v = .error c := by
    by_cases misaligned : (8 != 8 || pa % 8 != 0) = true
    · exact ⟨_, if_pos misaligned⟩
    · have undefined := h.resolve_left fun odd => misaligned (by simp [odd])
      exact ⟨Cause.perm, by rw [State.devWrite, if_neg misaligned, undefined]⟩
  obtain ⟨c, refused⟩ := refused
  change execRegisterWrite (.dev pa) v s = _
  rw [execRegisterWrite, refused]

theorem exec_devWrite_acts {s : State} {v : W64} {pa : Nat} {d : Device} (r : DevReg) (place : RegAt pa r)
    (h : s.writeReg 0 r v = { s with dev := d }) :
    ∃ t, exec (.registerWrite (.dev pa) v) s = .next t ∧ DevOnly s t ∧ t.dev = d :=
  ⟨_, (exec_devWrite s v place).trans (congrArg _ h), rfl, rfl⟩

theorem exec_devWrite_ignored {s : State} {v : W64} {pa : Nat} (r : DevReg) (place : RegAt pa r)
    (h : s.writeReg 0 r v = s) : exec (.registerWrite (.dev pa) v) s = .next s :=
  (exec_devWrite s v place).trans (congrArg _ h)

theorem regAt_of_offset {pa o : Nat} {r : DevReg} (hpa : pa = deviceBase + o) (low : o < 2 ^ 32) (aligned : o % 8 = 0)
    (h : DevReg.ofOff o = some r) : RegAt pa r := by
  rw [deviceBase] at hpa
  refine ⟨by omega, ?_⟩
  rwa [show pa % 2 ^ 44 - deviceBase = o by rw [deviceBase]; omega]

/-- The blocks of the address map do not meet (R106), so that the routing table is found past every block before it. -/
theorem regAt_route {p : Nat} (h : p < 4096) : RegAt (deviceBase + 0xA1000 + 8 * p) (.route p) := by
  refine regAt_of_offset (Nat.add_assoc ..) (by omega) (by omega) ?_
  simp (disch := omega) only [DevReg.ofOff, Bool.and_eq_true, decide_eq_true_eq, if_neg, if_pos]
  congr; omega

theorem regAt_queue {q w : Nat} (hq : q < 64) (hw : w < 4) :
    RegAt (deviceBase + (0x70000 + 32 * q + 8 * w)) (.queue q w) := by
  refine regAt_of_offset rfl (by omega) (by omega) ?_
  simp (disch := omega) only [DevReg.ofOff, Bool.and_eq_true, decide_eq_true_eq, if_neg, if_pos]
  congr <;> omega

theorem regAt_latch {b w : Nat} (hb : b < 256) (hw : w < 8) :
    RegAt (deviceBase + (0xD0000 + 128 * b + 8 * w)) (.latch b w) := by
  refine regAt_of_offset rfl (by omega) (by omega) ?_
  simp (disch := omega) only [DevReg.ofOff, Bool.and_eq_true, decide_eq_true_eq, if_neg, if_pos]
  congr <;> omega

theorem regAt_nonce : ∀ w < 4, RegAt (deviceBase + 0x110200 + 8 * w) (.nonce w) := by decide

theorem regAt_boot : ∀ w < 13, RegAt (deviceBase + (0x110000 + 8 * w)) (.boot w) := by decide

theorem regAt_sig : ∀ w < 8, RegAt (deviceBase + (0x110240 + 8 * w)) (.sig w) := by decide

theorem regAt_feature : ∀ w < 8, RegAt (deviceBase + (0x120000 + 8 * w)) (.feature w) := by decide

theorem regAt_fabric : ∀ w < 8, RegAt (deviceBase + (0xA0000 + 8 * w)) (.fabric w) := by decide

/-! ## What a write of a device register does -/

theorem route_written (s : State) (p : Nat) (v : W64) :
    ((s.writeReg 0 (.route p) v).dev.fabric.routes.get p 0).toNat = v.toNat % 2 ^ 24 :=
  congrArg BitVec.toNat (Tbl.get_set_self s.dev.fabric.routes p (BitVec.ofNat 24 v.toNat) 0)

theorem writeReg_poisonSize (s : State) (v : W64) :
    s.writeReg 0 (.poisonMap 1) v = s.modDev fun d => { d with poison := { d.poison with
      log2n := if 4 ≤ v.toNat % 32 ∧ v.toNat % 32 ≤ 20 then v.toNat % 32 else d.poison.log2n } } := by
  by_cases sized : 4 ≤ v.toNat % 32 ∧ v.toNat % 32 ≤ 20 <;> simp [State.writeReg, sized]

theorem writeReg_poisonOvf (s : State) (v : W64) :
    s.writeReg 0 (.poisonMap 4) v = s.modDev fun d => { d with poison := { d.poison with
      ovf := d.poison.ovf && !v.getLsbD 0 } } := by
  rw [← bitOf_toNat]
  rfl

theorem writeReg_quote_starts {s : State} {v : W64} (go : v.getLsbD 0 = true) (idle : s.dev.boot.qdone = true) :
    s.writeReg 0 .quote v = s.quoteGo :=
  if_pos (by rw [bitOf_toNat, go, idle]; rfl)

theorem writeReg_quote_ignored {s : State} {v : W64} (h : v.getLsbD 0 = false ∨ s.dev.boot.qdone = false) :
    s.writeReg 0 .quote v = s := by
  refine if_neg ?_
  rw [bitOf_toNat]
  rcases h with h | h <;> rw [h] <;> simp

theorem writeReg_commit_once {s : State} {v : W64} (go : v.getLsbD 0 = true) (owed : s.dev.features.done = false) :
    s.writeReg 0 (.feature 16) v = s.commitFeatures :=
  if_pos (by rw [bitOf_toNat, go, owed]; rfl)

theorem writeReg_commit_ignored {s : State} {v : W64} (h : v.getLsbD 0 = false ∨ s.dev.features.done = true) :
    s.writeReg 0 (.feature 16) v = s := by
  refine if_neg ?_
  rw [bitOf_toNat]
  rcases h with h | h <;> rw [h] <;> simp

theorem writeReg_queue_readOnly (s : State) (q : Nat) {w : Nat} (v : W64) (h : 0 < w) :
    s.writeReg 0 (.queue q w) v = s := if_neg (Nat.ne_of_gt h)

theorem writeReg_offer (s : State) {w : Nat} (v : W64) (h : w < 8) : s.writeReg 0 (.feature w) v = s := if_pos h

theorem writeReg_latch_record (s : State) (b : Nat) {w : Nat} (v : W64) (h : w < 8) :
    s.writeReg 0 (.latch b w) v = s := by
  simp [State.writeReg, Nat.ne_of_lt h]

/-! ## Scheduling registers -/

theorem writeQueue_before_done {s : State} (q : Nat) {v : W64} (sets : v.getLsbD 19 = true)
    (uncommitted : s.dev.features.done = false) : s.writeQueue q v = s := by
  rw [State.writeQueue, if_pos (by simp [sets, uncommitted])]

theorem writeQueue_accepted {s : State} (q : Nat) {v : W64} (h : v.getLsbD 19 = false ∨ s.dev.features.done = true) :
    s.writeQueue q v = s.modQueue q fun k => { k with
      ctx := if k.v then k.ctx else bitsOf v.toNat 15 0, pri := bitsOf v.toNat 18 16, v := v.getLsbD 19 } := by
  refine if_neg ?_
  rcases h with h | h <;> rw [h] <;> simp

theorem queue_modQueue (s : State) (q j : Nat) (f : Queue → Queue) :
    (s.modQueue q f).queue j = if j = q then f (s.queue q) else s.queue j := Tbl.get_upd ..

theorem exec_launchQueueWrite (s : State) (v : W64) {q : Nat} (h : q < 64) :
    exec (.launchQueueWrite q v) s = .next (s.writeQueue q v) := if_pos h

theorem launchQueueWrite_refused {s : State} {v : W64} {q : Nat}
    (h : 64 ≤ q ∨ (v.getLsbD 19 = true ∧ s.dev.features.done = false)) :
    exec (.launchQueueWrite q v) s = .next s := by
  rcases Nat.lt_or_ge q 64 with hq | hq
  · obtain ⟨sets, uncommitted⟩ := h.resolve_left (by omega)
    rw [exec_launchQueueWrite s v hq, writeQueue_before_done q sets uncommitted]
  · exact if_neg (by omega)

theorem launchQueueWrite_acts {s : State} {v : W64} {q : Nat} (hq : q < 64)
    (h : v.getLsbD 19 = false ∨ s.dev.features.done = true) :
    ∃ t, exec (.launchQueueWrite q v) s = .next t ∧ DevOnly s t ∧ (∀ j, j ≠ q → t.queue j = s.queue j) ∧
      t.queue q = { s.queue q with ctx := if (s.queue q).v then (s.queue q).ctx else bitsOf v.toNat 15 0,
                                   pri := bitsOf v.toNat 18 16, v := v.getLsbD 19 } := by
  refine ⟨_, (exec_launchQueueWrite s v hq).trans (congrArg _ (writeQueue_accepted q h)), devOnly_modDev s _, ?_, ?_⟩
  · intro j hj
    rw [queue_modQueue, if_neg hj]
  · rw [queue_modQueue, if_pos rfl]

theorem contextTableWrite_refused {s : State} (v : W64) (h : ∃ p ∈ s.dev.queues, p.2.v = true) :
    exec (.contextTableWrite v) s = .next s :=
  congrArg Host.Outcome.next (if_pos (List.any_eq_true.2 h))

theorem contextTableWrite_acts {s : State} (v : W64) (h : ∀ p ∈ s.dev.queues, p.2.v = false) :
    ∃ t, exec (.contextTableWrite v) s = .next t ∧ DevOnly s t ∧ t.dev.ctxBase.toNat = bitsOf v.toNat 55 6 ∧
      t.dev.ctxL2n = if bitsOf v.toNat 59 56 ≤ 12 then bitsOf v.toNat 59 56 else s.dev.ctxL2n := by
  have none_valid : ¬(s.dev.queues.any fun p => p.2.v) = true := by simpa using h
  refine ⟨_, congrArg Host.Outcome.next (if_neg none_valid), devOnly_modDev s _, ?_, rfl⟩
  exact Nat.mod_eq_of_lt (bitsOf_lt _ 55 6)

/-- What the partitions of a bench other than `p` hold of a quota (R197). -/
def Bench.othersHold (x : Bench) (p : Nat) (f : Part → Nat) : Nat :=
  ((List.range 8).filter (· != p)).foldl (fun a k => a + f (x.parts.get k {})) 0

/-- The quotas of a word written to partition `p` break a limit of the bench (R197). -/
def Bench.overQuota (x : Bench) (p n : Nat) : Prop :=
  bitsOf n 11 6 < bitsOf n 17 12 ∨ 32 < bitsOf n 5 0 + x.othersHold p (·.wq) ∨
    32 < bitsOf n 11 6 + x.othersHold p (·.gq) ∨
    4096 < bitsOf n 36 24 + bitsOf n 49 37 + x.othersHold p fun y => y.rq + y.sq

theorem writePart_overQuota {s : State} {b p : Nat} {v : W64} (h : (s.bench b).overQuota p v.toNat) :
    s.writePart b p v = s := by
  refine if_pos ?_
  simpa [Bench.overQuota, Bench.othersHold, List.foldl_map, or_assoc] using h

theorem writePart_within {s : State} {b p : Nat} {v : W64} (h : ¬(s.bench b).overQuota p v.toNat) :
    s.writePart b p v = s.modBench b fun x => { x with parts := x.parts.upd p {} fun y => { y with
      wq := bitsOf v.toNat 5 0, gq := bitsOf v.toNat 11 6, gres := bitsOf v.toNat 17 12, rq := bitsOf v.toNat 36 24,
      sq := bitsOf v.toNat 49 37 } } := by
  refine if_neg fun past => h ?_
  simpa [Bench.overQuota, Bench.othersHold, List.foldl_map, or_assoc] using past

theorem exec_partitionWrite (s : State) (v : W64) {b p : Nat} (hb : b < 256) (hp : p < 8) :
    exec (.partitionWrite b p 0 v) s = .next (s.writePart b p v) := if_pos (by simp [hb, hp])

theorem partitionWrite_refused {s : State} {v : W64} {b p word : Nat}
    (h : 256 ≤ b ∨ 8 ≤ p ∨ word ≠ 0 ∨ (s.bench b).overQuota p v.toNat) :
    exec (.partitionWrite b p word v) s = .next s := by
  by_cases named : b < 256 ∧ p < 8 ∧ word = 0
  · obtain ⟨hb, hp, rfl⟩ := named
    have past : (s.bench b).overQuota p v.toNat := by
      rcases h with h | h | h | h
      · omega
      · omega
      · exact absurd rfl h
      · exact h
    rw [exec_partitionWrite s v hb hp, writePart_overQuota past]
  · exact if_neg (by simpa [and_assoc] using named)

theorem partitionWrite_acts {s : State} {v : W64} {b p : Nat} (hb : b < 256) (hp : p < 8)
    (h : ¬(s.bench b).overQuota p v.toNat) :
    ∃ t, exec (.partitionWrite b p 0 v) s = .next t ∧ BenchOnly s t b ∧
      (t.bench b).parts.get p {} = { (s.bench b).parts.get p {} with
        wq := bitsOf v.toNat 5 0, gq := bitsOf v.toNat 11 6, gres := bitsOf v.toNat 17 12, rq := bitsOf v.toNat 36 24,
        sq := bitsOf v.toNat 49 37 } := by
  refine ⟨_, (exec_partitionWrite s v hb hp).trans (congrArg _ (writePart_within h)), benchOnly_modBench s b _, ?_⟩
  rw [State.bench_modBench_self, Tbl.get_upd_self]

/-! ## Messages of Port B -/

theorem find?_replaceWord (ws : List (Nat × W64)) (w i : Nat) (v : W64) :
    ((ws.filter fun p => p.1 != w) ++ [(w, v)]).find? (fun p => p.1 == i) =
      if i = w then some (w, v) else ws.find? fun p => p.1 == i := by
  rw [List.find?_append, List.find?_filter]
  by_cases h : i = w
  · subst h
    have gone : (ws.find? fun p => decide ((p.1 != i) = true ∧ (p.1 == i) = true)) = none := by
      rw [List.find?_eq_none]
      rintro p - hp
      simp at hp
    simp only [gone, List.find?_singleton, beq_self_eq_true, Option.none_or, if_true]
  · have kept : (fun p : Nat × W64 => decide ((p.1 != w) = true ∧ (p.1 == i) = true)) = fun p => p.1 == i := by
      funext p
      by_cases hp : p.1 = i <;> simp [hp, h]
    simp only [kept, List.find?_singleton, beq_eq_false_iff_ne.2 (Ne.symm h), Bool.false_eq_true, if_false,
      Option.or_none, if_neg h]

/-- A word of the message that the write of the last word of a block sends (R257): the words before it as they stand. -/
def messageWord (ws : List (Nat × W64)) (n i : Nat) : Nat :=
  if i = 7 then n else ((ws.find? fun p => p.1 == i).map (·.2.toNat)).getD 0

theorem messageWord_eq (ws : List (Nat × W64)) (v : W64) (i : Nat) :
    ((((ws.filter fun p => p.1 != 7) ++ [(7, v)] : List (Nat × W64)).find? fun p => p.1 == i).map (·.2.toNat)).getD 0 =
      messageWord ws v.toNat i := by
  rw [find?_replaceWord, messageWord]
  split <;> rfl

/-- The state in which the last word of a message block has been written, before the message goes. -/
def State.blockWritten (s : State) (b : Nat) (v : W64) : State :=
  s.modDev fun d => { d with
    messages := d.messages.set b (((s.dev.messages.get b []).filter fun p => p.1 != 7) ++ [(7, v)]) }

theorem writePortB_last (s : State) (b : Nat) (v : W64) :
    s.writePortB b 7 v =
      if s.cellOn (cellOf b) && (s.bench b).mailbox.length < 16 then
        (s.blockWritten b v).modBench b fun x => { x with mailbox := x.mailbox ++
          [(0x1FF, (List.range 8).flatMap fun i => leBytes 8 (messageWord (s.dev.messages.get b []) v.toNat i))] }
      else s.blockWritten b v := by
  simp only [← messageWord_eq]
  rfl

theorem exec_portBMessage (s : State) (v : W64) {b : Nat} (h : b < 256) :
    exec (.portBMessage b v) s = .next (s.writePortB b 7 v) := if_pos h

theorem portBMessage_delivered {s : State} {v : W64} {b : Nat} (hb : b < 256) (on : s.cellOn (cellOf b) = true)
    (room : (s.bench b).mailbox.length < 16) :
    ∃ t, exec (.portBMessage b v) s = .next t ∧ t.mem = s.mem ∧ (t.bench b).mailbox = (s.bench b).mailbox ++
      [(0x1FF, (List.range 8).flatMap fun i => leBytes 8 (messageWord (s.dev.messages.get b []) v.toNat i))] := by
  refine ⟨_, (exec_portBMessage s v hb).trans (congrArg _ ((writePortB_last s b v).trans (if_pos ?_))), rfl, ?_⟩
  · rw [on, decide_eq_true room]; rfl
  · rw [State.bench_modBench_self]; rfl

theorem portBMessage_lost {s : State} {v : W64} {b : Nat} (hb : b < 256)
    (h : s.cellOn (cellOf b) = false ∨ 16 ≤ (s.bench b).mailbox.length) :
    ∃ t, exec (.portBMessage b v) s = .next t ∧ DevOnly s t := by
  refine ⟨_, (exec_portBMessage s v hb).trans (congrArg _ ((writePortB_last s b v).trans (if_neg ?_))), rfl⟩
  rcases h with off | full
  · simp [off]
  · simp [Nat.not_lt.2 full]

/-! ## Package time -/

theorem exec_ptcWrite (s : State) (v : W64) :
    exec (.ptcWrite v) s = .next (if s.dev.ptc.role = 2 ∧ s.timedBusy = false ∧ s.dev.ptc.ptc ≤ v.toNat then
      s.modDev fun d => { d with ptc := { s.dev.ptc with ptc := v.toNat } } else s) := by
  change execPtcWrite v s = _
  rw [execPtcWrite, State.writePtc]
  simp [and_assoc]

theorem exec_qosWindow (s : State) :
    exec .qosWindow s = .next (s.modDev fun d => { d with qosWindow := d.ptc.ptc - d.ptc.ptc % 1000 }) := by
  change execQosWindow s = _
  simp only [execQosWindow, Nat.div_mul_self_eq_mod_sub_self]

end Sys2Proof.Machine

namespace Sys2Proof.Proofs

open Sys2Proof Sys2Proof.Machine

/-- Settles O43: each write of a scheduling register is refused or acts by its lemma above; each CSR and device register
named acts by the equation of its access code, and every other one is left as it is. -/
theorem schedulingRegistersAct : Obligations.SchedulingRegistersAct := by
  intro s v n
  refine ⟨fun q => ⟨launchQueueWrite_refused, launchQueueWrite_acts⟩, contextTableWrite_refused v,
    contextTableWrite_acts v, fun b p word => ⟨partitionWrite_refused, ?partition⟩,
    fun b => ⟨fun hb => if_neg (Nat.not_lt.2 hb), portBMessage_delivered, portBMessage_lost⟩,
    ⟨?ptcTakes, ?ptcKeeps⟩, ⟨_, exec_qosWindow s, devOnly_modDev s _, rfl⟩, fun b => ?csrs, ?device,
    fun pa => exec_devWrite_undefined s v⟩
  case partition =>
    rintro hb hp rfl within
    exact partitionWrite_acts hb hp within
  case ptcTakes =>
    intro lets
    exact ⟨_, (exec_ptcWrite s v).trans (congrArg _ (if_pos lets)), devOnly_modDev s _, rfl⟩
  case ptcKeeps => exact fun refused => (exec_ptcWrite s v).trans (congrArg _ (if_neg refused))
  case csrs =>
    refine ⟨?rsel, ?psel, ?csidx, ?cxsel, ?smsel, ?rplarg, ?gsel, ?cxhwm, ?xie, ?xip,
      ⟨?etmask, ?evgrant, ?etrbase, ?epgdist, ?windowCounts, ?t5Counts⟩, ?ignored⟩
    case rsel | psel | csidx | cxsel | smsel | rplarg | gsel | cxhwm | xie => exact exec_csrWrite_bench rfl
    case xip => exact exec_csrWrite_bench (writeCsr_xip s b v)
    case etmask | evgrant | epgdist | windowCounts | t5Counts => exact exec_csrWrite_selected rfl
    case etrbase => exact exec_csrWrite_selected (writeCsr_trbase s b v)
    case ignored =>
      exact fun num unlisted => (exec_csrWrite s b num v).trans (congrArg _ (writeCsr_ignored s b v unlisted))
  case device =>
    intro put keeps d m k
    refine ⟨?route, ?nonce, ?base, ?log2n, ?ridx, ?ovf, ?role, ?quote, ?noQuote, ?commit, ?noCommit, ?widx, ?bound,
      ?boot, ?words, ?queueCounts, ?latched⟩
    case route => exact fun p hp => ⟨_, exec_devWrite s v (regAt_route hp), rfl, route_written s p v⟩
    case nonce =>
      exact fun w hw => ⟨_, exec_devWrite s v (regAt_nonce w hw), rfl, getLsbD_replaceWord k.nonce v (by omega)⟩
    case base => exact exec_devWrite_acts (.poisonMap 0) (by decide) rfl
    case log2n => exact exec_devWrite_acts (.poisonMap 1) (by decide) (writeReg_poisonSize s v)
    case ridx => exact exec_devWrite_acts (.poisonMap 3) (by decide) rfl
    case ovf => exact exec_devWrite_acts (.poisonMap 4) (by decide) (writeReg_poisonOvf s v)
    case role => exact exec_devWrite_acts (.ptc 0) (by decide) rfl
    case quote =>
      exact fun go idle =>
        ⟨_, (exec_devWrite s v (by decide)).trans (congrArg _ (writeReg_quote_starts go idle)), rfl⟩
    case noQuote => exact fun no => exec_devWrite_ignored .quote (by decide) (writeReg_quote_ignored no)
    case commit => exact fun go owed => exec_devWrite_acts (.feature 16) (by decide) (writeReg_commit_once go owed)
    case noCommit => exact fun no => exec_devWrite_ignored (.feature 16) (by decide) (writeReg_commit_ignored no)
    case widx => exact exec_devWrite_ignored (.poisonMap 2) (by decide) rfl
    case bound => exact exec_devWrite_ignored (.ptc 2) (by decide) rfl
    case boot => exact fun w hw => exec_devWrite_ignored _ (regAt_boot w hw) rfl
    case words =>
      exact fun w hw => ⟨exec_devWrite_ignored _ (regAt_sig w hw) rfl,
        exec_devWrite_ignored _ (regAt_feature w hw) (writeReg_offer s v hw),
        exec_devWrite_ignored _ (regAt_fabric w hw) rfl⟩
    case queueCounts =>
      exact fun q w hq past hw => exec_devWrite_ignored _ (regAt_queue hq hw) (writeReg_queue_readOnly s q v past)
    case latched =>
      exact fun b w hb hw => exec_devWrite_ignored _ (regAt_latch hb hw) (writeReg_latch_record s b v hw)

end Sys2Proof.Proofs
end

section
/-! PROOFS. What every write-back of the L1 and every report of a fault leaves unchanged: the work of the units. -/

namespace Sys2Proof

/-- A value other than the default stands in the table. -/
theorem Tbl.mem_of_get_ne {α : Type} {t : Tbl α} {n : Nat} {d : α} (h : t.get n d ≠ d) : (n, t.get n d) ∈ t := by
  induction t with
  | nil => exact absurd rfl h
  | cons p t ih =>
    obtain ⟨k, v⟩ := p
    by_cases hk : k = n
    · subst hk
      simp [Tbl.get, Tbl.get?]
    · have tail : Tbl.get ((k, v) :: t) n d = Tbl.get t n d := by simp [Tbl.get, Tbl.get?, hk]
      rw [tail] at h ⊢
      exact List.mem_cons_of_mem _ (ih h)

theorem Tbl.get_mapVal {α : Type} (t : Tbl α) (f : Nat → α → α) (n : Nat) (d : α) :
    (t.mapVal f).get n d = ((t.get? n).map (f n)).getD d := by
  rw [Tbl.get, Tbl.get?_mapVal]

end Sys2Proof

namespace Sys2Proof.Machine

open Sys2Proof

/-! ## What memory writes and fault records leave unchanged -/

/-- A bench without its L1 lines, its latch, its mailbox and its CSRs: what no write-back and no fault record changes. -/
def Bench.work (x : Bench) : Bench := { x with csr := {}, mailbox := [], lines := [], latch := {} }

/-- The state without its benches and what memory writes, poison (R113) and fault records (R210) change. -/
def State.work (s : State) : State :=
  { s with free := 0, mem := [], view := [], viewHeld := [], viewDirty := [], altered := [], poisoned := [], resv := [],
           benches := [], dev := { s.dev with fabric := {}, poison := {}, composites := [], ctxs := [] } }

/-- Nothing changed but memory, poison, L1 lines and what reports of faults change: every unit's work is as before. -/
structure KeepsWork (s t : State) : Prop where
  device : t.work = s.work
  bench : ∀ b, (t.bench b).work = (s.bench b).work

namespace KeepsWork

variable {s t u : State}

theorem refl (s : State) : KeepsWork s s := ⟨rfl, fun _ => rfl⟩

theorem trans (h : KeepsWork s t) (k : KeepsWork t u) : KeepsWork s u :=
  ⟨k.device.trans h.device, fun b => (k.bench b).trans (h.bench b)⟩

theorem rings (h : KeepsWork s t) (b : Nat) : (t.bench b).rings = (s.bench b).rings :=
  (congrArg Bench.rings (h.bench b) :)

theorem cells (h : KeepsWork s t) : t.dev.cells = s.dev.cells := (congrArg (·.dev.cells) h.device :)

theorem ite {p : Prop} [Decidable p] (h : KeepsWork s t) (k : KeepsWork s u) : KeepsWork s (if p then t else u) := by
  split
  · exact h
  · exact k

theorem foldl {α : Type} {f : State → α → State} (step : ∀ s a, KeepsWork s (f s a)) (l : List α) (s : State) :
    KeepsWork s (l.foldl f s) := by
  induction l generalizing s with
  | nil => exact refl s
  | cons a l ih => exact (step s a).trans (ih (f s a))

theorem modBench (s : State) (b : Nat) {f : Bench → Bench} (h : ∀ x, (f x).work = x.work := by intro x; rfl) :
    KeepsWork s (s.modBench b f) := by
  refine ⟨rfl, fun k => ?_⟩
  rw [State.bench_modBench]
  split
  next hk => rw [h, hk]
  next => rfl

theorem mapBenches (s : State) {f : Nat → Bench → Bench} (h : ∀ b x, (f b x).work = x.work) :
    KeepsWork s { s with benches := s.benches.mapVal f } := by
  refine ⟨rfl, fun b => ?_⟩
  rw [State.bench, State.bench, Tbl.get_mapVal, Tbl.get]
  cases s.benches.get? b with
  | none => rfl
  | some x => exact h b x

theorem noteTimeout (s : State) (c : Nat) : KeepsWork s (s.noteTimeout c) :=
  ite ⟨rfl, fun _ => rfl⟩ (refl s)

theorem sendLatched (s : State) (b : Nat) : KeepsWork s (s.sendLatched b) := by
  unfold State.sendLatched
  dsimp only
  split
  · exact refl s
  · exact ite ((modBench _ _).trans (modBench _ b)) (refl s)

theorem latchRecord (s : State) (b : Nat) (r : FaultRec) : KeepsWork s (s.latchRecord b r) :=
  (modBench s b).trans (sendLatched _ b)

theorem latchFault (s : State) (b ctx c va access : Nat) : KeepsWork s (s.latchFault b ctx c va access) :=
  (noteTimeout s c).trans (ite (modBench _ b) (latchRecord _ b _))

theorem raiseMgt (s : State) : KeepsWork s s.raiseMgt := by
  refine mapBenches s fun b x => ?_
  split <;> rfl

theorem snoop (s : State) (a n : Nat) : KeepsWork s (s.snoop a n) := ite (refl s) ⟨rfl, fun _ => rfl⟩

theorem noteWrite (s : State) (a n : Nat) : KeepsWork s (s.noteWrite a n) := by
  have altered (hit : List Nat) (s : State) :
      KeepsWork s (if hit = [] then s else { s with altered := hit ++ s.altered }) := ite (refl s) ⟨rfl, fun _ => rfl⟩
  exact (snoop s a n).trans ((altered _ _).trans (ite ⟨rfl, fun _ => rfl⟩ (refl _)))

theorem localWrite (s : State) (a : Nat) (bs : List Byte) : KeepsWork s (s.localWrite a bs) :=
  (noteWrite s a bs.length).trans ⟨rfl, fun _ => rfl⟩

theorem rawWrite (s : State) (pa : Nat) (bs : List Byte) : KeepsWork s (s.rawWrite pa bs) := by
  unfold State.rawWrite
  split
  · exact (snoop s _ _).trans ⟨rfl, fun _ => rfl⟩
  · exact localWrite s _ bs

theorem writeEntry {die pa : Nat} {bs : List Byte} (h : s.writeEntry die pa bs = .ok t) : KeepsWork s t := by
  have written {u : State} (held : KeepsWork s u)
      (h : (if (u.poisonOf (pa % 2 ^ 44 / 64)).isSome then .error Cause.poison else .ok (u.rawWrite pa bs)) =
        (.ok t : Except Nat State)) : KeepsWork s t := by
    split at h
    · cases h
    · cases h; exact held.trans (rawWrite u pa bs)
  unfold State.writeEntry at h
  dsimp only at h
  split at h
  case h_1 => cases h
  case h_2 =>
    split at h
    case h_1 => cases h
    case h_2 u filled =>
      refine written ?_ h
      split at filled
      case h_1 n _ =>
        split at filled
        · cases filled; exact refl s
        · obtain ⟨b, -, rfl⟩ := Option.map_eq_some_iff.1 filled
          exact ⟨rfl, fun _ => rfl⟩
      case h_2 | h_3 => cases filled
      case h_4 => cases filled; exact refl s

theorem poisonEntry (s : State) (sector src : Nat) : KeepsWork s (s.poisonEntry sector src) := by
  unfold State.poisonEntry
  dsimp only
  refine (raiseMgt s).trans (ite ⟨rfl, fun _ => rfl⟩ ?_)
  split
  case h_1 written => exact (writeEntry written).trans ⟨rfl, fun _ => rfl⟩
  case h_2 => exact latchFault _ _ _ _ _ _

theorem poisonSector (s : State) (sector src : Nat) : KeepsWork s (s.poisonSector sector src) := by
  have marked : KeepsWork s { s with poisoned := (sector, src) :: s.poisoned } := ⟨rfl, fun _ => rfl⟩
  exact ite (refl s) (ite marked (marked.trans (poisonEntry _ sector src)))

theorem fillSector (s : State) (n k : Nat) : KeepsWork s (s.fillSector n k) := by
  refine ite (refl s) ?_
  split
  · exact ⟨rfl, fun _ => rfl⟩
  · exact KeepsWork.trans (t := { s with viewHeld := k :: s.viewHeld }) ⟨rfl, fun _ => rfl⟩ (poisonSector _ k 3)

theorem fillViews (s : State) (pa : Nat) (ks : List Nat) : KeepsWork s (s.fillViews pa ks) := by
  unfold State.fillViews
  split
  · exact foldl (fun s k => fillSector s _ k) ks s
  · exact refl s

theorem noteCause (s : State) (c : Nat) : KeepsWork s (s.noteCause c) :=
  (noteTimeout s c).trans (ite (fillViews _ _ _) (refl _))

theorem writeBackSector (s : State) (b : Nat) (l : Line) (k : Nat) : KeepsWork s (s.writeBackSector b l k) := by
  have filled (whole : Bool) (pa : Nat) (ks : List Nat) : KeepsWork s (if whole then s else s.fillViews pa ks) :=
    ite (refl s) (fillViews s pa ks)
  have written (whole : Bool) (s : State) (offs : List Nat) (pa : Nat) (f : Nat → Nat) (g : Nat → List Byte) :
      KeepsWork s (let t := offs.foldl (fun s o => s.rawWrite (f o) (g o)) s
        if whole then t.clearPoison pa 64 else t) := by
    have bytes := foldl (fun s o => rawWrite s (f o) (g o)) offs s
    exact ite (bytes.trans ⟨rfl, fun _ => rfl⟩) bytes
  refine ite (refl s) ?_
  split
  · exact noteCause s _
  · exact (filled _ _ _).trans (ite (poisonSector _ _ _) (ite (refl _) (written _ _ _ _ _ _)))

theorem writeBackLine (s : State) (b : Nat) (l : Line) : KeepsWork s (s.writeBackLine b l) :=
  foldl (fun s k => writeBackSector s b l k) _ s

theorem flushL1 (s : State) (b : Nat) : KeepsWork s (s.flushL1 b) :=
  (foldl (fun s l => writeBackLine s b l) _ s).trans (modBench _ b)

theorem farWrite {pkg pa : Nat} {bs : List Byte} (h : s.farWrite pkg pa bs = .ok t) : KeepsWork s t := by
  unfold State.farWrite at h
  split at h
  · cases h
  · cases h; exact ⟨rfl, fun _ => rfl⟩

theorem pointWrite {die pa : Nat} {bs : List Byte} (h : s.pointWrite die pa bs = .ok t) : KeepsWork s t := by
  unfold State.pointWrite at h
  split at h
  case h_1 => cases h
  case h_2 =>
    split at h
    case h_1 pkg _ =>
      cases far : s.farWrite pkg pa bs with
      | error c => rw [far] at h; cases h
      | ok u => rw [far] at h; cases h; exact farWrite far
    case h_2 => cases h
    case h_3 =>
      dsimp only at h
      split at h
      · cases h
      · cases h
        exact (fillViews s _ _).trans ((rawWrite _ _ _).trans ⟨rfl, fun _ => rfl⟩)

theorem release (s : State) (b sc : Nat) : KeepsWork s (s.release b sc) := ite (refl s) (flushL1 s b)

theorem writeRecord (s : State) (b : Nat) (r : FaultRec) : KeepsWork s (s.writeRecord b r) := by
  unfold State.writeRecord
  dsimp only
  refine ite ⟨rfl, fun _ => rfl⟩ ?_
  split
  case h_1 => exact (noteCause s _).trans (latchRecord _ b r)
  case h_2 written =>
    have advanced {u : State} (f : CtxBlock → CtxBlock) : KeepsWork u (u.modCtxBlock r.ctx f) := ⟨rfl, fun _ => rfl⟩
    exact (pointWrite written).trans ((release _ b 6).trans ((advanced _).trans (ite (modBench _ _) (refl _))))

/-- A report of a fault (R210, R216) leaves the work of every unit as it was. -/
theorem report (s : State) (b : Nat) (r : FaultRec) : KeepsWork s (s.report b r) :=
  ite (modBench s b) (writeRecord s b r)

end KeepsWork
end Sys2Proof.Machine
end

section
/-! PROOFS. Attestation, features, ownership semaphores and power (R11, R288 to R292). -/

namespace Sys2Proof.Machine

open Sys2Proof

/-! ## Attestation, features and ownership -/

theorem exec_qgo_busy {s : State} (h : s.dev.boot.qdone = false) : exec .qgo s = .next s := if_neg (by simp [h])

theorem exec_qgo_idle {s : State} (h : s.dev.boot.qdone = true) : exec .qgo s = .next s.quoteGo := if_pos h

theorem exec_quoteDone_idle {s : State} (h : s.dev.boot.qdone = true) : exec .quoteDone s = .next s := if_pos h

theorem exec_quoteDone_busy {s : State} (h : s.dev.boot.qdone = false) :
    exec .quoteDone s = .next (s.modDev fun d => { d with boot := { s.dev.boot with
      sig := identitySign (sha512 (leBytes 64 s.dev.boot.meas.toNat ++ leBytes 32 s.dev.boot.nonce.toNat ++
        leBytes 8 s.dev.fabric.pkgid)),
      qdone := true } }) := if_neg (by simp [h])

/-- One 64-bit word of a register, by its bits. -/
theorem getLsbD_bitsIn {n : Nat} (x : BitVec n) (w : Nat) {i : Nat} (h : i < 64) :
    (w64 (bitsIn x (64 * w + 63) (64 * w))).getLsbD i = x.getLsbD (64 * w + i) := by
  rw [w64, bitsIn, bitsOf, BitVec.getLsbD_ofNat, Nat.testBit_mod_two_pow, Nat.testBit_shiftRight, BitVec.testBit_toNat,
    decide_eq_true h, decide_eq_true (by omega), Bool.true_and, Bool.true_and]

theorem toNat_w64_bitsIn {n : Nat} (x : BitVec n) (w : Nat) :
    (w64 (bitsIn x (64 * w + 63) (64 * w))).toNat = bitsIn x (64 * w + 63) (64 * w) := by
  have short := bitsOf_lt x.toNat (64 * w + 63) (64 * w)
  rw [show 64 * w + 63 + 1 - 64 * w = 64 by omega] at short
  exact Nat.mod_eq_of_lt short

/-- ACCEPT with a word written keeps of it the bits that are offered (R290). -/
theorem getLsbD_accept (old : BitVec 512) (v : W64) {w : Nat} (h : w < 8) (i : Nat) :
    (BitVec.ofNat 512 (setBits old.toNat (64 * w + 63) (64 * w)
        (v.toNat &&& bitsIn Config.offer (64 * w + 63) (64 * w)))).getLsbD i =
      if 64 * w ≤ i ∧ i < 64 * w + 64 then v.getLsbD (i - 64 * w) && Config.offer.getLsbD i else old.getLsbD i := by
  rw [← toNat_w64_bitsIn, ← BitVec.toNat_and, getLsbD_replaceWord _ _ (by omega)]
  split
  next inside =>
    rw [BitVec.getLsbD_and, getLsbD_bitsIn _ _ (by omega), Nat.add_sub_cancel' inside.1]
  next => rfl

theorem featureAccept_ignored {s : State} {w : Nat} (v : W64) (h : s.dev.features.done = true ∨ 8 ≤ w) :
    exec (.featureAccept w v) s = .next s := by
  by_cases hw : w < 8
  · have done := h.resolve_right (by omega)
    exact (if_pos hw).trans (congrArg Host.Outcome.next (if_pos done))
  · exact if_neg hw

theorem featureAccept_acts {s : State} {w : Nat} (v : W64) (owed : s.dev.features.done = false) (hw : w < 8) :
    ∃ t, exec (.featureAccept w v) s = .next t ∧ DevOnly s t ∧ t.dev.features.done = false ∧
      ∀ i, t.dev.features.accept.getLsbD i = if 64 * w ≤ i ∧ i < 64 * w + 64
        then v.getLsbD (i - 64 * w) && Config.offer.getLsbD i else s.dev.features.accept.getLsbD i :=
  ⟨_, (if_pos hw).trans (congrArg Host.Outcome.next (if_neg (by simp [owed]))), devOnly_modDev s _, owed,
    getLsbD_accept s.dev.features.accept v hw⟩

theorem exec_featureCommit_done {s : State} (h : s.dev.features.done = true) : exec .featureCommit s = .next s := if_pos h

theorem exec_featureCommit_owed {s : State} (h : s.dev.features.done = false) :
    exec .featureCommit s = .next s.commitFeatures := if_neg (by simp [h])

/-- A free ownership semaphore goes to its claimant; of two claims that meet, to the port that lost the tie before (R289). -/
theorem Owner.write_free {o : Owner} (h : o.own = 0) (a b : Option Nat) :
    o.write a b =
      if a = some 1 ∧ b = some 2 then if o.lastB then { own := 1, lastB := false } else { own := 2, lastB := true }
      else if a = some 1 then { o with own := 1 } else if b = some 2 then { o with own := 2 } else o := by
  simp [Owner.write, h]

theorem Owner.write_heldA {o : Owner} (h : o.own = 1) (a b : Option Nat) :
    (o.write a b).own = if a = some 0 then 0 else 1 := by
  by_cases freed : a = some 0 <;> simp [Owner.write, h, freed]

theorem Owner.write_heldB {o : Owner} (h : o.own = 2) (a b : Option Nat) :
    (o.write a b).own = if b = some 0 then 0 else 2 := by
  by_cases freed : b = some 0 <;> simp [Owner.write, h, freed]

theorem exec_ownershipSemaphore_none (s : State) {n : Nat} (a p : Option W64) (h : 32 ≤ n) :
    exec (.ownershipSemaphore n a p) s = .next s := if_neg (by omega)

theorem ownershipSemaphore_acts (s : State) {n : Nat} (a p : Option W64) (h : n < 32) :
    ∃ t, exec (.ownershipSemaphore n a p) s = .next t ∧ DevOnly s t ∧
      (∀ j, j ≠ n → t.dev.owners.get j {} = s.dev.owners.get j {}) ∧
      t.dev.owners.get n {} =
        (s.dev.owners.get n {}).write (a.map fun v => v.toNat % 4) (p.map fun v => v.toNat % 4) :=
  ⟨_, if_pos h, devOnly_modDev s _, fun j hj => by simp [State.modDev, hj], by simp [State.modDev]⟩

/-! ## Cell power -/

/-- A step after which a cell's power register is `y`, and no other cell's differs. -/
def CellBecomes (s : State) (c : Nat) (i : Instr) (y : CellPower) : Prop :=
  ∃ t, exec i s = .next t ∧ t.dev.cells.get c {} = y ∧ ∀ j, j ≠ c → t.dev.cells.get j {} = s.dev.cells.get j {}

theorem cellBecomes_of_put {s s' : State} {c : Nat} {i : Instr} {y : CellPower}
    (run : exec i s = .next (s'.modDev fun d => { d with cells := d.cells.set c y }))
    (kept : s'.dev.cells = s.dev.cells) : CellBecomes s c i y :=
  ⟨_, run, Tbl.get_set_self .., fun j hj => (Tbl.get_set_ne _ y {} hj).trans (congrArg (Tbl.get · j {}) kept)⟩

theorem flushCell_keepsWork (s : State) (c : Nat) :
    KeepsWork s ((List.range 8).foldl (fun s k => s.flushL1 (8 * c + k)) s) :=
  KeepsWork.foldl (fun s k => KeepsWork.flushL1 s (8 * c + k)) _ s

section
variable {s : State} {c : Nat} {v : W64}

theorem exec_cellPowerReq_none (s : State) (v : W64) (h : 32 ≤ c) : exec (.cellPowerReq c v) s = .next s := if_neg (by omega)

theorem exec_cellPowerReq (s : State) (v : W64) (h : c < 32) : exec (.cellPowerReq c v) s = .next (s.writeCellReq c v) :=
  if_pos h

/-- A request to a cell that is not ON is noted (R291). -/
theorem cellPowerReq_notOn (hc : c < 32) (req : v.getLsbD 0 = true) (off : (s.dev.cells.get c {}).state ≠ 0) :
    CellBecomes s c (.cellPowerReq c v) { s.dev.cells.get c {} with req := true } :=
  cellBecomes_of_put (s' := s) ((exec_cellPowerReq s v hc).trans (by simp [State.writeCellReq, req, off])) rfl

theorem cellPowerReq_busy (hc : c < 32) (req : v.getLsbD 0 = true) (on : (s.dev.cells.get c {}).state = 0)
    (used : s.cellIdle c = false) :
    CellBecomes s c (.cellPowerReq c v) { s.dev.cells.get c {} with busy := true } :=
  cellBecomes_of_put (s' := s) ((exec_cellPowerReq s v hc).trans (by simp [State.writeCellReq, req, on, used])) rfl

/-- An idle cell quiesces: its L1 lines are written back (R291). -/
theorem cellPowerReq_idle (hc : c < 32) (req : v.getLsbD 0 = true) (on : (s.dev.cells.get c {}).state = 0)
    (idle : s.cellIdle c = true) :
    CellBecomes s c (.cellPowerReq c v) { req := true, state := 1, busy := false } :=
  cellBecomes_of_put ((exec_cellPowerReq s v hc).trans (by simp [State.writeCellReq, req, on, idle]))
    (flushCell_keepsWork s c).cells

theorem cellPowerReq_wakes (hc : c < 32) (req : v.getLsbD 0 = false) :
    CellBecomes s c (.cellPowerReq c v)
      { s.dev.cells.get c {} with req := false, state := if (s.dev.cells.get c {}).state = 0 then 0 else 4 } := by
  refine cellBecomes_of_put (s' := s)
    ((exec_cellPowerReq s v hc).trans (congrArg _ ((if_neg (by rw [req]; decide)).trans ?_))) rfl
  by_cases on : (s.dev.cells.get c {}).state = 0
  · simp only [on, if_true]
  · simp only [on, if_false]

theorem cellOffReached_ignored (h1 : (s.dev.cells.get c {}).state ≠ 1) (h2 : (s.dev.cells.get c {}).state ≠ 2) :
    exec (.cellOffReached c) s = .next s := if_neg (by simp [h1, h2])

theorem cellOffReached_acts (h : (s.dev.cells.get c {}).state = 1 ∨ (s.dev.cells.get c {}).state = 2) :
    CellBecomes s c (.cellOffReached c) { s.dev.cells.get c {} with state := 3 } :=
  cellBecomes_of_put (if_pos (by simpa using h)) (flushCell_keepsWork s c).cells

/-- What the wake of a cell does to a bench (R291). -/
def Bench.woken (c b : Nat) (y : Bench) : Bench := if cellOf b = c then { y with tiles := [], lines := [] } else y

theorem exec_cellWakeDone_ignored (h : (s.dev.cells.get c {}).state ≠ 4) : exec (.cellWakeDone c) s = .next s :=
  if_pos (by simpa using h)

theorem exec_cellWakeDone (h : (s.dev.cells.get c {}).state = 4) :
    exec (.cellWakeDone c) s = .next (({ s with
      benches := s.benches.mapVal (Bench.woken c), tlbs := s.tlbs.filter fun p => !p.1.inCell c } : State).modDev
        fun d => { d with cells := d.cells.set c { s.dev.cells.get c {} with state := 0 } }) :=
  if_neg (by simp [h])

theorem bench_mapWoken (s : State) (c b : Nat) :
    (s.benches.mapVal (Bench.woken c)).get b {} = Bench.woken c b (s.bench b) := by
  rw [Tbl.get_mapVal, State.bench, Tbl.get]
  cases s.benches.get? b with
  | none =>
    change {} = Bench.woken c b {}
    unfold Bench.woken
    split <;> rfl
  | some x => rfl

theorem cellWakeDone_benches (h : (s.dev.cells.get c {}).state = 4) :
    ∃ t, exec (.cellWakeDone c) s = .next t ∧ t.mem = s.mem ∧
      (∀ b, cellOf b = c → (t.bench b).tiles = [] ∧ (t.bench b).lines = []) ∧
      ∀ b, cellOf b ≠ c → t.bench b = s.bench b := by
  refine ⟨_, exec_cellWakeDone h, rfl, fun b hb => ?_, fun b hb => (bench_mapWoken s c b).trans (if_neg hb)⟩
  have woken := (bench_mapWoken s c b).trans (if_pos hb)
  exact ⟨congrArg Bench.tiles woken, congrArg Bench.lines woken⟩

end

/-! ## Clocks -/

theorem exec_plim (s : State) (v : W64) :
    exec (.plim v) s = .next (s.modDev fun d => { d with power := { d.power with
      plim := if 900 ≤ bitsOf v.toNat 11 0 ∧ bitsOf v.toNat 11 0 ≤ 2400 then bitsOf v.toNat 11 0 else d.power.plim,
      throt := d.power.throt && !v.getLsbD 28 } }) := by
  change Host.Outcome.next (s.writePower v) = _
  simp only [State.writePower, Bool.and_eq_true, decide_eq_true_eq]

theorem exec_clockStepSelect (s : State) (a b : Nat) :
    exec (.clockStepSelect a b) s = .next (s.modDev fun d => { d with power := { s.dev.power with
      step0 := if a ≤ 6 ∧ s.clockHeld 0 = false then a else s.dev.power.step0,
      step1 := let b := if s.dev.boot.lockstep then a else b
               if b ≤ 6 ∧ s.clockHeld 1 = false then b else s.dev.power.step1 } }) := by
  change execClockStepSelect a b s = _
  simp only [execClockStepSelect, Bool.and_eq_true, decide_eq_true_eq, Bool.not_eq_true']

theorem exec_thermalTrip_none (s : State) {die : Nat} (h : 2 ≤ die) : exec (.thermalTrip die) s = .next s := if_pos h

/-- The power block after a trip of a domain (R292). -/
def State.tripped (s : State) (dom : Nat) (p : Power) : Power :=
  { p with throt := true, step0 := if s.domain 0 = dom then min 6 (p.step0 + 1) else p.step0,
           step1 := if s.domain 1 = dom then min 6 (p.step1 + 1) else p.step1 }

theorem exec_thermalTrip_free {s : State} {die : Nat} (h : die < 2) (free : s.clockHeld die = false) :
    exec (.thermalTrip die) s = .next (s.modDev fun d => { d with power := s.tripped (s.domain die) s.dev.power }) := by
  change execThermalTrip die s = _
  rw [execThermalTrip, if_neg (by omega), free]
  rfl

theorem ring_modRing (s : State) (b k : Nat) (f : Ring → Ring) (x y : Nat) :
    (s.modRing b k f).ring x y = if x = b ∧ y = k then f (s.ring b k) else s.ring x y := by
  rw [State.ring, State.modRing, State.bench_modBench]
  by_cases hx : x = b
  · subst hx
    rw [if_pos rfl, Bench.ring, Tbl.get_upd]
    by_cases hy : y = k
    · rw [if_pos hy, if_pos ⟨rfl, hy⟩]; rfl
    · rw [if_neg hy, if_neg (hy ·.2)]; rfl
  · rw [if_neg hx, if_neg (hx ·.1)]; rfl

theorem haltRing_keepsWork (s : State) (b k n : Nat) (r : Raise) :
    KeepsWork (s.modRing b k fun k => { k with state := .halted, fin := none, armed := false }) (s.haltRing b k n r) :=
  (KeepsWork.modBench _ b).trans ((KeepsWork.noteCause _ r.cause).trans (KeepsWork.report _ b _))

/-- A halt changes its ring and no other (R38). -/
theorem ring_haltRing (s : State) (b k n : Nat) (r : Raise) (x y : Nat) :
    (s.haltRing b k n r).ring x y =
      if x = b ∧ y = k then { s.ring b k with state := .halted, fin := none, armed := false } else s.ring x y := by
  rw [State.ring, Bench.ring, (haltRing_keepsWork s b k n r).rings x]
  exact ring_modRing s b k _ x y

/-- Rings halt one after another, each with TIMING at its next command (R11). -/
def State.haltAll (s : State) (hit : List (Nat × Nat)) : State :=
  hit.foldl (fun s x => s.haltRing x.1 x.2 ((s.ring x.1 x.2).rp + 1) (raiseOf Cause.timing)) s

theorem ring_haltAll_other {hit : List (Nat × Nat)} {b k : Nat} (h : (b, k) ∉ hit) (s : State) :
    (s.haltAll hit).ring b k = s.ring b k := by
  induction hit generalizing s with
  | nil => rfl
  | cons x hit ih =>
    rw [List.mem_cons, not_or] at h
    refine (ih h.2 _).trans ((ring_haltRing ..).trans (if_neg fun same => h.1 ?_))
    exact Prod.ext same.1 same.2

theorem ring_haltAll_state {hit : List (Nat × Nat)} {b k : Nat} (h : (b, k) ∈ hit) (s : State) :
    ((s.haltAll hit).ring b k).state = .halted := by
  induction hit generalizing s with
  | nil => cases h
  | cons x hit ih =>
    by_cases later : (b, k) ∈ hit
    · exact ih later _
    · obtain rfl := (List.mem_cons.1 h).resolve_right later
      exact congrArg Ring.state ((ring_haltAll_other later _).trans ((ring_haltRing ..).trans (if_pos ⟨rfl, rfl⟩)))

/-- A timed ring is listed in its bench's table, and its bench in the device's. -/
theorem timedRing_listed {s : State} {b k : Nat} (h : (s.ring b k).timed = true) :
    (b, s.bench b) ∈ s.benches ∧ (k, s.ring b k) ∈ (s.bench b).rings := by
  have ring : s.ring b k ≠ {} := by
    intro blank
    rw [blank] at h
    cases h
  have bench : s.bench b ≠ {} := by
    intro blank
    exact ring (by rw [State.ring, blank]; rfl)
  exact ⟨Tbl.mem_of_get_ne bench, Tbl.mem_of_get_ne ring⟩

/-- The timed rings of a domain that run (R11). -/
def State.running (s : State) (dom : Nat) : List (Nat × Nat) :=
  s.benches.flatMap fun p => (p.2.rings.filter fun k =>
    s.domain (dieOf p.1) == dom && k.2.timed && k.2.state == .running).map fun k => (p.1, k.1)

theorem mem_running {s : State} {b k : Nat} (timed : (s.ring b k).timed = true) (runs : (s.ring b k).state = .running) :
    (b, k) ∈ s.running (s.domain (dieOf b)) := by
  obtain ⟨bench, ring⟩ := timedRing_listed timed
  refine List.mem_flatMap.2 ⟨_, bench, List.mem_map.2 ⟨_, List.mem_filter.2 ⟨ring, ?_⟩, rfl⟩⟩
  simp [timed, runs]

theorem domain_of_mem_running {s : State} {b k dom : Nat} (h : (b, k) ∈ s.running dom) : s.domain (dieOf b) = dom := by
  obtain ⟨p, -, listed⟩ := List.mem_flatMap.1 h
  obtain ⟨r, hr, same⟩ := List.mem_map.1 listed
  obtain ⟨rfl, rfl⟩ := Prod.mk.inj same
  obtain ⟨-, picked⟩ := List.mem_filter.1 hr
  simp only [Bool.and_eq_true, beq_iff_eq] at picked
  exact picked.1.1

theorem exec_thermalTrip_held {s : State} {die : Nat} (h : die < 2) (held : s.clockHeld die = true) :
    exec (.thermalTrip die) s = .next ((s.haltAll (s.running (s.domain die))).modDev fun d =>
      { d with power := s.tripped (s.domain die) (s.haltAll (s.running (s.domain die))).dev.power }) := by
  change execThermalTrip die s = _
  rw [execThermalTrip, if_neg (by omega), held]
  rfl

theorem thermalTrip_halts {s : State} {die : Nat} (h : die < 2) (held : s.clockHeld die = true) :
    ∃ t, exec (.thermalTrip die) s = .next t ∧ t.dev.power.throt = true ∧
      (∀ b k, s.domain (dieOf b) = s.domain die → (s.ring b k).timed = true → (s.ring b k).state = .running →
        (t.ring b k).state = .halted) ∧
      ∀ b k, s.domain (dieOf b) ≠ s.domain die → t.ring b k = s.ring b k := by
  refine ⟨_, exec_thermalTrip_held h held, rfl, fun b k own timed runs => ?_, fun b k other => ?_⟩
  · exact ring_haltAll_state (own ▸ mem_running timed runs) s
  · exact ring_haltAll_other (fun listed => other (domain_of_mem_running listed)) s

/-- After the thermal cut no turn but a device reset does anything (R292). -/
theorem step_of_off {s : State} (off : s.dev.power.off = true) (turn : s.nextTurn.1 ≠ .event .deviceReset) :
    step s = .next s.nextTurn.2 := by
  have dead : s.nextTurn.2.powered = false := by
    rw [State.powered, show s.nextTurn.2.dev = s.dev by unfold State.nextTurn; split <;> rfl, off]
    rfl
  have barred : (!s.nextTurn.2.powered && s.nextTurn.1 != .event .deviceReset || !s.nextTurn.1.isUnit) = true := by
    simp [dead, turn]
  have idle : s.todo = .still s.nextTurn.2 := if_pos barred
  rw [step, idle]

end Sys2Proof.Machine

namespace Sys2Proof.Proofs

open Sys2Proof Sys2Proof.Machine

/-- Settles O41: each write and each power event acts by its lemma above. -/
theorem featureOwnershipAndPowerEventsAct : Obligations.FeatureOwnershipAndPowerEventsAct := by
  constructor
  · intro s k f
    refine ⟨exec_qgo_busy, fun idle => ⟨_, exec_qgo_idle idle, rfl, rfl⟩, exec_quoteDone_idle,
      fun busy => ⟨_, exec_quoteDone_busy busy, devOnly_modDev s _, rfl⟩,
      fun word v => ⟨featureAccept_ignored v, featureAccept_acts v⟩, exec_featureCommit_done,
      fun owed => ⟨_, exec_featureCommit_owed owed, devOnly_modDev s _, rfl⟩,
      fun n a p => ⟨exec_ownershipSemaphore_none s a p, fun hn => ?_⟩⟩
    obtain ⟨t, run, only, others, written⟩ := ownershipSemaphore_acts s a p hn
    refine ⟨t, run, only, others, ?_⟩
    rw [written]
    refine ⟨fun free claimA no => ?_, fun free claimB no => ?_, fun free claimA claimB => ?_, fun free noA noB => ?_,
      fun held => Owner.write_heldA held _ _, fun held => Owner.write_heldB held _ _⟩
    · rw [Owner.write_free free, if_neg (no ·.2), if_pos claimA]
    · rw [Owner.write_free free, if_neg (no ·.1), if_neg no, if_pos claimB]
    · rw [Owner.write_free free, if_pos ⟨claimA, claimB⟩]
      split <;> rfl
    · rw [Owner.write_free free, if_neg (noA ·.1), if_neg noA, if_neg noB]
  · intro s p device
    refine ⟨fun c v => ⟨exec_cellPowerReq_none s v, cellPowerReq_notOn, cellPowerReq_busy, cellPowerReq_idle,
        cellPowerReq_wakes, cellOffReached_ignored, cellOffReached_acts, exec_cellWakeDone_ignored,
        fun waking => ⟨cellBecomes_of_put (exec_cellWakeDone waking) rfl, cellWakeDone_benches waking⟩⟩,
      fun v => ⟨_, exec_plim s v, devOnly_modDev s _, rfl⟩,
      fun a b => ⟨_, exec_clockStepSelect s a b, devOnly_modDev s _, rfl⟩,
      fun die => exec_thermalTrip_none s,
      fun die hd free => ⟨_, exec_thermalTrip_free hd free, devOnly_modDev s _, rfl⟩,
      fun die hd held => thermalTrip_halts hd held, ⟨_, rfl, devOnly_modDev s _, rfl⟩, step_of_off⟩

end Sys2Proof.Proofs
end

section
/-! PROOFS. The release of the fault latch (R217) against the writing of the record that waited for it (R210). -/

namespace Sys2Proof.Machine

open Sys2Proof

/-- A record that waits for the latch of bench 0. -/
def waitingRecord : FaultRec := { cause := Cause.perm }

/-- Bench 0 has a full latch, a record that waits for it, and an L1 line with a masked byte in each of two sectors. The places
of both sectors in the CACHE granule are poisoned, and the poison map lies where no memory is fitted. -/
def releaseOverPoison : State :=
  let place : Nat := storePa 0 0 / 64
  { State.reset with
    poisoned := [(place, 2), (place + 1, 2)]
    benches := [(0, { lines := [{ line := 4, granule := 0, masked := [0, 64] }],
                      latch := { record := some {}, pending := [waitingRecord] } })]
    dev := { boot := { fitted := (4096, 0) }, poison := { base := 8192 } } }

theorem exec_latchRel (s : State) (b : Nat) : exec (.latchRel b) s = .next (s.releaseLatch b) := rfl

/-- The record that waited is written, and its Release(SYSTEM) writes the line back (R148, R210). The bytes take the poison of
their places with them, so that two sectors of memory become poisoned (R113); the entry of each in the poison map faults. The
first of these faults takes the latch that was released, and the second waits for it (R216). -/
theorem releaseOverPoison_pends :
    ((releaseOverPoison.releaseLatch 0).ctxBlock 0).widx = 1 ∧
      ((releaseOverPoison.releaseLatch 0).bench 0).latch.record.isSome = true ∧
      ((releaseOverPoison.releaseLatch 0).bench 0).latch.pending.length = 1 := by decide +kernel

end Sys2Proof.Machine

namespace Sys2Proof.Proofs

open Sys2Proof Sys2Proof.Machine

/-- Refutes O38, by its third row: after LATCH_REL with one record that waits, something may wait for the latch again, since
the Release of that record's writing can itself meet faults of the bench. -/
theorem not_shootdownFaultAndResetEventsAct : ¬ Obligations.ShootdownFaultAndResetEventsAct := by
  rintro ⟨-, -, release, -⟩
  obtain ⟨t, ran, emptied, -⟩ := (release releaseOverPoison 0).2 waitingRecord rfl
  obtain rfl : releaseOverPoison.releaseLatch 0 = t := Host.Outcome.next.inj ((exec_latchRel _ 0).symm.trans ran)
  obtain ⟨-, -, pends⟩ := releaseOverPoison_pends
  rw [emptied] at pends
  exact absurd pends (by decide)

end Sys2Proof.Proofs
end

section
/-! PROOFS. The fetch of a quarter (R304) against the values that a fragment holds of its accesses to SO pages (R141). -/

namespace Sys2Proof.Machine

open Sys2Proof

/-- A fragment that waits for nothing and still holds the value of an access to a local SO page, under the number 256: what a
load leaves that awaited another package (R269), then raised POISON of a register before its accesses were made again (R218),
and is replayed (R214). -/
def holdingFrag : Frag := { mask := 0xFFFFFFFF, pc := 0x4000, codes := [(256, 0)] }

/-- The wave of `holdingFrag`. -/
def holdingWave : Wave := { group := 0, index := 0, frags := [(0, holdingFrag)] }

/-- The group of `holdingFrag`. -/
def holdingGroup : Group := { ctx := 0, part := 0, origin := .grid 0 1, launch := 0, groupId := 0, waves := [0] }

/-- `holdingFrag` with its turn. -/
def holdingCx : Wcx := { b := 0, slot := 0, e := 0, f := holdingFrag, w := holdingWave, g := holdingGroup }

/-- The turn of the quarter of `holdingFrag`, with a NOP at its PC, in a page of PBMT = IO, which is an SO page (R125). -/
def holdingTurn : State :=
  let s := State.reset.placeWave 64 0x0100000000000000
  { s with mem := Mem.write s.mem (vaultBase + 0x2007) [0x40],
           benches := [(0, { waves := [(0, holdingWave)], groups := [(0, holdingGroup)] })] }

/-- `holdingTurn` as its fragment issues. -/
def holdingIssue : State := { holdingTurn with agenda := [], cur := .wave 0 0 0 }

/-- The leaf that maps the PC. -/
def ioLeaf : TlbEntry := { asid := 0, vpn := 0, pages := 2 ^ 27, pte := 0x40000200000000DF, level := 3 }

/-- `holdingIssue` with the PC translated. -/
def holdingFetch : State := { holdingIssue with tlbs := [(.bench 0, ioLeaf)] }

/-- The translation of the PC. -/
def ioXlat : Xlat := { pa := vaultBase + 0x4000, ord := 1, left := 2 ^ 39 - 0x4000 }

theorem ok_of_toOption {ε α : Type} {e : Except ε α} {a : α} (h : e.toOption = some a) : e = .ok a := by
  cases e with
  | error c => cases h
  | ok x => cases h; rfl

theorem holdingIssue_translates :
    holdingIssue.translateCtx [.bench 0] 0 0 0x4000 .fetch = .ok (ioXlat, holdingFetch) :=
  ok_of_toOption (by decide +kernel)

theorem holdingFetch_plain : Plain holdingFetch 0 ioXlat.pa 8 := ⟨.inr ⟨0, by decide +kernel⟩, by decide +kernel, rfl⟩

/-- The word that memory holds at the PC. -/
def holdingWord : W64 := w64 (leNat (Mem.read holdingFetch.mem (ioXlat.pa % 2 ^ 44) 8))

theorem decode_holdingWord : Decode.wave holdingWord = .ok (.nop ⟨0, 0, 0, 0, 0, 0⟩) :=
  ok_of_toOption (by decide +kernel)

/-- The PC of split-table entry 0 of wave 0 of bench 0 after a step. -/
def pcAfter (o : Host.Outcome State Fault Refusal) : Option W64 :=
  match o with
  | .next t => (t.frag? 0 0 0).map (·.pc)
  | _ => none

/-- The step takes the held value, 0, for the word: it names no instruction, and the fragment parks at it (R305). -/
theorem step_holdingTurn_parks : pcAfter (step holdingTurn) = some 0x4000 := by decide +kernel

theorem exec_nop_moves :
    pcAfter (exec (.nop ⟨0, 0, 0, 0, 0, 0⟩)
      (holdingFetch.modFrag 0 0 0 fun f => { f with wait := none, reads := [], writes := [], word := holdingWord })) =
        some 0x4008 := by decide +kernel

end Sys2Proof.Machine

namespace Sys2Proof.Proofs

open Sys2Proof Sys2Proof.Machine

/-- Refutes O56, by its clause for a quarter that fetches: a fragment that holds values of accesses to SO pages, and whose PC
lies in an SO page, runs such a value and not the word at its PC. -/
theorem not_stepRunsDecoded : ¬ Obligations.StepRunsDecoded := by
  rintro ⟨quarter, -⟩
  have turn := (quarter holdingTurn 0 0 0 0 [] holdingCx ioXlat holdingFetch (by decide) (by decide) rfl rfl).2 rfl
    (by decide +kernel) rfl
  obtain ⟨-, -, fetches⟩ := turn
  have goes := (fetches rfl (by decide +kernel) rfl rfl (by decide +kernel) holdingIssue_translates rfl
    holdingFetch_plain).1 (fun _ noText => nomatch noText)
  have runs := (goes.1 (by decide +kernel)).1 _ decode_holdingWord
  have moved := (congrArg pcAfter runs).trans exec_nop_moves
  rw [step_holdingTurn_parks] at moved
  exact absurd moved (by decide)

end Sys2Proof.Proofs
end
